-- ==== Sys2Proof/Word.lean ====
section
/-! DEFINITION. The word types of the model, and nothing else. -/

namespace Sys2Proof

/-- One byte. -/
abbrev Byte := BitVec 8
/-- A 16-bit word. -/
abbrev W16 := BitVec 16
/-- A 32-bit word: a set-up register (R12), a scalar register, an fp32 value. -/
abbrev W32 := BitVec 32
/-- A 48-bit sequence number (R271, R293). -/
abbrev W48 := BitVec 48
/-- A 64-bit word. -/
abbrev W64 := BitVec 64
/-- A 64-byte line or descriptor, byte 0 in the low eight bits (R277). -/
abbrev Line := BitVec 512

end Sys2Proof
end

