-- ==== Sys2Proof/Syntax.lean ====
section
/-! DEFINITION. The commands of the block: one constructor for each row of spec/opcode_table.json, with the
operands its rule names. The table gives no row any bits, so a command has no encoding. -/

namespace Sys2Proof

/-- A race number (Table 0-2). -/
abbrev RaceId := Fin 8
/-- A tenant number (Table 0-2). -/
abbrev TenantId := Fin 8
/-- A work class (R57). -/
abbrev ClassId := Fin 4
/-- A network port (Table 0-2). -/
abbrev PortId := Fin 8

/-- A mill by its logical name m*n*.*k* (R11). -/
structure MillName where
  race : RaceId
  mill : Fin 24
deriving DecidableEq, Repr

/-- The two memory tiers (Table 8-1). -/
inductive Tier where
  | a | b
deriving DecidableEq, Repr

/-- The hopper partitions of R186. -/
inductive HopName where
  | race (r : RaceId)
  | tenant (t : TenantId)
  | device
deriving DecidableEq, Repr

/-- A ring of either kind (R268). -/
inductive RingName where
  | work (w : Fin 64)
  | comp (c : Fin 16)
deriving DecidableEq, Repr

/-- The four half-directions of the link in the field order of Table 10-14. -/
inductive HalfDir where
  | h0tx | h0rx | h1tx | h1rx
deriving DecidableEq, Repr

/-- The vector unit's modifier bits (Table 3-11). -/
structure VMods where
  brow  : Bool := false
  bscal : Bool := false
  acc   : Bool := false
  sat   : Bool := false
deriving DecidableEq, Repr

/-- A flit as received (Table 10-3). -/
structure Flit where
  slots  : List (BitVec 128)
  fseqW  : W16
  ackW   : W16
  crReq  : Byte
  crSnp  : Byte
  crPool : Byte
  rsv    : Byte
  crc    : W64
deriving DecidableEq, Repr

/-- The Weir header of Table 11-2, with its reserved fields. -/
structure WeirHdr where
  verType  : Byte
  flags    : Byte
  restart  : Byte
  rsv3     : Byte
  sender   : W16
  msgSeq   : W48
  epoch    : W16
  payLen   : W16
  tag      : W32
  msgLen   : W32
  msgBase  : W64
  pktIndex : W32
  rsv24    : W32
deriving DecidableEq, Repr

/-- A Weir packet: header, body and CRC-32C trailer (R287). -/
structure WeirPkt where
  hdr  : WeirHdr
  body : List Byte
  crc  : W32
deriving DecidableEq, Repr

/-- The key of a Weir message at its receiver (R299). -/
structure MsgKey where
  sender : W16
  seq    : W48
  epoch  : W16
deriving DecidableEq, Repr

/-- What the board, the parts and the link partners do during start-up (Table 18-1): the inputs of the sequence. -/
structure StartUp where
  inputInRange : Bool := true
  millRef      : Bool := true
  mgmtModeOpen : Bool := true
  pmbAddr      : BitVec 2 := 0
  pgoodMs      : BitVec 12 := 0
  /-- physical mills that fail the self-test of step 7, bit p -/
  millFail     : Vector (BitVec 25) 8 := Vector.replicate 8 0
  /-- tier A channels that fail the training of step 8 -/
  lostA        : Vector (BitVec 32) 8 := Vector.replicate 8 0
  /-- tier B channels that fail the training of step 8 -/
  lostB        : Vector (BitVec 14) 8 := Vector.replicate 8 0
  /-- lanes that pass the pattern test of step 10, H0 tx, H0 rx, H1 tx, H1 rx -/
  lanesGood    : Vector Byte 4 := Vector.replicate 4 0xFF
  /-- ports that come up in step 11 -/
  portsUp      : Byte := 0
deriving DecidableEq, Repr

/-- What caused a power-fail sequence (Table 16-1). -/
inductive PowerFailCause where
  | lowInput | highInput | powerGoodLow
deriving DecidableEq, Repr

/-- How a warm reset was requested (R330). -/
inductive WarmCause where
  | pin | key
deriving DecidableEq, Repr

/-- One telemetry sample of the power block (R412): `vin`, `pinW`, `peakW`, `draw`, `temp`, `railMv` and `railA` in the
units of Tables 16-13 to 16-15, `busV` in units of 2^-12 V, `tRace` and `tConv` in units of 0.1 °C. -/
structure PowerSample where
  vin    : W16 := 0
  pinW   : W16 := 0
  peakW  : W16 := 0
  iin    : W16 := 0
  busV   : W16 := 0
  tRace  : W16 := 0
  tConv  : W16 := 0
  draw   : Vector (BitVec 12) 8 := Vector.replicate 8 0
  temp   : Vector (BitVec 12) 8 := Vector.replicate 8 0
  railMv : Vector (BitVec 14) 15 := Vector.replicate 15 0
  railA  : Vector (BitVec 12) 15 := Vector.replicate 15 0
deriving DecidableEq, Repr

/-- An operator certificate as presented in a handshake, with what R417 asks of it. -/
structure OperatorCert where
  issuer   : List Byte
  rsa4096  : Bool
  pssValid : Bool
  /-- bit 0 OBSERVE, 1 OPERATE, 2 DEBUG, 3 SECURITY -/
  roles    : BitVec 4
deriving DecidableEq, Repr

/-- A management request's session and ID (Table 17-1). -/
structure ReqId where
  session : Fin 4
  id      : W16
deriving DecidableEq, Repr

/-- A test request (Table 17-8, Table 17-13, Table 17-14). -/
structure TestArgs where
  code   : Byte
  race   : BitVec 4
  unit   : BitVec 6
  start  : W48 := 0
  length : W32 := 0
  ticks  : W16 := 0
deriving DecidableEq, Repr

/-- What a test found when it ended (Table 17-9). -/
structure TestFound where
  ok     : W32
  bad    : W32
  detail : W64
  /-- bursts that fail a march, as channel index and burst address (R429) -/
  bursts : List (Fin 46 × BitVec 29) := []
deriving DecidableEq, Repr

/-- The commands of the block. -/
inductive Instr where
  -- The tick (spec/02_tick.md, spec/12_journal.md)
  | plan
  | uploadTimeout (slot : Fin 64) (participant : BitVec 24)
  | itemStart (item : Nat)
  | itemEnd (item : Nat)
  | priceExceeded (item : Nat)
  | executeEnd
  | commit
  | commitAcknowledged (t : TenantId)
  | tickAbandoned (t : TenantId)
  | completionRecordWrite (t : TenantId) (c : Fin 16)
  | journalApply (t : TenantId)
  | run (on : Bool)
  | hold (r : RaceId) (on : Bool)
  | held (t : TenantId)
  | ppsEdge (errNs : W32)
  | lockLost
  | keyLoadLate (t : TenantId)
  -- The mill (spec/03_mill.md, spec/04_accumulation.md)
  | nop (m : MillName)
  | loop (m : MillName) (lc : Fin 4) (s : Fin 16) (len : BitVec 12)
  | skipz (m : MillName) (s : Fin 16) (n : Byte)
  | skipnz (m : MillName) (s : Fin 16) (n : Byte)
  | saddi (m : MillName) (sd sa : Fin 16) (imm : BitVec 11)
  | sop (m : MillName) (sd sa sb : Fin 16) (func : Fin 8)
  | sli (m : MillName) (sd : Fin 16) (imm : BitVec 15)
  | sldc (m : MillName) (sd : Fin 16) (index : BitVec 12)
  | arg (m : MillName) (sd : Fin 16) (index : Fin 8)
  | tset (m : MillName) (t : Fin 16) (field : Fin 5) (s : Fin 16)
  | tadd (m : MillName) (t s : Fin 16)
  | tld (m : MillName) (t : Fin 16) (index : BitVec 12)
  | bar (m : MillName) (id : BitVec 5) (setScope : Bool) (timeout : BitVec 10)
  | barrierComplete (item : Nat) (id : BitVec 5) (scope : Option RaceId)
  | barrierTimeout (m : MillName)
  | waitm (m : MillName) (tags : W16)
  | rngrd (m : MillName) (sd : Fin 16)
  | tflg (m : MillName) (sd t : Fin 16)
  | endMill (m : MillName)
  | wld (m : MillName) (tW : Fin 16)
  | mma (m : MillName) (acc : Bool) (tA tC : Fin 16) (swap mismatch : Bool)
  | mout (m : MillName) (tC tD tE : Fin 16) (fuse : Fin 3) (sat mismatch : Bool)
  | vadd (m : MillName) (d a b : Fin 16) (mods : VMods)
  | vsub (m : MillName) (d a b : Fin 16) (mods : VMods)
  | vmul (m : MillName) (d a b : Fin 16) (mods : VMods)
  | vfma (m : MillName) (d a b c : Fin 16) (mods : VMods)
  | vmax (m : MillName) (d a b : Fin 16) (mods : VMods)
  | vmin (m : MillName) (d a b : Fin 16) (mods : VMods)
  | vcvt (m : MillName) (d a : Fin 16) (mods : VMods)
  | vexp2 (m : MillName) (d a : Fin 16) (mods : VMods)
  | vlog2 (m : MillName) (d a : Fin 16) (mods : VMods)
  | vrcp (m : MillName) (d a : Fin 16) (mods : VMods)
  | vrsq (m : MillName) (d a : Fin 16) (mods : VMods)
  | vred (m : MillName) (d a : Fin 16) (mods : VMods)
  | vssq (m : MillName) (d a : Fin 16) (mods : VMods)
  | vwel (m : MillName) (d a : Fin 16) (mods : VMods)
  | vrmax (m : MillName) (d a : Fin 16) (mods : VMods)
  | vqmx (m : MillName) (d a : Fin 16) (mods : VMods)
  | vtmsk (m : MillName) (d a : Fin 16)
  | vrng (m : MillName) (d a : Fin 16)
  | vsel (m : MillName) (d a b c : Fin 16) (mods : VMods)
  | radd (m : MillName) (w : Bool) (d a b : Fin 16)
  | rsub (m : MillName) (w : Bool) (d a b : Fin 16)
  | rneg (m : MillName) (w : Bool) (d a : Fin 16)
  | rcpy (m : MillName) (w : Bool) (d a : Fin 16)
  | rzero (m : MillName) (w : Bool) (d : Fin 16)
  | rxgen (m : MillName) (w : Bool) (d : Fin 16) (slot : Fin 4) (s : Fin 16)
  | rxadd (m : MillName) (w : Bool) (d a : Fin 16) (slot : Fin 4) (s : Fin 16)
  | rxsub (m : MillName) (w : Bool) (d a : Fin 16) (slot : Fin 4) (s : Fin 16)
  | mld (m : MillName) (tag : Fin 16) (window : Fin 8) (s t : Fin 16)
  | mst (m : MillName) (tag : Fin 16) (window : Fin 8) (s t : Fin 16)
  | mcpy (m : MillName) (tag src t : Fin 16)
  | moveComplete (m : MillName) (tag : Fin 16)
  -- General descriptors (Table 10-11); `host` is what the item's reads of host memory return
  | nopDescriptor (item : Nat)
  | move (item : Nat) (host : List Byte)
  | loadImage (item : Nat) (host : List Byte)
  | wset (item : Nat) (host : List Byte)
  | runDescriptor (item : Nat)
  -- Secure aggregation (spec/05_aggregation.md)
  | aggOpen (item : Nat)
  | aggSeeds (item : Nat) (host : List Byte)
  | aggDrop (item : Nat) (host : List Byte)
  | aggClose (item : Nat)
  | aggRelease (item : Nat)
  | aggFree (item : Nat)
  | aggAbort (item : Nat)
  | aggQuery (item : Nat)
  | segmentItem (item : Nat)
  | chainTimeout (slot : Fin 64)
  -- Token generation (spec/06_token_generation.md)
  | decModel (item : Nat)
  | decOpen (item : Nat) (host : List Byte)
  | decPages (item : Nat) (host : List Byte)
  | decRun (item : Nat) (host : List Byte)
  | decStop (item : Nat)
  | decClose (item : Nat)
  | promotion (item : Nat)
  | draft (item : Nat) (host : List Byte)
  | slice (item : Nat)
  | accept (item : Nat)
  -- The hopper (spec/07_hopper.md)
  | push (p : HopName) (q : BitVec 14) (data : W64) (tag : Byte)
  | pop (p : HopName) (q : BitVec 14)
  | hopperPartitionReset (p : HopName)
  | queueRebuild (p : HopName)
  | hopperResetReq (p : HopName)
  | wmAck (p : HopName) (q : BitVec 14)
  -- Memory tiers and stored-data protection (spec/08_memory.md, spec/09_data_protection.md)
  | channelLost (r : RaceId) (tier : Tier) (ch : Fin 32)
  | taFallback (r : RaceId)
  | rebuildReq (r : RaceId) (ch : BitVec 4)
  | rebuildStart (r : RaceId) (trained : Bool)
  | rebuildDone (r : RaceId)
  | refresh (r : RaceId) (tier : Tier)
  | refreshRateRead (r : RaceId) (ch : Fin 46) (rate : BitVec 2)
  | bucketLeak (r : RaceId)
  | scrub (item : Nat)
  | arm (r : RaceId) (on : Bool) (ch : BitVec 6)
  -- The Afdun link and the rings (spec/10_afdun_link.md)
  | fullTraining (lanesGood : Vector Byte 4)
  | laneLoss (h : HalfDir) (lanesGood : Byte)
  | retrainReq
  | linkRetrainStart (lanesGood : Vector Byte 4)
  | linkDown
  | linkTrainingRetry (lanesGood : Vector Byte 4)
  | flitReceive (half : Bool) (f : Flit)
  | cfgRd (tag : BitVec 12) (addr : W64) (be : W32)
  | cfgWr (tag : BitVec 12) (addr : W64) (be : W32) (value : W32)
  | dbRd (tag : BitVec 12) (addr : W64)
  | dbWr (tag : BitVec 12) (addr : W64) (be : W32) (value : W64)
  | rdShared (t : TenantId) (w : Fin 64) (seq : W48)
  | rdNc (item : Nat) (addr : W64) (slots : Fin 17)
  | wrNc (addr : W64) (data : List (BitVec 128))
  | snpInv (tag : BitVec 12) (addr : W64)
  | cpl (tag : BitVec 12) (status : Byte)
  | cplData (tag : BitVec 12) (status : Byte) (data : List (BitVec 128))
  | hostTimeout (tag : BitVec 12)
  | enable (r : RaceId) (ring : RingName) (on : Bool)
  | cancel (r : RaceId) (w : Fin 64)
  | restart (r : RaceId) (w : Fin 64)
  | hlkClassCancel (t : TenantId) (classes : BitVec 4)
  -- Weir (spec/11_weir.md)
  | weirSend (item : Nat) (host : List Byte)
  | weirReg (item : Nat)
  | weirRevoke (item : Nat)
  | data (port : PortId) (p : WeirPkt)
  | packetPlace (t : TenantId)
  | ackDue (t : TenantId) (key : MsgKey)
  | ack (port : PortId) (p : WeirPkt)
  | complete (port : PortId) (p : WeirPkt)
  | close (port : PortId) (p : WeirPkt)
  | status (port : PortId) (p : WeirPkt)
  | abort (port : PortId) (p : WeirPkt)
  | beacon (port : PortId) (p : WeirPkt) (v6 : Bool) (src : BitVec 128)
  | probe (port : PortId) (p : WeirPkt)
  | probeReply (port : PortId) (p : WeirPkt)
  | retransmitTimeout (t : TenantId) (seq : W48)
  | completeWaitTimeout (t : TenantId) (seq : W48)
  | reassemblyTimeout (t : TenantId) (key : MsgKey)
  | duplicateWindowExpire (t : TenantId)
  | windowFree (t : TenantId) (index : BitVec 13)
  | probeTimeout (peer : Fin 256) (port : PortId) (path : Fin 16)
  | pathProbe (peer : Fin 256) (port : PortId) (path : Fin 16)
  | beaconTimer (port : PortId)
  | stale (peer : Fin 256)
  | portLinkChange (port : PortId) (up : Bool)
  | ptpEventMessage (port : PortId) (sync : Bool) (offsetNs : W32)
  | arpRequest (port : PortId) (management v6 : Bool) (target : BitVec 128)
  | netTimeWrite (value : W32)
  -- Journal, replay and resets (spec/12_journal.md)
  | warmReset (cause : WarmCause) (lanesGood : Vector Byte 4)
  | coldReset (su : StartUp)
  | raceReset (r : RaceId)
  | spareMap (r : RaceId) (readable : Bool)
  -- Tenants (spec/13_isolation.md)
  | activate (t : TenantId)
  | inService
  | release (t : TenantId) (force : Bool)
  | releasingEnd (t : TenantId)
  | tenantScrub (t : TenantId)
  | scrubDone (t : TenantId)
  | outOfService (p : HopName)
  -- Keys, life cycle and attestation (spec/14_keys_attestation.md)
  | keyLoad (item : Nat) (host : List Byte)
  | keyUnload (item : Nat)
  | keyGenerate (item : Nat)
  | keyDerive (item : Nat)
  | keyWrap (item : Nat)
  | keyInvalidate (item : Nat)
  | keyCellFree (item : Nat)
  | crypt (item : Nat)
  | pkgOpen (item : Nat)
  | attest (item : Nat) (nonce : BitVec 512)
  | rtpJobDone (t : TenantId)
  | lcQuery
  | lcSeal
  | lcUnlockChallenge
  | lcUnlock
  | lcReseal
  | lcRetire
  | flockCreate
  | flockDelete
  | identityGet
  | fwLoad (host : List Byte)
  | cellRelease
  | rtpWatchdog (thirdInOneSecond : Bool)
  -- Random numbers (spec/15_random_numbers.md)
  | vaneBlockEnd (v : Fin 4) (bits : BitVec 1024)
  | trimStep (v : Fin 4) (ones : Fin 65)
  | vaneSettled (v : Fin 4)
  | drbgReseed (i : Fin 9)
  | drbgFill (t : TenantId)
  | rawReq (on : Bool)
  | rawTestStart
  | rngRawData
  -- Power (spec/16_power.md) and start-up (spec/18_startup.md)
  | powerGoodRise (su : StartUp)
  | ready
  | clkErr
  | lowInputWarning
  | powerFail (cause : PowerFailCause)
  | phaseFault (rail : Fin 15) (phase : BitVec 5)
  | droop (r : RaceId) (cycles : W32)
  | thermalShutdown
  | domainCommand (d : BitVec 7) (st : BitVec 2)
  | deviceStateCommand (st : BitVec 2)
  | frequencyCommand (mhz : BitVec 11)
  | cancelPendingCommand
  | powerCommandEffect
  | done
  | linkWake
  | telemetrySample (p : PowerSample)
  | pmbusRead (code : Byte)
  | pmbusWrite (code : Byte) (data : List Byte)
  | clr
  -- Management (spec/17_management.md)
  | tlsConnect (cert : OperatorCert)
  | sessionIdle (session : Fin 4)
  | ident (q : ReqId)
  | telemetryGet (q : ReqId)
  | telemetrySub (q : ReqId) (intervalMs : W16)
  | telemetry (session : Fin 4)
  | decimation (backlogHigh : Bool)
  | logRead (q : ReqId) (first : W64) (count : BitVec 11)
  | power (q : ReqId) (cmd : W32)
  | test (q : ReqId) (a : TestArgs)
  | testCancel (q : ReqId) (race : BitVec 4)
  | go (code : Byte) (race : BitVec 4) (unit : BitVec 6)
  | mgtTestCancel
  | testStart (r : RaceId)
  | testDone (race : BitVec 4) (found : TestFound)
  | debugEngage (q : ReqId) (r : RaceId)
  | debugEnd (q : ReqId) (r : RaceId)
  | debugHalt (q : ReqId) (m : MillName)
  | debugStep (q : ReqId) (m : MillName)
  | debugResume (q : ReqId) (m : MillName)
  | debugRead (q : ReqId) (r : RaceId) (kind : Byte) (mill : Fin 24) (off : W48) (len : W16)
  | lifeCycle (q : ReqId) (code : Byte) (args : List Byte)
  | anchorSet (q : ReqId) (der : List Byte)
  | install (len : BitVec 11)
  | spdm (q : ReqId) (msg : List Byte)
  | mgcWatchdog
  -- Set-up registers (spec/19_registers.md)
  | latchedRead (addr : BitVec 24)
  | registerWrite (addr : BitVec 24) (value : W32)
  -- Rows the table adds at its end
  | millReferenceAppears (su : StartUp)
  | mbxCommandEnd
  | fillDone (domain : Fin 80) (bad : List (Fin 46 × BitVec 29))
  | sessionClosed (session : Fin 4)
deriving DecidableEq, Repr

end Sys2Proof
end

