-- ==== Sys2Proof/Decode.lean ====
section
/-! DEFINITION. The words of the operation table. Its rows give no bits, so no word spells a command. -/

namespace Sys2Proof

/-- The command that a word spells by the table's bits: none, since no row of the table has any.
[DESIGN CHOICE, safe: log 2] -/
def decodeTableWord (_nbits _w : Nat) : Option Instr := none

end Sys2Proof
end

