-- ==== Sys2Proof/Machine/Bits.lean ====
section
/-! DEFINITION. Bit fields, byte orders and the small list operations that every later file uses. -/

namespace Sys2Proof.Machine

/-- Bits `lo` to `lo + len - 1` of a number. -/
def fld (w lo len : Nat) : Nat := (w >>> lo) % 2 ^ len

/-- `w` with bits `lo` to `lo + len - 1` replaced by the low bits of `v`. -/
def putFld (w lo len v : Nat) : Nat :=
  w - (fld w lo len) * 2 ^ lo + (v % 2 ^ len) * 2 ^ lo

/-- Bit `i` of a number. -/
def bitOf (w i : Nat) : Bool := w.testBit i

/-- A flag as a number. -/
def b2n (b : Bool) : Nat := if b then 1 else 0

/-- The low `n` bytes of a number, the lowest byte first (R7). -/
def bytesLE : Nat → Nat → List Byte
  | 0, _ => []
  | n + 1, v => BitVec.ofNat 8 v :: bytesLE n (v / 256)

/-- The number whose bytes, lowest first, are given (R7). -/
def natLE : List Byte → Nat
  | [] => 0
  | b :: bs => b.toNat + 256 * natLE bs

/-- The low `n` bytes of a number, the highest byte first. -/
def bytesBE (n v : Nat) : List Byte := (bytesLE n v).reverse

/-- The number whose bytes, highest first, are given. -/
def natBE (bs : List Byte) : Nat := natLE bs.reverse

/-- Bytes `off` to `off + len - 1` of a list, absent bytes reading 0. -/
def bytesAt (bs : List Byte) (off len : Nat) : List Byte :=
  let got := (bs.drop off).take len
  got ++ List.replicate (len - got.length) 0

/-- The little-endian field of `len` bytes at `off` (R7). -/
def leAt (bs : List Byte) (off len : Nat) : Nat := natLE (bytesAt bs off len)

/-- `bs` with the bytes at `off` replaced by `new`. -/
def putBytes (bs : List Byte) (off : Nat) (new : List Byte) : List Byte :=
  bytesAt bs 0 off ++ new ++ bs.drop (off + new.length)

/-- A list padded with zeros to `n` bytes, or cut to it. -/
def padTo (n : Nat) (bs : List Byte) : List Byte := bytesAt bs 0 n

/-- The list cut into pieces of `n` elements; `fuel` bounds the number of pieces. -/
def chunksAux {α : Type} (n : Nat) : Nat → List α → List (List α)
  | 0, _ => []
  | _, [] => []
  | fuel + 1, xs => xs.take n :: chunksAux n fuel (xs.drop n)

/-- The list cut into pieces of `n` elements, the last one shorter. -/
def chunks {α : Type} (n : Nat) (xs : List α) : List (List α) := chunksAux n xs.length xs

/-- Bytewise exclusive or, as long as the shorter list. -/
def xorBytes (a b : List Byte) : List Byte := List.zipWith (· ^^^ ·) a b

/-- Quotient rounded up. -/
def ceilDiv (a b : Nat) : Nat := (a + b - 1) / b

/-- The entry of a sparse table at `k`. -/
def sget? {α : Type} (m : List (Nat × α)) (k : Nat) : Option α :=
  match m with
  | [] => none
  | (j, v) :: rest => if j = k then some v else sget? rest k

/-- The entry of a sparse table at `k`, or the default of an unlisted key. -/
def sget {α : Type} (m : List (Nat × α)) (k : Nat) (d : α) : α := (sget? m k).getD d

/-- Sets the entry of a sparse table, kept in rising key order. -/
def sset {α : Type} (m : List (Nat × α)) (k : Nat) (v : α) : List (Nat × α) :=
  match m with
  | [] => [(k, v)]
  | (j, w) :: rest =>
    if k < j then (k, v) :: (j, w) :: rest
    else if k = j then (k, v) :: rest
    else (j, w) :: sset rest k v

/-- Removes the entry of a sparse table. -/
def sdel {α : Type} (m : List (Nat × α)) (k : Nat) : List (Nat × α) :=
  m.filter (fun p => p.1 != k)

/-- Applies `f` to the entry of a sparse table at `k`. -/
def smod {α : Type} (m : List (Nat × α)) (k : Nat) (d : α) (f : α → α) : List (Nat × α) :=
  sset m k (f (sget m k d))

/-- Saturating increment of a counter of `w` bits. -/
def satInc {w : Nat} (x : BitVec w) : BitVec w := if x = BitVec.allOnes w then x else x + 1

/-- The elements of a list with their positions. -/
def indexed {α : Type} (xs : List α) : List (Nat × α) := (List.range xs.length).zip xs

end Sys2Proof.Machine
end

