-- ==== Sys2Proof/Config.lean ====
section
/-! DEFINITION. What an implementation of the hardware fixes and the specification does not: free values, each an
opaque constant with no body that a proof could use. -/

namespace Sys2Proof.Config

/-- Which of the results within 1 ulp the vector unit returns: 0 the nearest, 1 the next above in magnitude, 2 the
next below, where R95 allows it. Arguments: the opcode of Table 3-11 and the operand. [DESIGN CHOICE, safe: log 15] -/
opaque ulpStep : Nat → BitVec 32 → BitVec 2
/-- The result of VEXP2, VLOG2, VRCP or VRSQ where no finite exact value exists (R95 states none).
[DESIGN CHOICE, safe: log 15] -/
opaque ulpCorner : Nat → BitVec 32 → BitVec 32


-- Factory values (Reset column "Factory" or "From MRAM")

/-- The minor stepping in MGT_DEVICE_ID (R1, Table 0-1). [DESIGN CHOICE, unsafe: log 9] -/
opaque minorStepping : BitVec 8
/-- The module serial number (Table 19-6). [DESIGN CHOICE, unsafe: log 9] -/
opaque serial : BitVec 32
/-- The MAC address of port 0 (Table 11-11). [DESIGN CHOICE, unsafe: log 9] -/
opaque mac : BitVec 48
/-- Whether the module was shipped in Indigo; otherwise in Ochre. [DESIGN CHOICE, unsafe: log 9] -/
opaque shippedIndigo : Bool
/-- The life-cycle state, root secret and epoch that the MRAM holds for a module shipped in Indigo.
[DESIGN CHOICE, unsafe: log 9] -/
opaque shippedRoot : BitVec 256
/-- The body of persistent slot `s` at delivery: identity key, its certificates, and the slots that the shipped
state has filled (R359). [DESIGN CHOICE, unsafe: log 9] -/
opaque shippedSlot : Nat → List (BitVec 8)
/-- The modulus of Ohmundur's life-cycle key, whose digest the mask ROM holds (R364). [DESIGN CHOICE, unsafe: log 9] -/
opaque lifeCycleModulus : Nat
/-- The digest of Ohmundur's firmware key in the mask ROM (R375). [DESIGN CHOICE, unsafe: log 9] -/
opaque firmwareKeyDigest : List (BitVec 8)
/-- The digest of the mask-ROM image of a firmware component (R375). [DESIGN CHOICE, unsafe: log 9] -/
opaque romDigest : Nat → BitVec 512
/-- The security version of the mask-ROM image of a firmware component (R375, Table 14-11). [DESIGN CHOICE, unsafe: log 9] -/
opaque romSvn : Nat → BitVec 32

-- Values that the RTP makes and the specification does not give

/-- The integrity code of a record copy at an MRAM offset, under the key of the die's key ladder (R357).
[DESIGN CHOICE, safe: log 11] -/
opaque mramMac : Nat → List (BitVec 8) → BitVec 512

/-- The key body that RSA-4096 generation yields at its n-th use (R361, Table 14-15). [DESIGN CHOICE, safe: log 11] -/
opaque rsaKeyBody : Nat → List (BitVec 8)
/-- The certificate that the RTP issues for a body at its n-th use (R359). [DESIGN CHOICE, safe: log 11] -/
opaque certificate : Nat → List (BitVec 8) → List (BitVec 8)
/-- The RSASSA-PSS signature that the RTP makes under a key body at its n-th use (R376). [DESIGN CHOICE, safe: log 11] -/
opaque signature : Nat → List (BitVec 8) → List (BitVec 8) → BitVec 4096
/-- The content key that RSAES-OAEP decryption yields under a key body, none where it fails (R372).
[DESIGN CHOICE, safe: log 11] -/
opaque oaepOpen : List (BitVec 8) → List (BitVec 8) → Option (BitVec 256)
/-- Whether an anchor certificate is well formed (R417 names the check, not its form). [DESIGN CHOICE, safe: log 11] -/
opaque anchorWellFormed : List (BitVec 8) → Bool
/-- The response to an SPDM 1.2 request (R424 names the standard only). [DESIGN CHOICE, safe: log 11] -/
opaque spdmResponse : Nat → List (BitVec 8) → List (BitVec 8)

/-- What a weight bank, and a seed slot, hold after their mill group has left On (Table 16-3 keeps neither): element
format and rows; key and stream start. [DESIGN CHOICE, safe: log 120] -/
opaque lostBank : Nat → BitVec 4 × List (List (BitVec 32 × BitVec 8))
/-- See `lostBank`. [DESIGN CHOICE, safe: log 120] -/
opaque lostSeed : Nat → BitVec 320

/-- Ticks by which an event has delayed accepted work when its record is journaled, by the tenant's event count
(Table 12-9 gives the field and no way to measure it). [DESIGN CHOICE, safe: log 37] -/
opaque eventDelay : Nat → BitVec 16

/-- The class of the fault event that a response with an unknown tag raises (Table 10-6 names none).
[DESIGN CHOICE, unsafe: log 74] -/
opaque unknownTagClass : BitVec 8

/-- Whether the remaining phases of a rail carry its most load, for the rails whose phase rating Table 16-2 does not give.
[DESIGN CHOICE, safe: log 122] -/
opaque railCarries : Nat → Nat → Bool

-- Byte layouts that the specification does not give; each takes the contents that the rule lists

/-- AGG_QUERY's bytes in host memory (R154). [DESIGN CHOICE, safe: log 12] -/
opaque queryLayout : List Nat → List (BitVec 8)
/-- A telemetry sample's bytes (Table 17-4). [DESIGN CHOICE, safe: log 12] -/
opaque telemetryLayout : List Nat → List (BitVec 8)
/-- A message body's bytes where Table 17-2 lists fields without offsets. [DESIGN CHOICE, safe: log 12] -/
opaque bodyLayout : Nat → List Nat → List (BitVec 8)
/-- A PMBus LINEAR11 word for a reading (the standard allows several encodings of one value). [PRESUMED, unsafe: log 123] -/
opaque linear11 : Nat → BitVec 16 → BitVec 16
/-- Bits of STATUS_WORD, beyond those this model gives, as the PMBus standard has them. [PRESUMED, unsafe: log 123] -/
opaque statusWord : BitVec 8 → Bool → BitVec 16

end Sys2Proof.Config
end

