-- ==== Sys2Proof/Machine/Fp.lean ====
section
/-! DEFINITION. The arithmetic of chapter 4 and the number formats of Table 3-8: exact values, one rounding to
nearest with ties to even, the special cases of Table 4-1, and the conversions of R89. -/

namespace Sys2Proof.Machine

/-- A value of a number format: not a number, an infinity, or ± `mant` × 2^`exp`. -/
inductive Fp where
  | nan
  | inf (neg : Bool)
  | fin (neg : Bool) (mant : Nat) (exp : Int)
deriving DecidableEq, Repr

/-- The sticky flags of Table 3-5. -/
structure Flags where
  ovf : Bool := false
  inv : Bool := false
  sat : Bool := false
deriving DecidableEq, Repr

/-- The flags of two operations together (R79). -/
def Flags.or (a b : Flags) : Flags := ⟨a.ovf || b.ovf, a.inv || b.inv, a.sat || b.sat⟩

/-- Quotient by 2^`sh`, to nearest, ties to even. -/
def rneShift (m sh : Nat) : Nat :=
  let q := m >>> sh
  let r := m % 2 ^ sh
  if sh = 0 then m
  else if 2 ^ sh < 2 * r || (2 ^ sh = 2 * r && q % 2 = 1) then q + 1 else q

/-- `mant` × 2^`exp` rounded to `prec` bits with no unit below 2^`emin`: the rounded multiple and its unit's
exponent (R106, subnormals kept). -/
def roundTo (prec : Nat) (emin : Int) (mant : Nat) (exp : Int) : Nat × Int :=
  let top : Int := (Nat.log2 mant : Int) + exp
  let unit : Int := max emin (top - prec + 1)
  if exp ≥ unit then (mant * 2 ^ (exp - unit).toNat, unit)
  else (rneShift mant (unit - exp).toNat, unit)

/-- A binary format: exponent bits, mantissa bits, bias, and which special codes it has. -/
structure FpSpec where
  ebits : Nat
  mbits : Nat
  bias  : Nat
  hasInf : Bool
  /-- NaN in every code of the top exponent but infinity -/
  ieeeNan : Bool
  /-- NaN only in the code of all ones (E4M3) -/
  oneNan : Bool
deriving DecidableEq, Repr

def specE4M3 : FpSpec := ⟨4, 3, 7, false, false, true⟩
def specE5M2 : FpSpec := ⟨5, 2, 15, true, true, false⟩
def specBf16 : FpSpec := ⟨8, 7, 127, true, true, false⟩
def specFp16 : FpSpec := ⟨5, 10, 15, true, true, false⟩
def specFp32 : FpSpec := ⟨8, 23, 127, true, true, false⟩
def specE3M2 : FpSpec := ⟨3, 2, 3, false, false, false⟩
def specE2M3 : FpSpec := ⟨2, 3, 1, false, false, false⟩
def specE2M1 : FpSpec := ⟨2, 1, 1, false, false, false⟩

/-- Width of a code. -/
def FpSpec.bits (f : FpSpec) : Nat := 1 + f.ebits + f.mbits

/-- The value of a code (Table 3-8). -/
def FpSpec.decode (f : FpSpec) (code : Nat) : Fp :=
  let neg := bitOf code (f.ebits + f.mbits)
  let e := fld code f.mbits f.ebits
  let m := fld code 0 f.mbits
  if f.ieeeNan && e = 2 ^ f.ebits - 1 then
    if m = 0 then .inf neg else .nan
  else if f.oneNan && e = 2 ^ f.ebits - 1 && m = 2 ^ f.mbits - 1 then .nan
  else if e = 0 then .fin neg m (1 - (f.bias : Int) - f.mbits)
  else .fin neg (2 ^ f.mbits + m) ((e : Int) - f.bias - f.mbits)

/-- The exponent of the largest finite value's leading bit. -/
def FpSpec.emaxTop (f : FpSpec) : Int :=
  (if f.ieeeNan then (2 ^ f.ebits - 2 : Nat) else (2 ^ f.ebits - 1 : Nat)) - (f.bias : Int)

/-- The mantissa of the largest finite value, the hidden bit included. -/
def FpSpec.maxMant (f : FpSpec) : Nat := if f.oneNan then 2 ^ (f.mbits + 1) - 2 else 2 ^ (f.mbits + 1) - 1

/-- The code of the largest finite magnitude. -/
def FpSpec.maxCode (f : FpSpec) : Nat :=
  (f.emaxTop + f.bias).toNat * 2 ^ f.mbits + (f.maxMant - 2 ^ f.mbits)

/-- The code of infinity, in a format that has one. -/
def FpSpec.infCode (f : FpSpec) : Nat := (2 ^ f.ebits - 1) * 2 ^ f.mbits

/-- The canonical NaN of a format that has one (Table 4-2). -/
def FpSpec.nanCode (f : FpSpec) : Nat :=
  if f.oneNan then 2 ^ (f.ebits + f.mbits) - 1 else f.infCode + 2 ^ (f.mbits - 1)

/-- The sign bit of a code. -/
def FpSpec.signBit (f : FpSpec) (neg : Bool) : Nat := if neg then 2 ^ (f.ebits + f.mbits) else 0

/-- A finite magnitude rounded into the format: its code, or none when it overflows (R89, R109). -/
def FpSpec.encodeFin (f : FpSpec) (mant : Nat) (exp : Int) : Option Nat :=
  if mant = 0 then some 0 else
  let (m, u) := roundTo (f.mbits + 1) (1 - (f.bias : Int) - f.mbits) mant exp
  if m = 0 then some 0 else
  -- a carry out of the mantissa moves the unit up by one
  let (m, u) := if m = 2 ^ (f.mbits + 1) then (2 ^ f.mbits, u + 1) else (m, u)
  let top : Int := (Nat.log2 m : Int) + u
  if top > f.emaxTop || (top = f.emaxTop && m > f.maxMant) then none
  else if m < 2 ^ f.mbits then some m
  else some ((u + f.mbits + f.bias).toNat * 2 ^ f.mbits + (m - 2 ^ f.mbits))

/-- The fp32 encoding of a value, rounded once, with Table 4-1's overflow. -/
def toF32 (v : Fp) : W32 × Flags :=
  match v with
  | .nan => (0x7FC00000#32, {})
  | .inf n => (BitVec.ofNat 32 (specFp32.signBit n + specFp32.infCode), {})
  | .fin n m e =>
    match specFp32.encodeFin m e with
    | some c => (BitVec.ofNat 32 (specFp32.signBit n + c), {})
    | none => (BitVec.ofNat 32 (specFp32.signBit n + specFp32.infCode), { ovf := true })

/-- The value of an fp32 word. -/
def ofF32 (w : W32) : Fp := specFp32.decode w.toNat

/-- A signed value as sign and magnitude. -/
def fpOfInt (x : Int) (e : Int) : Fp := .fin (decide (x < 0)) x.natAbs e

/-- A signed mantissa. -/
def sgn (neg : Bool) (m : Nat) : Int := if neg then -(m : Int) else m

/-- The exact sum of two values; the flag is Table 4-1's INV. -/
def fpAdd (a b : Fp) : Fp × Flags :=
  match a, b with
  | .nan, _ => (.nan, {})
  | _, .nan => (.nan, {})
  | .inf x, .inf y => if x = y then (.inf x, {}) else (.nan, { inv := true })
  | .inf x, _ => (.inf x, {})
  | _, .inf y => (.inf y, {})
  | .fin n m e, .fin n' m' e' =>
    let lo := min e e'
    let x := sgn n m * 2 ^ (e - lo).toNat + sgn n' m' * 2 ^ (e' - lo).toNat
    -- an exact zero is +0 unless both operands are negative zeros (R108)
    if x = 0 then (.fin (n && n' && m = 0 && m' = 0) 0 lo, {}) else (fpOfInt x lo, {})

/-- The exact product of two values (Table 4-1). -/
def fpMul (a b : Fp) : Fp × Flags :=
  match a, b with
  | .nan, _ => (.nan, {})
  | _, .nan => (.nan, {})
  | .inf x, .inf y => (.inf (x != y), {})
  | .inf x, .fin n m _ => if m = 0 then (.nan, { inv := true }) else (.inf (x != n), {})
  | .fin n m _, .inf y => if m = 0 then (.nan, { inv := true }) else (.inf (n != y), {})
  | .fin n m e, .fin n' m' e' => (.fin (n != n') (m * m') (e + e'), {})

/-- The opposite value. -/
def fpNeg (a : Fp) : Fp :=
  match a with
  | .nan => .nan
  | .inf n => .inf (!n)
  | .fin n m e => .fin (!n) m e

/-- An fp32 sum, rounded once (R106). -/
def f32Add (a b : W32) : W32 × Flags :=
  let (v, f) := fpAdd (ofF32 a) (ofF32 b)
  let (w, g) := toF32 v
  (w, f.or g)

/-- An fp32 difference, rounded once. -/
def f32Sub (a b : W32) : W32 × Flags :=
  let (v, f) := fpAdd (ofF32 a) (fpNeg (ofF32 b))
  let (w, g) := toF32 v
  (w, f.or g)

/-- An fp32 product, rounded once. -/
def f32Mul (a b : W32) : W32 × Flags :=
  let (v, f) := fpMul (ofF32 a) (ofF32 b)
  let (w, g) := toF32 v
  (w, f.or g)

/-- A fused multiply-add, rounded once. -/
def f32Fma (a b c : W32) : W32 × Flags :=
  let (p, f) := fpMul (ofF32 a) (ofF32 b)
  let (v, g) := fpAdd p (ofF32 c)
  let (w, h) := toF32 v
  (w, (f.or g).or h)

/-- A correctly rounded fp32 quotient of finite values with a non-zero divisor (R119, R123). -/
def f32DivFin (n : Bool) (m : Nat) (e : Int) (n' : Bool) (m' : Nat) (e' : Int) : W32 × Flags :=
  -- 64 more bits than the divisor has, and one sticky bit, round as the exact quotient does
  let k := 64 + Nat.log2 m'
  let q := m * 2 ^ k / m'
  let sticky := if m * 2 ^ k % m' = 0 then 0 else 1
  toF32 (.fin (n != n') (2 * q + sticky) (e - e' - k - 1))

/-- An fp32 quotient as the Welford update uses it; the divisor of R119 and R123 is a finite count. -/
def f32Div (a b : W32) : W32 × Flags :=
  match ofF32 a, ofF32 b with
  | .nan, _ => toF32 .nan
  | _, .nan => toF32 .nan
  | .inf _, .inf _ => (0x7FC00000#32, { inv := true })
  | .inf x, .fin n _ _ => toF32 (.inf (x != n))
  | .fin n _ _, .inf y => toF32 (.fin (n != y) 0 0)
  | .fin n m e, .fin n' m' e' =>
    if m' = 0 then (if m = 0 then (0x7FC00000#32, { inv := true })
      else let (w, _) := toF32 (.inf (n != n')); (w, { ovf := true }))
    else f32DivFin n m e n' m' e'

/-- An fp32 word of an unsigned count (R119). -/
def f32OfNat (n : Nat) : W32 := (toF32 (.fin false n 0)).1

/-- Comparison of two values that are not NaN; +0 is above −0 (R120). -/
def fpLt (a b : Fp) : Bool :=
  match a, b with
  | .nan, _ => false
  | _, .nan => false
  | .inf true, .inf true => false
  | .inf true, _ => true
  | _, .inf true => false
  | .inf false, _ => false
  | _, .inf false => true
  | .fin n m e, .fin n' m' e' =>
    let lo := min e e'
    let x := sgn n m * 2 ^ (e - lo).toNat
    let y := sgn n' m' * 2 ^ (e' - lo).toNat
    if x = y then decide (m = 0) && n && !n' else decide (x < y)

/-- The larger of two fp32 values; NaN wins (R120, Table 3-11). -/
def f32Max (a b : W32) : W32 :=
  match ofF32 a, ofF32 b with
  | .nan, _ => 0x7FC00000#32
  | _, .nan => 0x7FC00000#32
  | x, y => if fpLt x y then b else a

/-- The smaller of two fp32 values; NaN wins (Table 3-11). -/
def f32Min (a b : W32) : W32 :=
  match ofF32 a, ofF32 b with
  | .nan, _ => 0x7FC00000#32
  | _, .nan => 0x7FC00000#32
  | x, y => if fpLt y x then b else a

/-- The nearer bound of int32, with the saturation flag (R112). -/
def satInt32 (x : Int) : Int × Bool :=
  if x > 2147483647 then (2147483647, true)
  else if x < -2147483648 then (-2147483648, true) else (x, false)

/-- The nearer bound of int8, with the saturation flag. -/
def satInt8 (x : Int) : Int × Bool :=
  if x > 127 then (127, true) else if x < -128 then (-128, true) else (x, false)

/-- A finite value rounded to an integer, ties to even. -/
def fpToInt (neg : Bool) (m : Nat) (e : Int) : Int :=
  sgn neg (if e ≥ 0 then m * 2 ^ e.toNat else rneShift m (-e).toNat)

/-- Integer square root by bits; `fuel` counts the bits of the result. -/
def isqrtAux (n : Nat) : Nat → Nat → Nat
  | 0, r => r
  | k + 1, r => let r' := r + 2 ^ k; isqrtAux n k (if r' * r' ≤ n then r' else r)

/-- Integer square root. -/
def isqrt (n : Nat) : Nat := isqrtAux n (Nat.log2 n / 2 + 1) 0

/-- 2^f as a multiple of 2^−128, for the fraction whose top bits are listed, by products of square roots. -/
def exp2Frac (f : Nat) : Nat → Nat → Nat → Nat
  | 0, _, r => r
  | k + 1, c, r =>
    let c' := isqrt (c * 2 ^ 128)
    exp2Frac f k c' (if f.testBit k then r * c' / 2 ^ 128 else r)

/-- log2 of a mantissa in [1, 2), a multiple of 2^−256, as `k` fraction bits. -/
def log2Frac : Nat → Nat → Nat → Nat
  | 0, _, r => r
  | k + 1, y, r =>
    let y2 := y * y / 2 ^ 256
    if y2 ≥ 2 ^ 257 then log2Frac k (y2 / 2) (2 * r + 1) else log2Frac k y2 (2 * r)

/-- The functions of R95 that return a result within 1 ulp. -/
inductive UlpOp where
  | exp2 | log2 | rcp | rsq
deriving DecidableEq, Repr

/-- The number that the row of a function has in the opcode column of Table 3-11. -/
def UlpOp.code : UlpOp → Nat
  | .exp2 => 8
  | .log2 => 9
  | .rcp => 10
  | .rsq => 11

/-- The value of a function at an operand, computed well below one ulp; none where no exact value exists or it is
not finite (a pole, a negative operand of a root or a logarithm, an infinity). -/
def ulpExact (op : UlpOp) (a : Fp) : Option Fp :=
  match a with
  | .nan => some .nan
  | .inf _ => none
  | .fin n m e =>
    match op with
    | .exp2 =>
      -- the operand as a multiple of 2^-160
      let x : Int := sgn n m * 2 ^ (e + 160).toNat
      let k : Int := x / 2 ^ 160
      let f : Nat := (x % 2 ^ 160).toNat / 2 ^ 40
      if k ≥ 128 then some (.fin false 1 200)
      else if k < -160 then some (.fin false 1 (-400))
      else some (.fin false (exp2Frac f 120 (2 ^ 129) (2 ^ 128)) (k - 128))
    | .log2 =>
      if m = 0 || n then none else
      let l := Nat.log2 m
      let y := m * 2 ^ (256 - l)
      let r : Int := ((l : Int) + e) * 2 ^ 120 + log2Frac 120 y 0
      some (fpOfInt r (-120))
    | .rcp => if m = 0 then none else some (.fin n (2 ^ (96 + Nat.log2 m) / m) (-e - 96 - Nat.log2 m))
    | .rsq =>
      if m = 0 || n then none else
      -- an even exponent, then the root of the reciprocal
      let (m, e) := if e % 2 = 0 then (m, e) else (2 * m, e - 1)
      let k := 96 + Nat.log2 m
      some (.fin false (isqrt (2 ^ (2 * k) / m)) (-(e / 2) - k))

/-- The fp32 code `d` steps away from a positive magnitude code. -/
def stepCode (c : Nat) (d : Int) : Nat := ((c : Int) + d).toNat

/-- |a − b| ≤ one unit in the last place of a finite fp32 magnitude code. [DESIGN CHOICE, safe: log 15] -/
def withinUlp (code : Nat) (m : Nat) (e : Int) : Bool :=
  match specFp32.decode code with
  | .fin _ cm ce =>
    let lo := min ce e
    let x : Int := cm * 2 ^ (ce - lo).toNat
    let y : Int := m * 2 ^ (e - lo).toNat
    decide ((x - y).natAbs ≤ 2 ^ (ce - lo).toNat)
  | _ => false

/-- VEXP2, VLOG2, VRCP and VRSQ on one element: a result within 1 ulp of the exact value, the choice among them
free but the same for the same input (R95). Where there is no finite exact value the result itself is free. The
choice is Config.ulpStep, the corner value Config.ulpCorner. [DESIGN CHOICE, safe: log 15] -/
def ulpApply (op : UlpOp) (a : W32) : W32 × Flags :=
  match ulpExact op (ofF32 a) with
  | some (.fin n m e) =>
    let (w, f) := toF32 (.fin n m e)
    if f.ovf then (w, f) else
    let c := w.toNat % 2 ^ 31
    let d := Config.ulpStep op.code a
    let c' := stepCode c (if d = 1 then 1 else if d = 2 then -1 else 0)
    if c' < specFp32.infCode && withinUlp c' m e then (BitVec.ofNat 32 (specFp32.signBit n + c'), {}) else (w, {})
  | some v => toF32 v
  | none =>
    let w := Config.ulpCorner op.code a
    match ofF32 w, ofF32 a with
    | .nan, _ => (0x7FC00000#32, { inv := true })
    | .inf n, .fin _ _ _ => ((toF32 (.inf n)).1, { ovf := true })
    | _, _ => (w, {})

end Sys2Proof.Machine
end

