-- ==== Sys2Proof/Machine/State.lean ====
section
/-! DEFINITION. The state of the block: every register, store, queue, table and pin that the specification names, as
plain data; the reasons to stop; and the state right after the module's supplies appear (`State.reset`). -/

namespace Sys2Proof.Machine

/-- Why the machine would stop with a fault. No meaning raises one: every command of the table has an effect. -/
inductive Fault where
  /-- Raised by no meaning; safe. -/
  | unused
deriving DecidableEq, Repr

/-- Why a command is turned away without a meaning. -/
inductive Refusal where
  /-- Raised by the dispatch for a row that has no meaning yet; safe. -/
  | notModelled (mnemonic : String)
deriving DecidableEq, Repr

-- ## Work: windows, images, items and descriptors

/-- A window record (Table 10-12). -/
structure Win where
  base   : W64 := 0
  length : BitVec 40 := 0
  kind   : Byte := 0
  access : Byte := 0
deriving DecidableEq, Repr

/-- A completion, pass, receive or event record (Table 10-9), `PHASE` 0, and the descriptor it belongs to. -/
structure Rec where
  data : BitVec 256
  desc : Option (Fin 64 × W48) := none
deriving DecidableEq, Repr

/-- A fault or notice event before it is journaled (Table 12-9). -/
structure Event where
  cls    : Byte
  flags  : Byte := 0
  part   : Byte := 0
  race   : Byte := 0xFF
  index  : W16 := 0
  detail : W64 := 0
deriving DecidableEq, Repr

/-- A journal entry (Table 12-3). -/
inductive JEntry where
  | consume (ring : Fin 64) (cls : ClassId) (seq : W48) (items : W32) (status : Byte)
  | item (ring : Fin 64) (cls : ClassId) (seq : W48) (index : W32) (flags : Byte)
  | complete (cring : Byte) (rec : Rec)
  | context (id : BitVec 18) (image : List Byte)
  | segment (round : Fin 64) (bank : Bool) (seg : W16) (cursor : W64) (words : List W32)
  | participant (round : Fin 64) (p : W32) (entry : W64)
  | round (slot : Fin 64) (state : Byte) (seeds contrib dropped retracted : W32) (chainIn : Bool)
  | weirSend (seq : W48) (epoch : W16)
  | window (index : W16) (state flags : Byte) (tag : W32) (base length : W64) (peer : W16) (ring : Byte)
  | model (fields : List Byte)
  | pages (id : BitVec 18) (first : W32) (entries : List W32)
  | millMap (race : RaceId) (mill : Fin 24) (phys : Fin 25)
  | event (rec : Rec)
deriving DecidableEq, Repr

/-- The committed entries of one tick in a tenant's log (R315 to R319). -/
structure LogTick where
  tick     : W64
  firstSeq : W64
  blocks   : Nat
  entries  : List JEntry
  /-- COMPLETE and EVENT entries whose record has not reached host memory -/
  unwritten : Nat
  applied  : Bool
deriving DecidableEq, Repr

/-- The journal of a tenant (Tables 12-4, 12-13). -/
structure Jnl where
  log        : List LogTick := []
  nextSeq    : W64 := 0
  commitTick : W64 := 0
  applied    : W64 := 0
  /-- the marker of the current tick is written and not yet acknowledged -/
  marker     : Bool := false
  /-- NEXT_FETCH of the last marker -/
  nextFetch  : Vector W48 64 := Vector.replicate 64 0
  /-- JOURNALED of the last marker -/
  journaled  : Vector W48 16 := Vector.replicate 16 0
  events     : List Event := []
  evCount    : W48 := 0
  eventRing  : BitVec 4 := 0
  eventEn    : Bool := false
  /-- EVENT_RING and EVENT_EN as they took effect at the last tick boundary (R335) -/
  eventNow   : BitVec 4 × Bool := (0, false)
  eventCnt   : BitVec 11 := 0
  abandoned  : W16 := 0
deriving DecidableEq, Repr

/-- A key in a volatile slot (R367, Table 14-9). -/
structure Key where
  key       : BitVec 256
  attr      : Byte
  testRoot  : Bool
  depth     : Byte
  epoch     : W32
  cell      : W16
  keyId     : W64
  ancestors : List (W16 × W32)
deriving DecidableEq, Repr

/-- A participant's entry (Table 5-5); the states of Table 5-4 are 0 to 4. -/
structure Part where
  state   : BitVec 4 := 0
  pairs   : BitVec 12 := 0
  lastN   : BitVec 24 := 0
  context : BitVec 18 := 0
deriving DecidableEq, Repr

/-- A slot header (R137): the participant that holds the landing slot and its two bitmaps. -/
structure SlotHdr where
  part     : BitVec 24
  claim    : Nat := 0
  landed   : Nat := 0
  absorbed : Nat := 0
deriving DecidableEq, Repr

/-- A seed-log entry (Table 5-7). -/
structure SeedRec where
  part  : BitVec 24
  pair  : Bool
  neigh : BitVec 24
  seed  : BitVec 256
deriving DecidableEq, Repr

/-- A segment's entry of the segment table and its queue (R139, R141). -/
structure Seg where
  bank    : Bool := false
  tick    : W64 := 0
  cursor  : Nat := 0
  queue   : List Nat := []
  /-- landing slots whose absorbed chunk is still to be retracted (R140) -/
  retract : List Nat := []
  chained : Bool := false
  cuts    : Nat := 0
deriving DecidableEq, Repr

/-- The states of Table 5-15. -/
inductive RoundState where
  | collecting | closing | unmasking | chainWait | releasing | released | ending | faulted
deriving DecidableEq, Repr

/-- An AGG_RELEASE in force (Table 5-10). -/
structure Release where
  ring    : Fin 64
  seq     : W48
  dest    : Byte
  hop     : W16
  addr    : W64
  chainId : W32
  prev    : W16
  timeout : W32
  start   : W64
  /-- messages of a chain send still to complete, the header last (R306) -/
  sends   : Nat := 0
deriving DecidableEq, Repr

/-- A round (R128, Table 5-9). -/
structure Round where
  tenant    : TenantId
  cls       : ClassId
  state     : RoundState
  id        : W32
  vecLen    : W32
  partLimit : W32
  floor     : W32
  nonce     : W64
  maxPairs  : BitVec 11
  ring64    : Bool
  selfMask  : Bool
  noDrop    : Bool
  chainIn   : Bool
  maxUp     : BitVec 19
  timeout   : W32
  seedLog   : W32
  taBase    : W32
  tbBase    : W32
  window    : BitVec 13
  tag       : W32
  parts     : List (Nat × Part) := []
  slots     : List (Nat × SlotHdr) := []
  log       : List SeedRec := []
  segs      : List (Nat × Seg) := []
  retracted : Nat := 0
  closing   : Option (Fin 64 × W48) := none
  release   : Option Release := none
  chainHdr  : Option (List Byte) := none
  chainSegs : List Nat := []
  chainAdded : Bool := false
  /-- the items of AGG_OPEN have not all committed: no packet or other descriptor is taken yet (R129) -/
  opening : Bool := false
  /-- AGG_CLOSE has been accepted: an unlisted participant is Dropped, before it Unseen -/
  closed    : Bool := false
  /-- an AGG_ABORT that waits for the transfer in progress (R133) -/
  aborts    : List (Fin 64 × W48) := []
  /-- destination word, chain ID and hop of the first chain send attempted (R148) -/
  attempted : Option (W64 × W32 × W16) := none
deriving DecidableEq, Repr

/-- A model slot (Table 6-7), with the owners of the hot frames of each race (R177). -/
structure Model where
  fields : List Byte
  cls    : ClassId := 0
  /-- per race: frame, context and page -/
  hot    : Vector (List (Nat × Nat × Nat)) 8 := Vector.replicate 8 []
deriving DecidableEq, Repr

/-- The states of Table 6-2 that a session can be in. -/
inductive SessState where
  | idle | running | stopping
deriving DecidableEq, Repr

/-- A pass in progress (Table 6-4). -/
structure Pass where
  prefill   : Bool
  nodes     : Nat := 0
  treeFixed : Bool := false
  /-- 0 promotion, 1 draft, 2 slices, 3 accept -/
  stage     : Nat := 0
  slice     : Nat := 0
  chain     : List W32 := []
  /-- prompt tokens that this pass fetches -/
  fetched   : Nat := 0
  /-- the last prompt token, fetched when the pass exhausts the prompt (R173) -/
  lastTok   : Option W32 := none
deriving DecidableEq, Repr

/-- A decode session (Table 6-1) with its run. -/
structure Session where
  tenant    : TenantId
  state     : SessState
  seedDrbg  : Bool
  rootValid : Bool := false
  model     : Fin 16
  position  : W32 := 0
  root      : W32 := 0
  remain    : W32 := 0
  seed      : W64
  blockOff  : W32
  stopToken : W32
  outAddr   : W64
  outTokens : W32
  promptLeft : W32 := 0
  promptAddr : W64 := 0
  compRing  : BitVec 4
  passes    : W32 := 0
  run       : Option (Fin 64 × W48) := none
  cls       : ClassId := 0
  order     : Nat := 0
  emitted   : W32 := 0
  runPasses : W32 := 0
  pass      : Option Pass := none
  /-- status with which the run ends when the pass in progress has ended (Table 6-8) -/
  ending    : Option Byte := none
deriving DecidableEq, Repr

/-- The context of an uploading participant (Table 5-6). -/
structure PartCtx where
  round     : Fin 64
  part      : BitVec 24
  slot      : BitVec 18
  total     : W32
  landed    : W32 := 0
  absorbed  : W32 := 0
  placed    : W64 := 0
  lastTick  : W64 := 0
  abandoning : Bool := false
deriving DecidableEq, Repr

/-- A context record; an unlisted context is free. -/
inductive Ctx where
  | session (s : Session)
  | part (p : PartCtx)
deriving DecidableEq, Repr

/-- A deferred effect of an item: it comes about at the commit that carries the item (R42, R317, R322). -/
inductive Effect where
  | image (mills : List MillName) (file : List Byte)
  | wset (n : Byte) (w : List Win)
  | aggOpen (r : Round)
  | aggReady (id : W32)
  | aggSeeds (id : W32) (recs : List (List Byte))
  | aggDrop (id : W32) (parts : List W32)
  | aggClose (id : W32)
  | aggRelease (id : W32) (r : Release)
  | aggEnd (id : W32)
  | segment (slot : Fin 64) (seg : Nat) (chunks retracts : List Nat) (cursor : Nat) (chained : Bool)
      (sum : List Byte)
  | released (slot : Fin 64)
  | model (slot : Fin 16) (m : Option Model)
  | decOpen (id : BitVec 18) (s : Session) (params : List Byte)
  | decPages (id : BitVec 18) (first : W32) (entries : List W32)
  | decRun (id : BitVec 18) (count : W32) (addr : W64) (maxNew firstToken : W32)
  | decStop (id : BitVec 18)
  | decClose (id : BitVec 18)
  | promoted (id : BitVec 18) (race : RaceId) (frame page : Nat)
  | drafted (id : BitVec 18) (nodes : Nat) (fixed : Bool) (chain : List W32) (last : Option W32)
  | sliced (id : BitVec 18)
  | accepted (id : BitVec 18) (emit : List W32) (rows : List (RaceId × Nat × List Byte))
  | weirSend (seq : W48)
  | window (tag : W32) (base length : W64) (peer : W16) (any notify : Bool) (ring : BitVec 4) (cls : ClassId)
  | revoke (tag : W32)
  | key (slot : Nat) (k : Option Key)
  | cellBump (cell : Fin 1024)
  | cellFree (cell : Fin 1024)
  | cellClaim (cell : Fin 1024)
  | engine (race : RaceId) (key : BitVec 256) (ct : List Byte)
  | pkgJob
  | attestJob (nonce : BitVec 512)
  | pkgDone (entry : List Byte)
  | authFail
  /-- counts of a SCRUB item: the nine of Table 9-6 from WORDS to REMAP_NEW, first unrepaired address + 1, parity flag -/
  | scrub (counts : List Nat)
deriving DecidableEq, Repr

/-- What an item is (R49, R139, Table 6-4). -/
inductive ItemKind where
  | desc
  | segment (round : Fin 64) (seg : Nat)
  | promotion (ctx : BitVec 18)
  | draft (ctx : BitVec 18)
  | slice (ctx : BitVec 18)
  | accept (ctx : BitVec 18)
deriving DecidableEq, Repr

/-- Where an item stands. -/
inductive ItemState where
  | placed | running | ended | cut | stopped
deriving DecidableEq, Repr

/-- One item (R49). -/
structure Item where
  id      : Nat
  tenant  : TenantId
  cls     : ClassId
  kind    : ItemKind := .desc
  ring    : Fin 64 := 0
  seq     : W48 := 0
  line    : Line := 0
  index   : Nat := 0
  /-- ordinal of the item's first mill in its descriptor's mill set -/
  ordBase : Nat := 0
  first   : Nat := 0
  gran    : Nat := 0
  last    : Bool := true
  mills   : List MillName := []
  wins    : List Win := []
  args    : List W32 := []
  price   : List (Nat × Nat) := []
  state   : ItemState := .placed
  status  : Byte := 0
  flags   : Flags := {}
  cuts    : Nat := 0
  replayed : Bool := false
  effects : List Effect := []
  body    : BitVec 128 := 0
deriving DecidableEq, Repr

/-- A descriptor from its fetch until its record is written (R272 to R276). -/
structure Desc where
  ring     : Fin 64
  seq      : W48
  line     : Line
  cls      : ClassId
  /-- granule counts of the items not yet placed, and the first granule of the next one -/
  todo     : List Nat := []
  /-- mill ordinals of the parts of split mode, one for each item not yet placed (R122) -/
  ords     : List (Option Nat) := []
  /-- price of a granule, fixed part of an item, and what item 0 adds -/
  shape    : List (Nat × Nat) × List (Nat × Nat) × List (Nat × Nat) := ([], [], [])
  mills    : List MillName := []
  /-- granules of every item as split, for a zero-fill of the destination after a failed check (R371, R373) -/
  split    : List Nat := []
  zeroing  : Bool := false
  /-- PKG_OPEN after its job: body bytes, body offset, digest bytes of the header -/
  aux      : List Nat := []
  nextGran : Nat := 0
  nextItem : Nat := 0
  items    : Nat := 1
  started  : Bool := false
  accepted : Bool := false
  /-- refused at the plan with this status (R52), nothing to run -/
  refused  : Bool := false
  withdrawn : Bool := false
  /-- every item has ended and nothing else is waited for -/
  done     : Bool := false
  /-- the completion waits for an event of the operation's chapter -/
  waits    : Bool := false
  status   : Byte := 0
  flags    : Flags := {}
  fault    : Bool := false
  body     : BitVec 128 := 0
  /-- the record is staged or on the link -/
  staged   : Bool := false
  /-- the tick in which it was first read -/
  readIn   : W64 := 0
deriving DecidableEq, Repr

-- ## The mill (Table 3-4)

/-- A weight bank: the format of W and its 64 rows of element code and scale byte (R91). -/
structure Bank where
  fmt  : BitVec 4 := 0
  rows : List (List (W32 × Byte)) := []
deriving DecidableEq, Repr

/-- A move in progress on a tag; a store holds what will reach its window (R82). -/
structure Move where
  store : Option (Fin 8 × Nat × List Byte) := none
deriving DecidableEq, Repr

/-- A loop in force: its counter, its first and last bundle. -/
structure LoopFrame where
  lc    : Fin 4
  first : Nat
  last  : Nat
deriving DecidableEq, Repr

/-- A barrier that the mill waits at (R98). -/
structure BarWait where
  id      : BitVec 5
  scope   : Bool
  timeout : BitVec 10
deriving DecidableEq, Repr

/-- A seed slot (Table 3-4). -/
structure SeedSlot where
  key : BitVec 256 := 0
  pre : W64 := 0
deriving DecidableEq, Repr

/-- The sequencer and the engine of one mill. -/
structure Mill where
  item   : Option Nat := none
  ord    : Nat := 0
  pc     : Nat := 0
  ended  : Bool := false
  halted : Bool := false
  s      : Vector W32 16 := Vector.replicate 16 0
  t      : Vector W64 16 := Vector.replicate 16 0
  lc     : Vector W32 4 := Vector.replicate 4 0
  loops  : List LoopFrame := []
  tags   : Vector (Option Move) 16 := Vector.replicate 16 none
  /-- sticky flags of the bundle in progress, which reach the tile registers when it ends (R80, R81) -/
  late   : List (Fin 16 × Flags) := []
  bar    : Option BarWait := none
  active : Bank := {}
  shadow : Bank := {}
  seeds  : Vector SeedSlot 4 := Vector.replicate 4 {}
  /-- the loaded image file; empty program stores hold none -/
  image  : Option (List Byte) := none
  /-- the LOAD_IMAGE that loaded it -/
  imageBy : Option (Fin 64 × W48) := none
deriving DecidableEq, Repr

-- ## Memory tiers (chapters 8 and 9)

/-- A channel's controller: counts, bucket, repeat list and remap table (R236 to R240). -/
structure Chan where
  corr   : W16 := 0
  uncorr : Byte := 0
  level  : BitVec 10 := 0
  ovf    : Bool := false
  repeats : List (BitVec 29) := []
  remap  : List (BitVec 29) := []
  /-- burst addresses of uncorrectable reads in this tick (R238) -/
  bad    : List (BitVec 29) := []
  rate   : BitVec 2 := 0
deriving DecidableEq, Repr

/-- The memory registers of a race (Tables 8-10 to 8-15, 9-7 to 9-14). -/
structure RaceMem where
  taLost     : W32 := 0
  fbActive   : Bool := false
  fbChannel  : BitVec 5 := 0
  fbRestored : Bool := false
  unregLost  : Bool := false
  tbLost     : BitVec 14 := 0
  tbFailed   : Bool := false
  rebuilding : Option (Fin 14) := none
  rebuildDone : Bool := false
  retrainFail : Bool := false
  tbChannel  : BitVec 4 := 0
  tbPending  : Bool := false
  slots      : BitVec 27 := 0
  derateSeen : Bool := false
  bucketCap  : BitVec 10 := 64
  leakMs     : W16 := 1000
  bucketOvf  : Bool := false
  uncorr     : Bool := false
  remapAlloc : Bool := false
  failing    : Bool := false
  fillActive : Bool := false
  fillDone   : Bool := false
  arm        : Bool := false
  flipCh     : BitVec 6 := 0
  fired      : Bool := false
  refused    : Bool := false
  flipBurst  : BitVec 29 := 0
  flipMask   : BitVec 288 := 0
  chans      : Vector Chan 46 := Vector.replicate 46 {}
  /-- stored code words that differ from the encoding of their data: channel × 2^29 + burst, and the difference -/
  errs       : List (Nat × BitVec 288) := []
deriving DecidableEq, Repr

-- ## Rings (Tables 10-20, 10-21)

/-- A work ring. -/
structure WorkRing where
  base   : W64 := 0
  log2n  : BitVec 5 := 6
  cring  : BitVec 4 := 0
  enable : Bool := false
  stop   : BitVec 2 := 0
  dbErr  : Bool := false
  page   : Byte := 0
  producer : W48 := 0
  released : W48 := 0
  next   : W48 := 0
  /-- CANCEL was written: every descriptor below the PRODUCER of the next commit is withdrawn -/
  cancel : Bool := false
  /-- descriptors below this sequence are withdrawn (R274); none before the first cancel -/
  cancelTo : Option W48 := none
  /-- the same for each class (R274) -/
  cancelClass : Vector (Option W48) 4 := Vector.replicate 4 none
deriving DecidableEq, Repr

/-- A completion ring. -/
structure CompRing where
  base   : W64 := 0
  log2m  : BitVec 5 := 7
  enable : Bool := false
  dbErr  : Bool := false
  page   : Byte := 0
  consumed : W48 := 0
  written  : W48 := 0
  /-- records committed and not yet sent, in the order of R41 -/
  staged : List Rec := []
  /-- records sent and not yet acknowledged, with the flit that carries their end -/
  flying : List (BitVec 12 × Rec) := []
  held   : BitVec 11 := 0
deriving DecidableEq, Repr

-- ## Races

/-- A key that a race cipher engine holds for a descriptor, and the ciphertext that has passed (R371, R373). -/
structure EngineJob where
  ring : Fin 64
  seq  : W48
  key  : BitVec 256
  run  : List Byte := []
deriving DecidableEq, Repr

/-- A race. -/
structure Race where
  classMills : Vector (BitVec 5) 4 := Vector.replicate 4 0
  hold     : Bool := false
  held     : Bool := false
  testPending : Bool := false
  intEn    : Bool := true
  floatEn  : Bool := true
  tolExp   : BitVec 5 := 14
  mismatch : Bool := false
  retired  : Bool := false
  lastPm   : BitVec 5 := 0
  mismCnt  : Byte := 0
  skipCnt  : Byte := 0
  sparePos : BitVec 5 := 24
  spareUse : Bool := false
  spareBad : Bool := false
  map      : Vector (BitVec 5) 24 := Vector.ofFn (fun k => BitVec.ofNat 5 k.val)
  /-- physical mills with a first mismatch, and its tick (R103) -/
  firstMis : List (Nat × W64) := []
  /-- logical mills retired in this tick, to be mapped at the next boundary (R327) -/
  toMap    : List (Fin 24) := []
  oos      : Bool := false
  recovering : Bool := false
  resetReq : Bool := false
  mem      : RaceMem := {}
  wrings   : Vector WorkRing 64 := Vector.replicate 64 {}
  crings   : Vector CompRing 16 := Vector.replicate 16 {}
  mills    : Vector Mill 24 := Vector.replicate 24 {}
  /-- the keys that the cipher engine holds (R371) -/
  engine   : List EngineJob := []
deriving DecidableEq, Repr

-- ## The hopper (chapter 7)

/-- A stored word and the cell that holds it. -/
structure HopWord where
  cell : Nat
  bits : BitVec 80
deriving DecidableEq, Repr

/-- A hopper queue. -/
structure HopQ where
  lev     : Vector (List HopWord) 4 := Vector.replicate 4 []
  pushed  : Vector (BitVec 7) 4 := Vector.replicate 4 0
  popped  : Vector (BitVec 7) 4 := Vector.replicate 4 0
  overrun : Bool := false
  wmCnt   : BitVec 4 := 0
  wmLevel : BitVec 7 := 0
  /-- the level whose packet is in progress (R196) -/
  lock    : Option (Fin 4) := none
  /-- the next word counts as poisoned (R193) -/
  suspect : Bool := false
deriving DecidableEq, Repr

/-- A hopper partition (R186). -/
structure HopPart where
  secded    : Bool := true
  modeNext  : Bool := false
  resetPend : Bool := false
  poison    : Bool := false
  overrun   : Bool := false
  wm        : Bool := false
  recovered : Bool := false
  eccCnt    : Byte := 0
  lastQueue : BitVec 14 := 0
  lastCell  : BitVec 17 := 0
  seqErr    : Bool := false
  cells     : BitVec 17
  queues    : List (Nat × HopQ) := []
  /-- cells whose first error was found, and cells retired (R200) -/
  erred     : List Nat := []
  retired   : List Nat := []
  oos       : Bool := false
  /-- a poisoned word was taken: reset at the next boundary, then rebuild (R199) -/
  recover   : Bool := false
  rebuild   : Bool := false
  /-- the word that the last pop delivered, data and tag; the idle item before any (R191) -/
  out       : W64 × Byte := (0xFFFFFFFFFFFFFFFF#64, 0)
deriving DecidableEq, Repr

-- ## The Afdun link (chapter 10)

/-- An outstanding request of the device. -/
inductive LinkReq where
  | ringRead (t : TenantId) (ring : Fin 64) (line : W64) (keep : Bool)
  | itemRead (item : Nat)
  | snoop (page : Byte)
deriving DecidableEq, Repr

/-- The link block. -/
structure Link where
  width    : Vector (BitVec 2) 4 := Vector.replicate 4 0
  laneFail : Vector Byte 4 := Vector.replicate 4 0
  degraded : Bool := false
  downEvent : Bool := false
  /-- the link has been declared down and not yet come up (R257) -/
  down     : Bool := false
  constH2D : Byte := 0
  constD2H : Byte := 0
  crcCnt   : W16 := 0
  nakCnt   : Byte := 0
  retrainCnt : Byte := 0
  retrainPend : Bool := false
  rxNext   : BitVec 12 := 0
  rxHeld   : List (BitVec 12 × List (BitVec 128)) := []
  rxPart   : List (BitVec 128) := []
  /-- a NAK was sent: every data flit but the one it asked for is discarded (R259) -/
  replay   : Bool := false
  txNext   : BitVec 12 := 0
  unacked  : List (BitVec 12 × List (BitVec 128)) := []
  txq      : List (List (BitVec 128)) := []
  reqCr    : Nat := 512
  snpCr    : Nat := 16
  /-- credits to return: pool and slots (R261) -/
  credits  : List (Byte × Byte) := []
  out      : List Flit := []
  reqs     : List (Nat × LinkReq) := []
  nextTag  : BitVec 12 := 0
  cache    : Vector (List (W64 × Line)) 8 := Vector.replicate 8 []
  /-- fills that a snoop met on their way: used once, for the fetch in progress (R264) -/
  once     : Vector (List (W64 × Line)) 8 := Vector.replicate 8 []
  dbMap    : List (Nat × BitVec 11) := []
  /-- doorbell pages whose status line the host may hold, with its producer line as bit 8 (R263) -/
  hostLines : List Nat := []
deriving DecidableEq, Repr

-- ## Weir (chapter 11)

/-- A registered or revoked window (R289, R291). -/
structure WWin where
  tag     : W32
  base    : W64
  length  : W64
  peer    : W16
  any     : Bool
  notify  : Bool
  ring    : BitVec 4
  cls     : ClassId
  round   : Option (Fin 64) := none
  /-- epoch of the commit that completed the revocation -/
  revoked : Option W16 := none
  /-- a revocation waits for accepted packets to be placed -/
  pending : Option (Fin 64 × W48) := none
  records : W32 := 0
  doneAfter : W32 := 0
  failed  : W32 := 0
deriving DecidableEq, Repr

/-- A message being sent (R293 to R297). -/
structure Send where
  seq     : W48
  epoch   : W16
  ring    : Fin 64
  dseq    : W48
  dest    : W16
  tag     : W32
  base    : W64
  len     : W32
  /-- device or host source, or a round's accumulator segment, or bytes held by the device -/
  src     : W64
  fromHost : Bool := false
  bytes   : List Byte := []
  packets : Nat
  sent    : Nat := 0
  cum     : Nat := 0
  acked   : List Nat := []
  acks    : Bool := false
  fresh   : Bool := true
  tries   : Nat := 1
  waits   : Nat := 0
  all     : Bool := false
  tickUs  : W32 := 0
  restarts : BitVec 4 := 0
  /-- packets that had been sent when the message last restarted: they are sent again in order (R303) -/
  again   : Nat := 0
  /-- retransmissions of each packet -/
  retx    : List (Nat × Nat) := []
  round   : Option (Fin 64) := none
  done    : Bool := false
  status  : Byte := 0
  code    : Byte := 0
  sub     : Byte := 0
  committed : Bool := false
deriving DecidableEq, Repr

/-- A reassembly entry (R300). -/
structure Reasm where
  key     : MsgKey
  port    : PortId
  window  : BitVec 13
  len     : W32
  base    : W64
  tag     : W32
  restart : BitVec 4 := 0
  cum     : Nat := 0
  got     : List Nat := []
  unreported : Nat := 0
  placed  : Nat := 0
  /-- packets accepted and not yet placed: index and payload -/
  buffer  : List (Nat × List Byte) := []
  /-- an upload whose chunk is claimed, or a message that needs no claim -/
  claimed : Bool := false
  complete : Bool := false
  landed  : Bool := false
  sentComplete : Bool := false
  committed : Bool := false
deriving DecidableEq, Repr

/-- A tenant number's Weir state. -/
structure WeirT where
  windows : List (Nat × WWin) := []
  sends   : List Send := []
  reasm   : List Reasm := []
  dups    : List MsgKey := []
  /-- claims to clear at the next commit: round, landing slot and chunk (R137) -/
  unclaim : List (Nat × Nat × Nat) := []
  resetEpoch : Option W16 := none
  bufFull : W16 := 0
  entryFull : W16 := 0
deriving DecidableEq, Repr

/-- A port (Table 11-13). -/
structure Port where
  vlanEn : Bool := false
  vlanId : BitVec 12 := 0
  nhMac  : W48 := 0
  up     : Bool := false
  fec    : W16 := 0
deriving DecidableEq, Repr

/-- A peer (Table 11-16) with its path states (R286). -/
structure Peer where
  valid   : Bool := false
  v6      : Bool := false
  disc    : Bool := false
  stale   : Bool := false
  mask    : Byte := 0
  id      : W16 := 0
  addr    : BitVec 128 := 0
  site    : W32 := 0
  boot    : W32 := 0
  /-- paths marked down, as port × 16 + path -/
  down    : List Nat := []
  /-- paths that have answered a probe (R308), unanswered probes in a row, and the outstanding cookie -/
  up      : List Nat := []
  missed  : List (Nat × Nat) := []
  probes  : List (Nat × W32) := []
  reply   : Bool := false
deriving DecidableEq, Repr

/-- A frame that the device sends: a Weir packet to a peer or endpoint, or an address reply. -/
inductive NetOut where
  | weir (port : PortId) (path : BitVec 4) (dest : W16) (p : WeirPkt)
  | beacon (port : PortId) (reply : Option (Nat)) (p : WeirPkt)
  | address (port : PortId) (management v6 : Bool) (mac : W48)
deriving DecidableEq, Repr

/-- The network block (Tables 11-10 to 11-16). -/
structure Net where
  enable  : Bool := false
  /-- an ENABLE written before READY, which takes effect then (R437) -/
  held    : Bool := false
  mode800 : Bool := false
  timeSrc : Bool := false
  dscp    : BitVec 6 := 0
  portEn  : Byte := 0
  moduleId : W16 := 0
  pathsM1 : BitVec 4 := 3
  site    : W32 := 0
  dstPort : W16 := 0xD2A5
  srcBase : W16 := 0xC000
  addr4   : W32 := 0
  addr6   : Vector W32 4 := Vector.replicate 4 0
  disc4   : W32 := 0
  disc6   : Vector W32 4 := Vector.replicate 4 0
  mac     : W48
  reasmMs : BitVec 10 := 10
  cfgErr  : Bool := false
  idConflict : Bool := false
  peerFull : Bool := false
  formed  : Bool := false
  ports   : Vector Port 8 := Vector.replicate 8 {}
  devBufFull : W16 := 0
  devEntryFull : W16 := 0
  malformed : W16 := 0
  unknownTag : W16 := 0
  ptpEn   : Bool := false
  ptpPort : BitVec 3 := 0
  ptpLocked : Bool := false
  ptpGood : Nat := 0
  ptpBad  : Nat := 0
  ptpOffset : W32 := 0
  time    : W64 := 0
  timeHi  : Option W32 := none
  latch   : W32 := 0
  peers   : List (Nat × Peer) := []
  /-- the path list of each peer entry as it took effect at the last tick boundary (R285, R286) -/
  lists   : List (Nat × List Nat) := []
  boot    : Option W32 := none
  counter : W48 := 0
  beacons : Vector Nat 8 := Vector.replicate 8 0
  cookie  : W32 := 0
  out     : List NetOut := []
deriving DecidableEq, Repr

-- ## Tenants (chapter 13)

/-- The states of Table 13-2. -/
inductive TenState where
  | free | configured | inService | releasing | scrubbing | outOfService
deriving DecidableEq, Repr

/-- An RTP job: its descriptor, the tick of its acceptance, whether an RTP restart met it, and an attestation report
as built at its start (R355, R374, R376). -/
structure Job where
  ring   : Fin 64
  seq    : W48
  tick   : W64
  late   : Bool := false
  report : List Byte := []
deriving DecidableEq, Repr

/-- A tenant number. -/
structure Tenant where
  races    : Byte := 0
  rounds   : BitVec 5 := 0
  keySlots : BitVec 11 := 0
  draftBase : BitVec 7 := 0
  draftSize : BitVec 7 := 0
  ctxBase  : BitVec 18 := 0
  ctxCount : BitVec 19 := 0
  state    : TenState := .free
  setupErr : BitVec 4 := 0
  debugRaces : Byte := 0
  permille : BitVec 10 := 0
  scrubDone : Bool := false
  discarded : W16 := 0
  activating : Bool := false
  /-- RELEASE was accepted in Out of service: the tenant's activities end at the next commit (R344, R345) -/
  ending   : Bool := false
  force    : Bool := false
  share    : Vector (BitVec 4) 4 := Vector.replicate 4 0
  jnl      : Jnl := {}
  descs    : List Desc := []
  /-- the ring after the last one served (R51) -/
  cursor   : Fin 64 := 0
  wsets    : List (Nat × List Win) := []
  models   : List (Nat × Model) := []
  weir     : WeirT := {}
  keys     : List (Nat × Key) := []
  /-- children to purge at the next commit, as the cell they descend from (R370) -/
  purge    : List (Nat × Bool) := []
  domain   : BitVec 256 := 0
  cells    : BitVec 11 := 0
  flocks   : W32 := 0
  /-- the DRBG response queue (R389) -/
  values   : List W32 := []
  /-- the RTP job in progress (R374) -/
  job      : Option Job := none
  packages : List (List Byte) := []
  classCancel : BitVec 4 := 0
  nextOrder : Nat := 0
  /-- rounds to end at the next commit for race debug, and a zero-fill not yet committed (R351) -/
  debugAbort : Bool := false
deriving DecidableEq, Repr

-- ## Keys and life cycle (chapter 14)

/-- A copy of the life-cycle record (Table 14-4). -/
structure LcCopy where
  valid  : Bool
  state  : BitVec 2
  wipe   : Bool := false
  rootPend : Bool := false
  keygen : Bool := false
  gen    : W64
  epoch  : W32 := 0
  transitions : W32 := 0
deriving DecidableEq, Repr

/-- A copy of the root record. -/
structure RootCopy where
  valid  : Bool := false
  gen    : W64 := 0
  epoch  : W32 := 0
  secret : BitVec 256 := 0
deriving DecidableEq, Repr

/-- A copy of the minimum firmware versions. -/
structure SvnCopy where
  valid : Bool := true
  gen   : W64 := 0
  svn   : Vector W32 4 := Vector.replicate 4 0
deriving DecidableEq, Repr

/-- A copy of a generation cell; tag 0 is free. -/
structure CellCopy where
  valid   : Bool := true
  tag     : W64 := 0
  counter : W32 := 0
  gen     : W32 := 0
deriving DecidableEq, Repr

/-- A copy of a persistent slot (Table 14-3). -/
structure SlotCopy where
  valid : Bool := true
  cls   : Byte := 0
  kind  : Byte := 0
  gen   : W64 := 0
  epoch : W32 := 0
  label : W64 := 0
  body  : List Byte := []
deriving DecidableEq, Repr

/-- A firmware component in force. -/
structure Fw where
  svn    : W32 := 0
  digest : BitVec 512
deriving DecidableEq, Repr

/-- The key vault, the RTP and the security MRAM. -/
structure Sec where
  lcA    : LcCopy
  lcB    : LcCopy
  rootA  : RootCopy := {}
  rootB  : RootCopy := {}
  svnA   : SvnCopy := {}
  svnB   : SvnCopy := {}
  cells  : List (Nat × (CellCopy × CellCopy)) := []
  slots  : List (Nat × (SlotCopy × SlotCopy)) := []
  locked : Bool := false
  restarts : BitVec 4 := 0
  challenge : Option (BitVec 256) := none
  busy   : Bool := false
  done   : Bool := false
  err    : Bool := false
  code   : Byte := 0
  /-- the command has run and only its end is waited for; the operator who sent it, if one did -/
  served : Bool := false
  asker  : Option ReqId := none
  /-- that operator's arguments, and the answer: RESULT and the response (Table 17-2, R452) -/
  opArg  : List Byte := []
  opRsp  : List Byte := []
  result : Byte := 0
  rspLen : W16 := 0
  arg    : List (Nat × W32) := []
  rsp    : List Byte := []
  fw     : Vector Fw 4
  /-- components accepted and waiting for their moment (R375) -/
  fwNext : List (Nat × Fw) := []
  /-- how many free values the RTP has drawn -/
  draws  : Nat := 0
deriving DecidableEq, Repr

-- ## Random numbers (chapter 15)

/-- A vane (Table 15-6). -/
structure Vane where
  state   : BitVec 2 := 0
  failRun : BitVec 2 := 0
  trim    : BitVec 10 := 0x200
  failCnt : W16 := 0
  ones    : BitVec 11 := 0
  agree   : BitVec 11 := 0
  run     : BitVec 6 := 0
  pass    : Bool := false
  bias    : W16 := 0
  corr    : W16 := 0
  inLimits : Bool := false
  blocks  : BitVec 31 := 0
  /-- start-up blocks passed, and the tail run of the last block -/
  started : Nat := 0
  tailBit : Bool := false
  tailRun : Nat := 0
  /-- the passed block that a root-secret read has so far (R386) -/
  raw     : List (BitVec 1024) := []
deriving DecidableEq, Repr

/-- A DRBG of the nine (R387). -/
structure Drbg where
  on    : Bool := false
  key   : BitVec 256 := 0
  v     : BitVec 128 := 0
  count : Nat := 0
deriving DecidableEq, Repr

/-- The random number block. -/
structure Rng where
  rawReq  : Bool := false
  rawPend : Bool := false
  rawActive : Bool := false
  rawVane : BitVec 2 := 0
  freeze  : Bool := false
  ready   : Bool := false
  fatal   : Bool := false
  blockFail : Bool := false
  retireEvent : Bool := false
  reseeds : W16 := 0
  vanes   : Vector Vane 4 := Vector.replicate 4 {}
  pool    : List Bool := []
  drbgs   : Vector Drbg 9 := Vector.replicate 9 {}
  fifo    : List (W32 × Bool) := []
  underrun : Bool := false
  overflow : Bool := false
deriving DecidableEq, Repr

-- ## Power (chapter 16), management (chapter 17), start-up (chapter 18)

/-- A command in the slot of PWR_CMD. -/
structure PwrCmd where
  kind   : BitVec 2
  domain : BitVec 7
  st     : BitVec 2
  mhz    : BitVec 11
  /-- the management request to answer when the command ends -/
  req    : Option ReqId := none
  /-- the command has taken effect and its domains are in transition -/
  moving : Bool := false
deriving DecidableEq, Repr

/-- A rail (Table 16-15). -/
structure Rail where
  mv     : BitVec 14 := 0
  amps   : BitVec 12 := 0
  phases : BitVec 5
  fault  : Bool := false
deriving DecidableEq, Repr

/-- The power block. -/
structure Pwr where
  /-- the logic side is supplied -/
  alive   : Bool := false
  cmd     : Option PwrCmd := none
  pending : Bool := false
  done    : Bool := false
  cmdErr  : Bool := false
  result  : BitVec 3 := 0
  devState : BitVec 2 := 0
  pfWarn  : Bool := false
  phaseFault : Bool := false
  curMhz  : BitVec 11 := 0x4E2
  domains : Vector (BitVec 2) 80 := Vector.replicate 80 0
  saved   : Vector (BitVec 2) 80 := Vector.replicate 80 0
  vin     : W16 := 0
  pinW    : W16 := 0
  peakW   : W16 := 0
  draw    : Vector (BitVec 12) 8 := Vector.replicate 8 0
  temp    : Vector (BitVec 12) 8 := Vector.replicate 8 0
  stretch : Vector W32 8 := Vector.replicate 8 0
  stretchRem : Vector (BitVec 10) 8 := Vector.replicate 8 0
  rails   : Vector Rail 15
  /-- PFAIL is asserted: released while the rails are down or the power-fail sequence runs (R465) -/
  pfail   : Bool := true
  fatalN  : Bool := false
  /-- PMBus: STATUS_WORD's CML bit, STATUS_INPUT, and the readings of Table 16-9 -/
  cml     : Bool := false
  stInput : Byte := 0
  stTemp  : Byte := 0
  iin     : W16 := 0
  busV    : W16 := 0
  tRace   : W16 := 0
  tConv   : W16 := 0
  /-- what the PMBus page last answered -/
  pmOut   : List Byte := []
deriving DecidableEq, Repr

/-- A message that the management port sends (Table 17-1). -/
structure MgmtMsg where
  session : Fin 4
  op      : W16
  id      : W16
  status  : Byte
  flags   : Byte
  body    : List Byte
deriving DecidableEq, Repr

/-- An outstanding request, with its response once that is ready (R419). -/
structure OpReq where
  op  : W16
  id  : W16
  msg : Option MgmtMsg := none
deriving DecidableEq, Repr

/-- An operator session (R416, R417). -/
structure OpSess where
  roles    : BitVec 4
  /-- outstanding requests, in the order of their arrival -/
  waiting  : List OpReq := []
  interval : W16 := 0
deriving DecidableEq, Repr

/-- A log record (Table 17-7). -/
structure LogRec where
  seq    : W64
  tick   : W64
  cls    : Byte
  sev    : Byte
  tenant : Byte
  part   : Byte
  race   : Byte
  index  : W16
  detail : W64
deriving DecidableEq, Repr

/-- A test pending or running on a race, or on no race (Table 17-8). -/
structure TestRun where
  code    : Byte
  race    : BitVec 4
  unit    : BitVec 6
  start   : W48
  length  : W32
  ticks   : W16
  running : Bool := false
  cancel  : Bool := false
  /-- the operator's session, or the host -/
  from?   : Option ReqId
  /-- that session has closed -/
  gone    : Bool := false
deriving DecidableEq, Repr

/-- The management block (Tables 17-11 to 17-16). -/
structure Mgmt where
  linkUp   : Bool := false
  sessions : List (Nat × OpSess) := []
  decLog2  : BitVec 3 := 0
  restarts : BitVec 4 := 0
  authFail : Bool := false
  anchorLen : BitVec 11 := 0
  installed : Bool := false
  refused  : Bool := false
  anchorData : List (Nat × W32) := []
  reqCode  : Byte := 0
  reqRace  : BitVec 4 := 0
  reqUnit  : BitVec 6 := 0
  done     : Bool := false
  args     : Vector W32 4 := Vector.replicate 4 0
  result   : Vector W32 8 := Vector.replicate 8 0
  tests    : List (Nat × TestRun) := []
  engaged  : Byte := 0
  log      : List LogRec := []
  logSeq   : W64 := 0
  out      : List MgmtMsg := []
deriving DecidableEq, Repr

/-- Start-up and the registers that chapter 19 defines. -/
structure Start where
  ready    : Bool := false
  step     : BitVec 3 := 0
  clkErr   : Bool := false
  raceOos  : Bool := false
  lostCh   : Bool := false
  millMapped : Bool := false
  linkLate : Bool := false
  readyMs  : BitVec 12 := 0
  /-- PHY domains being filled (R242) -/
  filling  : List (Fin 80) := []
  /-- the outcomes with which the sequence in progress runs -/
  su       : StartUp := {}
  scratch  : W32 := 0
  errAddr  : BitVec 24 := 0
  errSet   : Bool := false
  errMore  : Bool := false
deriving DecidableEq, Repr

-- ## The tick (chapter 2)

/-- The phases of R39; between ticks of a stopped sequencer there is none. -/
inductive Phase where
  | none | execute | drain | commit
deriving DecidableEq, Repr

/-- The tick sequencer (Tables 2-9 to 2-14). -/
structure Tick where
  run      : Bool := false
  margin   : BitVec 5 := 5
  running  : Bool := false
  period   : BitVec 15 := 0x3E8
  priceMhz : BitVec 11 := 0x4E2
  source   : BitVec 2 := 0
  offset   : BitVec 20 := 0
  locked   : Bool := false
  lockLost : Bool := false
  paramErr : Bool := false
  planErr  : Bool := false
  overrun  : Bool := false
  overrunCnt : Byte := 0
  count    : W64 := 0
  latch    : W32 := 0
  /-- COMMIT_HI as latched, per tenant -/
  commitLatch : Vector W32 8 := Vector.replicate 8 0
  phaseErr : W32 := 0
  ppsMiss  : Nat := 0
  slots    : Vector (Vector (BitVec 4) 64) 13 := Vector.replicate 13 (Vector.replicate 64 0xF)
  phase    : Phase := .none
  items    : List Item := []
  nextItem : Nat := 0
  /-- a warm reset is requested and waits for the commit of the tick (R330) -/
  warmReq  : Bool := false
deriving DecidableEq, Repr

/-- The state of the block, and the commands that wait. -/
structure State where
  pending  : List Instr := []
  tick     : Tick := {}
  races    : Vector Race 8 := Vector.replicate 8 {}
  tenants  : Vector Tenant 8 := Vector.replicate 8 {}
  rounds   : Vector (Option Round) 64 := Vector.replicate 64 none
  ctxs     : List (Nat × Ctx) := []
  hops     : Vector HopPart 17
  link     : Link := {}
  net      : Net
  sec      : Sec
  rng      : Rng := {}
  pwr      : Pwr
  mgmt     : Mgmt := {}
  start    : Start := {}
  /-- JNL_STATUS -/
  recovering : Bool := false
  warmDone : Bool := false
  recoverErr : Bool := false
  /-- every addressed store: LPDDR6 data, scratchpads, race buffers, draft store -/
  mem      : List Host.Cell := []
deriving DecidableEq, Repr

/-- The cells of each hopper partition at reset: race hoppers 32,768, tenant partitions 14,336 (Table 7-14), the
device partition 16,384 (R186). [DESIGN CHOICE, unsafe: log 7] -/
def resetHops : Vector HopPart 17 :=
  Vector.ofFn (fun i => { cells := if i.val < 8 then 32768#17 else if i.val < 16 then 14336#17 else 16384#17 })

/-- Phases of each rail (Table 16-2). -/
def railPhases : Vector (BitVec 5) 15 :=
  #v[12, 12, 12, 12, 12, 12, 12, 12, 12, 2, 16, 8, 6, 3, 6]

/-- The security MRAM as it left the factory: the identity slots, and in Indigo the root secret and the state keys.
[DESIGN CHOICE, unsafe: log 9] -/
def shippedSec : Sec :=
  let lc : LcCopy := { valid := true, state := if Config.shippedIndigo then 1 else 0, gen := 1,
                       epoch := if Config.shippedIndigo then 1 else 0 }
  let slot (s : Nat) (c k : Byte) : Nat × (SlotCopy × SlotCopy) :=
    (s, ({ cls := c, kind := k, gen := 1, body := Config.shippedSlot s }, { gen := 0 }))
  let ident := [slot 0 1 1, slot 1 1 2, slot 2 1 2]
  { lcA := lc, lcB := { lc with gen := 0 },
    rootA := { valid := Config.shippedIndigo, gen := 1, epoch := 1, secret := Config.shippedRoot },
    slots := if Config.shippedIndigo then ident ++ [slot 3 2 1, slot 4 2 2, slot 5 2 1] else ident,
    fw := Vector.ofFn (fun i => { svn := Config.romSvn i.val, digest := Config.romDigest i.val }) }

/-- The state at power-on reset: every register at its Reset value, no work, no command waiting. The module is
not yet started: POWER_GOOD_RISE runs the sequence of Table 18-1.
[DESIGN CHOICE, unsafe: log 5; DESIGN CHOICE, unsafe: log 6; DESIGN CHOICE, unsafe: log 7] -/
def State.reset : State :=
  { hops := resetHops, net := { mac := Config.mac }, sec := shippedSec,
    pwr := { rails := Vector.ofFn (fun i => { phases := railPhases[i] }) } }

end Sys2Proof.Machine
end

