-- ==== Sys2Proof/Machine/Ops.lean ====
section
/-! DEFINITION. The named operations that the meanings share: updates of one part of the state, the addressed
memory in its canonical form, ownership, events and the log, and the ends of items. -/

namespace Sys2Proof.Machine

-- ## Updates of one part

/-- Applies `f` to a race. -/
def State.modRace (s : State) (r : RaceId) (f : Race → Race) : State :=
  { s with races := s.races.set r (f s.races[r]) }

/-- Applies `f` to a tenant number. -/
def State.modTenant (s : State) (t : TenantId) (f : Tenant → Tenant) : State :=
  { s with tenants := s.tenants.set t (f s.tenants[t]) }

/-- Applies `f` to the memory registers of a race. -/
def State.modMem (s : State) (r : RaceId) (f : RaceMem → RaceMem) : State :=
  s.modRace r (fun x => { x with mem := f x.mem })

/-- Applies `f` to a channel of a race. -/
def State.modChan (s : State) (r : RaceId) (ch : Fin 46) (f : Chan → Chan) : State :=
  s.modMem r (fun m => { m with chans := m.chans.set ch (f m.chans[ch]) })

/-- A mill by its logical name. -/
def State.mill (s : State) (m : MillName) : Mill := s.races[m.race].mills[m.mill]

/-- Applies `f` to a mill. [DESIGN CHOICE, unsafe: log 13] -/
def State.modMill (s : State) (m : MillName) (f : Mill → Mill) : State :=
  s.modRace m.race (fun x => { x with mills := x.mills.set m.mill (f x.mills[m.mill]) })

/-- Applies `f` to a work ring of a race. -/
def State.modWring (s : State) (r : RaceId) (w : Fin 64) (f : WorkRing → WorkRing) : State :=
  s.modRace r (fun x => { x with wrings := x.wrings.set w (f x.wrings[w]) })

/-- Applies `f` to a completion ring of a race. -/
def State.modCring (s : State) (r : RaceId) (c : Fin 16) (f : CompRing → CompRing) : State :=
  s.modRace r (fun x => { x with crings := x.crings.set c (f x.crings[c]) })

/-- Applies `f` to the tick sequencer. -/
def State.modTick (s : State) (f : Tick → Tick) : State := { s with tick := f s.tick }
/-- Applies `f` to the link. -/
def State.modLink (s : State) (f : Link → Link) : State := { s with link := f s.link }
/-- Applies `f` to the network block. -/
def State.modNet (s : State) (f : Net → Net) : State := { s with net := f s.net }
/-- Applies `f` to the security block. -/
def State.modSec (s : State) (f : Sec → Sec) : State := { s with sec := f s.sec }
/-- Applies `f` to the random number block. -/
def State.modRng (s : State) (f : Rng → Rng) : State := { s with rng := f s.rng }
/-- Applies `f` to the power block. -/
def State.modPwr (s : State) (f : Pwr → Pwr) : State := { s with pwr := f s.pwr }
/-- Applies `f` to the management block. -/
def State.modMgmt (s : State) (f : Mgmt → Mgmt) : State := { s with mgmt := f s.mgmt }
/-- Applies `f` to the start-up registers. -/
def State.modStart (s : State) (f : Start → Start) : State := { s with start := f s.start }
/-- Applies `f` to a tenant's journal. -/
def State.modJnl (s : State) (t : TenantId) (f : Jnl → Jnl) : State :=
  s.modTenant t (fun x => { x with jnl := f x.jnl })
/-- Applies `f` to a tenant number's Weir state. -/
def State.modWeir (s : State) (t : TenantId) (f : WeirT → WeirT) : State :=
  s.modTenant t (fun x => { x with weir := f x.weir })
/-- Sets a round slot. -/
def State.setRound (s : State) (i : Fin 64) (r : Option Round) : State := { s with rounds := s.rounds.set i r }
/-- Applies `f` to the round of a slot, if it holds one. -/
def State.modRound (s : State) (i : Fin 64) (f : Round → Round) : State := s.setRound i (s.rounds[i].map f)
/-- Applies `f` to a hopper partition. -/
def State.modHop (s : State) (p : Fin 17) (f : HopPart → HopPart) : State :=
  { s with hops := s.hops.set p (f s.hops[p]) }

/-- Runs an operation for each element of a list, in order. -/
def forEach {α : Type} (xs : List α) (s : State) (f : State → α → State) : State := xs.foldl f s

/-- Every race number. -/
def allRaces : List RaceId := List.finRange 8
/-- Every tenant number. -/
def allTenants : List TenantId := List.finRange 8

/-- The moment is a tick boundary, or the sequencer is stopped: no phase in which items run is under way (R39, R474). -/
def State.boundary (s : State) : Bool := s.tick.phase = .none || s.tick.phase = .commit

-- ## The addressed memory

/-- The byte at an address; an address that nothing has written reads 0, as every store does after the fill and the
zero-fill of start-up (R242, R436). [DESIGN CHOICE, unsafe: log 5] -/
def memGet : List Host.Cell → Nat → Byte
  | [], _ => 0
  | (a, b) :: rest, k => if a = k then b else if k < a then 0 else memGet rest k

/-- The memory with one byte written, in canonical form: addresses rising, no zero byte listed. -/
def memPut : List Host.Cell → Nat → Byte → List Host.Cell
  | [], k, v => if v = 0 then [] else [(k, v)]
  | (a, b) :: rest, k, v =>
    if k < a then (if v = 0 then (a, b) :: rest else (k, v) :: (a, b) :: rest)
    else if k = a then (if v = 0 then rest else (k, v) :: rest)
    else (a, b) :: memPut rest k v

/-- Addresses rise strictly and no listed byte is 0. -/
def memWf : List Host.Cell → Bool
  | [] => true
  | [(_, b)] => b != 0
  | (a, b) :: (a', b') :: rest => b != 0 && decide (a < a') && memWf ((a', b') :: rest)

/-- `n` bytes from an address. -/
def memBytes (m : List Host.Cell) (a n : Nat) : List Byte := (List.range n).map (fun i => memGet m (a + i))

/-- A list of bytes written from an address. -/
def memPuts : List Host.Cell → Nat → List Byte → List Host.Cell
  | m, _, [] => m
  | m, a, b :: bs => memPuts (memPut m a b) (a + 1) bs

/-- Every byte from `a` to `a + n - 1` set to 0. -/
def memZero (m : List Host.Cell) (a n : Nat) : List Host.Cell :=
  m.filter (fun c => !(decide (a ≤ c.1) && decide (c.1 < a + n)))

/-- Where the data of a burst lies in the model's one memory: race, channel index (tier B from 32), burst. -/
def burstAddr (r : RaceId) (ch : Fin 46) (burst : Nat) : Nat := ((r.val * 46 + ch.val) * 2 ^ 29 + burst) * 32
/-- A scratchpad byte of a physical mill. -/
def scratchAddr (r : RaceId) (p : Nat) (off : Nat) : Nat := 2 ^ 45 + (r.val * 25 + p) * 2 ^ 21 + off
/-- A race-buffer byte. -/
def bufferAddr (r : RaceId) (off : Nat) : Nat := 2 ^ 46 + r.val * 2 ^ 24 + off
/-- A draft-store byte. -/
def draftAddr (off : Nat) : Nat := 2 ^ 47 + off

/-- The scratchpad address of a byte of a logical mill, through MIL_MAP (R11). -/
def State.spad (s : State) (m : MillName) (off : Nat) : Nat :=
  scratchAddr m.race (s.races[m.race].map[m.mill]).toNat off

/-- Bytes of a mill's scratchpad. See R20. -/
def State.spadRead (s : State) (m : MillName) (off n : Nat) : List Byte := memBytes s.mem (s.spad m off) n
/-- Bytes written to a mill's scratchpad. -/
def State.spadWrite (s : State) (m : MillName) (off : Nat) (bs : List Byte) : State :=
  { s with mem := memPuts s.mem (s.spad m off) bs }

-- ## Ownership (R336, R341, R343)

/-- The tenant owns its races: from its entry into In service until the end of its scrub (R343). -/
def TenState.owns : TenState → Bool
  | .free => false
  | .configured => false
  | _ => true

/-- Code of Table 13-2. -/
def TenState.code : TenState → Nat
  | .free => 0
  | .configured => 1
  | .inService => 2
  | .releasing => 3
  | .scrubbing => 4
  | .outOfService => 5

/-- The tenant names the race in RACES. -/
def Tenant.hasRace (t : Tenant) (r : RaceId) : Bool := t.races.getLsbD r.val

/-- The tenant that owns a race (R343). -/
def State.owner (s : State) (r : RaceId) : Option TenantId :=
  allTenants.find? (fun t => s.tenants[t].state.owns && s.tenants[t].hasRace r)

/-- The tenant's races in ascending order. -/
def State.racesOf (s : State) (t : TenantId) : List RaceId := allRaces.filter (fun r => s.tenants[t].hasRace r)

/-- The tenant's lowest race, whose ring registers act (R271). -/
def State.lowest (s : State) (t : TenantId) : RaceId := ((s.racesOf t).head?).getD 0

/-- The tenant is In service or Releasing (R341). -/
def State.serves (s : State) (t : TenantId) : Bool :=
  s.tenants[t].state = .inService || s.tenants[t].state = .releasing

/-- The race is in service (R341). -/
def State.raceServed (s : State) (r : RaceId) : Bool :=
  match s.owner r with
  | some t => s.serves t
  | none => false

/-- The race's tenant is held with HELD set; a race with no tenant counts as held (R66). -/
def State.raceHeld (s : State) (r : RaceId) : Bool := (s.owner r).isNone || s.races[r].held

/-- Every race is held (R256, R392). -/
def State.allHeld (s : State) : Bool := allRaces.all s.raceHeld

/-- A race of the tenant has HOLD set: the whole tenant is held back (R64). -/
def State.holding (s : State) (t : TenantId) : Bool := (s.racesOf t).any (fun r => s.races[r].hold)

/-- The tenant's work rings are those of its lowest race. -/
def State.wring (s : State) (t : TenantId) (w : Fin 64) : WorkRing := s.races[s.lowest t].wrings[w]
/-- The tenant's completion rings. -/
def State.cring (s : State) (t : TenantId) (c : Fin 16) : CompRing := s.races[s.lowest t].crings[c]

/-- Applies `f` to every descriptor of a tenant that `p` selects. -/
def State.modDescs (s : State) (t : TenantId) (p : Desc → Bool) (f : Desc → Desc) : State :=
  s.modTenant t (fun x => { x with descs := x.descs.map (fun d => if p d then f d else d) })

/-- The descriptor of a ring and sequence. -/
def State.desc? (s : State) (t : TenantId) (ring : Fin 64) (seq : W48) : Option Desc :=
  s.tenants[t].descs.find? (fun d => d.ring = ring && d.seq = seq)

/-- Applies `f` to one descriptor. -/
def State.modDesc (s : State) (t : TenantId) (ring : Fin 64) (seq : W48) (f : Desc → Desc) : State :=
  s.modDescs t (fun d => d.ring = ring && d.seq = seq) f

/-- Ends a waited-for descriptor with a status and completion bytes. -/
def State.finishDesc (s : State) (t : TenantId) (ring : Fin 64) (seq : W48) (status : Byte) (body : BitVec 128) :
    State :=
  s.modDesc t ring seq (fun d => if d.waits && !d.done then
    { d with waits := false, done := true, status := status, body := body } else d)

-- ## Events and the log (R334, R378, R425)

/-- Severity of a class (Table 17-5). -/
def severity (cls : Byte) : Byte :=
  if cls = 0x07 || cls = 0x22 || cls = 0x47 then 0
  else if cls = 0x03 || cls = 0x30 || cls = 0x33 || cls = 0x34 then 2
  else if cls = 0x41 || cls = 0x42 || cls = 0x43 then 3 else 1

/-- The 32 bytes of a log record (Table 17-7). -/
def LogRec.bytes (r : LogRec) : List Byte :=
  bytesLE 8 r.seq.toNat ++ bytesLE 8 r.tick.toNat ++ [r.cls, r.sev, r.tenant, r.part, r.race, 0] ++
    bytesLE 2 r.index.toNat ++ bytesLE 8 r.detail.toNat

/-- Queues a message on a session's stream. -/
def State.send (s : State) (m : MgmtMsg) : State := s.modMgmt (fun g => { g with out := g.out ++ [m] })

/-- A session's requests: the responses at the front that are ready go out, in the order of the requests (R419). -/
def flushWaiting : List OpReq → List MgmtMsg × List OpReq
  | [] => ([], [])
  | q :: rest =>
    match q.msg with
    | none => ([], q :: rest)
    | some m => let r := flushWaiting rest
      (m :: r.1, r.2)

/-- Fills the first open request that fits. [DEDUCED, unsafe: log 127] -/
def fillWaiting (m : MgmtMsg) : List OpReq → List OpReq
  | [] => [{ op := m.op, id := m.id, msg := some m }]
  | q :: rest => if q.op = m.op && q.id = m.id && q.msg.isNone then { q with msg := some m } :: rest else q :: fillWaiting m rest

/-- A request's response: it leaves when every earlier request of its session has been answered (R419).
[DEDUCED, unsafe: log 127] -/
def State.respond (s : State) (q : ReqId) (op : W16) (status : Byte) (body : List Byte) : State :=
  match sget? s.mgmt.sessions q.session.val with
  | none => s
  | some x =>
    let m : MgmtMsg := { session := q.session, op := op, id := q.id, status := status, flags := 1, body := body }
    let r := flushWaiting (fillWaiting m x.waiting)
    s.modMgmt (fun g => { g with sessions := sset g.sessions q.session.val { x with waiting := r.2 }, out := g.out ++ r.1 })

/-- The response of a request that was answered later: its session still waits for it. -/
def State.reply (s : State) (q : ReqId) (op : W16) (status : Byte) (body : List Byte) : State :=
  match sget? s.mgmt.sessions q.session.val with
  | none => s
  | some x => if x.waiting.any (fun e => e.op = op && e.id = q.id && e.msg.isNone) then s.respond q op status body else s

/-- A request that is answered later. -/
def State.awaitReply (s : State) (q : ReqId) (op : W16) : State :=
  s.modMgmt (fun g => { g with
    sessions := g.sessions.map (fun p =>
      if p.1 = q.session.val then (p.1, { p.2 with waiting := p.2.waiting ++ [{ op := op, id := q.id }] }) else p) })

/-- Closes sessions: their unanswered requests are discarded, what the device owns stays (R421, R432). -/
def State.closeSessions (s : State) (gone : Nat → Bool) : State :=
  let mine (q : Option ReqId) : Bool := match q with
    | some q => gone q.session.val
    | none => false
  let s := s.modMgmt (fun g => { g with
    sessions := g.sessions.filter (fun p => !gone p.1)
    tests := g.tests.map (fun p => (p.1, if mine p.2.from? then { p.2 with gone := true } else p.2)) })
  s.modPwr (fun p => { p with cmd := p.cmd.map (fun c => if mine c.req then { c with req := none } else c) })

/-- Sends an unsolicited EVENT message to every session with OBSERVE (Table 17-2). See R451. -/
def State.eventMsg (s : State) (r : LogRec) : State :=
  forEach (s.mgmt.sessions.filter (fun p => p.2.roles.getLsbD 0)) s (fun s p =>
    s.send { session := Fin.ofNat 4 p.1, op := 0x80, id := 0, status := 0, flags := 2, body := r.bytes })

/-- Writes a log record, the oldest of 4,096 giving way (R426). -/
def State.logEvent (s : State) (tenant : Byte) (e : Event) : State :=
  let r : LogRec := { seq := s.mgmt.logSeq, tick := s.tick.count, cls := e.cls, sev := severity e.cls,
                      tenant := tenant, part := e.part, race := e.race, index := e.index, detail := e.detail }
  let s := s.modMgmt (fun g =>
    { g with log := (g.log ++ [r]).drop (g.log.length + 1 - 4096), logSeq := g.logSeq + 1 })
  s.eventMsg r

/-- Raises an event to a tenant: it is journaled at the tenant's next commit; the log takes it too, except the
classes that R425 keeps from it. -/
def State.raise (s : State) (t : TenantId) (e : Event) : State :=
  let s := s.modJnl t (fun j => { j with events := j.events ++ [e] })
  if e.cls = 0x06 || e.cls = 0x07 then s else s.logEvent (BitVec.ofNat 8 t.val) e

/-- Raises an event to a race's tenant; for a race with no tenant only the log takes it. -/
def State.raiseRace (s : State) (r : RaceId) (e : Event) : State :=
  let e := { e with race := BitVec.ofNat 8 r.val }
  match s.owner r with
  | some t => s.raise t e
  | none => s.logEvent 0xFF e

/-- Gives the same event to every tenant in service, and one record to the log. -/
def State.raiseAll (s : State) (e : Event) : State :=
  (forEach (allTenants.filter s.serves) s (fun s t => s.modJnl t (fun j => { j with events := j.events ++ [e] }))).logEvent
    0xFF e

/-- A device-wide event (Table 13-7): every tenant in service receives DEVICE_PART with its class as detail (Table
13-8), and the log the event itself. [DEDUCED, unsafe: log 101] -/
def State.raiseDevice (s : State) (e : Event) : State :=
  let r : Event := { e with cls := 0x23, detail := e.cls.setWidth 64 }
  (forEach (allTenants.filter s.serves) s (fun s t => s.modJnl t (fun j => { j with events := j.events ++ [r] }))).logEvent
    0xFF e

-- ## Items

/-- The item of an identifier. -/
def State.item? (s : State) (id : Nat) : Option Item := s.tick.items.find? (fun i => i.id = id)

/-- Applies `f` to an item. -/
def State.modItem (s : State) (id : Nat) (f : Item → Item) : State :=
  s.modTick (fun k => { k with items := k.items.map (fun i => if i.id = id then f i else i) })

/-- Frees the mills that run an item: their sequencers wait for another. -/
def State.freeMills (s : State) (id : Nat) : State :=
  { s with races := s.races.map (fun r => { r with mills := r.mills.map (fun m =>
      if m.item = some id then { m with item := none, bar := none, tags := Vector.replicate 16 none } else m) }) }

/-- Lock lost: the tick runs free at the last corrected rate (R45). -/
def State.loseLock (s : State) : State :=
  s.modTick (fun k =>
    if k.source = 1 || k.source = 2 then { k with lockLost := true, locked := false, ppsMiss := 2 } else k)

/-- The IEEE 1588 servo has reported itself unlocked: lock is lost where the tick follows 1588 time (R45, R309). -/
def State.servoLost (s : State) (was : Bool) : State :=
  if was && !s.net.ptpLocked && s.tick.source = 2 then s.loseLock else s

/-- Sets PLAN_ERR and nothing else. -/
def State.planErr (s : State) : State := s.modTick (fun k => { k with planErr := true })

/-- Records a refused write to a set-up register (R453, Table 19-9). [DEDUCED, unsafe: log 138] -/
def State.writeErr (s : State) (addr : Nat) : State :=
  s.modStart (fun x => if x.errSet then { x with errMore := true }
    else { x with errSet := true, errAddr := BitVec.ofNat 24 addr })

/-- Address of a register in the block of a race (Table 19-2). -/
def raceReg (r : RaceId) (off : Nat) : Nat := 0xC00000 + r.val * 0x80000 + off

/-- Counts an overrun (R62). -/
def State.countOverrun (s : State) : State :=
  s.modTick (fun k => { k with overrun := true, overrunCnt := satInc k.overrunCnt })

/-- Stops an item for good with a status: its effects are dropped, none of its descriptor's remaining items runs and
it is not replayed (R76, R100). [DEDUCED, safe: log 4] -/
def State.stopItem (s : State) (id : Nat) (status : Byte) : State :=
  (s.modItem id (fun i => { i with state := .stopped, status := status, effects := [], body := 0 })).freeMills id

/-- The restored budget of attempts: the next attempt counts as the first (R61). -/
def State.firstAttempt (s : State) (id : Nat) : State := s.modItem id (fun i => { i with cuts := 0 })

/-- Cuts a placed or running item as an overrun: its effects are dropped and it is replayed first in its class in the
next tick; at the eighth cut in a row it ends with FAULTED and an event (R60 to R62, R476). [DEDUCED, unsafe: log 28] -/
def State.cutItem (s : State) (id : Nat) : State :=
  match s.item? id with
  | none => s
  | some i =>
    if i.state != .running && i.state != .placed then s else
    let s := (s.countOverrun.modItem id (fun i =>
      { i with state := .cut, cuts := i.cuts + 1, effects := [], flags := {}, body := 0 })).freeMills id
    let s := s.modDesc i.tenant i.ring i.seq (fun d => { d with fault := true })
    if i.cuts + 1 < 8 then s else
    -- a segment item's round becomes Faulted at the commit of the tick (R476)
    let s := s.modItem id (fun i => { i with state := .stopped, status := 0x04 })
    match i.kind with
    | .segment _ _ => s
    | _ => s.raise i.tenant { cls := 0x0B }

/-- Cuts every running item that `p` selects. -/
def State.cutWhere (s : State) (p : Item → Bool) : State :=
  forEach (s.tick.items.filter (fun i => (i.state = .running) && p i)) s (fun s i => s.cutItem i.id)

-- ## Out of service (R341)

/-- Puts a tenant that is In service or Releasing Out of service. -/
def State.tenantOut (s : State) (t : TenantId) : State :=
  s.modTenant t (fun x => { x with state :=
    if x.state = .inService || x.state = .releasing then .outOfService else x.state })

/-- Puts a race out of service, with its event, and its tenant with it (R341, Table 12-10). -/
def State.raceOut (s : State) (r : RaceId) : State :=
  if s.races[r].oos then s else
  let s := s.modRace r (fun x => { x with oos := true })
  let s := s.raiseRace r { cls := 0x03, flags := 4 }
  match s.owner r with
  | some t => s.tenantOut t
  | none => s

end Sys2Proof.Machine
end

