-- ==== Sys2Proof/Machine/Image.lean ====
section
/-! DEFINITION. The Morxaten image: its header, tables and bundles, the checks of R104, and the price of an entry
(Tables 3-18 and 3-19, R73, R74). An image is kept as the bytes of its file. -/

namespace Sys2Proof.Machine

/-- A little-endian field of an image. -/
def img (f : List Byte) (off len : Nat) : Nat := leAt f off len

/-- BUNDLE_COUNT. -/
def imgBundles (f : List Byte) : Nat := img f 0x10 4
/-- Bundle `n` as a 128-bit number (R83). -/
def imgBundle (f : List Byte) (n : Nat) : Nat := img f (img f 0x14 4 + 16 * n) 16
/-- ENTRY_COUNT. -/
def imgEntries (f : List Byte) : Nat := img f 0x18 2
/-- First byte of entry `e` of the entry table. -/
def imgEntryAt (f : List Byte) (e : Nat) : Nat := img f 0x20 4 + 128 * e
/-- Entry bundle index of entry `e`. -/
def imgEntry (f : List Byte) (e : Nat) : Nat := img f (imgEntryAt f e) 4
/-- The work classes in which entry `e` may run. -/
def imgClasses (f : List Byte) (e : Nat) : Nat := img f (imgEntryAt f e + 4) 1
/-- A constant-table entry; entries past the table's end read 0. -/
def imgConst (f : List Byte) (n : Nat) : Nat := if n < img f 0x1C 2 then img f (img f 0x28 4 + 4 * n) 4 else 0
/-- A tile-table entry; entries past the table's end read 0. -/
def imgTile (f : List Byte) (n : Nat) : Nat := if n < img f 0x1A 2 then img f (img f 0x24 4 + 8 * n) 8 else 0
/-- Kind, access and smallest size of a window of the image: the layout of the 8 bytes is kind, access, size. -/
def imgWindow (f : List Byte) (n : Nat) : Nat × Nat × Nat :=
  let a := img f 0x2C 4 + 8 * n
  (img f a 1, img f (a + 1) 1, img f (a + 2) 6)

/-- Coefficient `k` (base, c0, c1, c2, c3) of component `c` of an entry's price table. -/
def imgCoef (f : List Byte) (e c k : Nat) : Nat := img f (imgEntryAt f e + 8 + 20 * c + 4 * k) 4

-- ## Bundles (Tables 3-6, 3-7, 3-10, 3-11, 3-12, 3-14)

/-- Control slot. -/
def slotCtl (b : Nat) : Nat := fld b 104 24
/-- Move slot. -/
def slotMove (b : Nat) : Nat := fld b 80 24
/-- Matrix slot. -/
def slotMatrix (b : Nat) : Nat := fld b 56 24
/-- Vector slot. -/
def slotVector (b : Nat) : Nat := fld b 28 28
/-- Ring slot. -/
def slotRing (b : Nat) : Nat := fld b 0 28

/-- A defined control slot with its reserved bits 0, its scope defined and its timeout at least 1. -/
def ctlOk (w : Nat) : Bool :=
  match fld w 19 5 with
  | 0x00 => fld w 0 19 = 0
  | 0x01 => fld w 0 1 = 0 && fld w 1 12 ≠ 0
  | 0x02 => fld w 0 7 = 0 && fld w 7 8 ≠ 0
  | 0x03 => fld w 0 7 = 0 && fld w 7 8 ≠ 0
  | 0x04 => true
  | 0x05 => fld w 0 4 = 0
  | 0x06 => true
  | 0x07 => fld w 0 3 = 0
  | 0x08 => fld w 0 12 = 0
  | 0x09 => fld w 0 8 = 0 && fld w 12 3 < 5
  | 0x0A => fld w 0 11 = 0
  | 0x0B => fld w 0 3 = 0
  | 0x0C => fld w 0 2 = 0 && fld w 12 2 < 2 && fld w 2 10 ≠ 0
  | 0x0D => fld w 0 3 = 0
  | 0x0E => fld w 0 15 = 0
  | 0x0F => fld w 0 11 = 0
  | 0x10 => fld w 0 19 = 0
  | _ => false

/-- A defined move slot. -/
def moveOk (w : Nat) : Bool :=
  match fld w 20 4 with
  | 0x0 => fld w 0 20 = 0
  | 0x1 => fld w 0 5 = 0
  | 0x2 => fld w 0 5 = 0
  | 0x3 => fld w 0 5 = 0 && fld w 13 3 = 0
  | _ => false

/-- A defined matrix slot. -/
def matrixOk (w : Nat) : Bool :=
  match fld w 21 3 with
  | 0 => fld w 0 21 = 0
  | 1 => fld w 0 17 = 0
  | 2 => fld w 0 11 = 0
  | 3 => fld w 0 6 = 0 && fld w 7 2 ≠ 3
  | _ => false

/-- A defined vector slot. -/
def vectorOk (w : Nat) : Bool :=
  if fld w 23 5 = 0 then fld w 0 23 = 0 else decide (fld w 23 5 ≤ 0x13) && fld w 1 3 = 0

/-- A defined ring slot; the mask operations are refused (R97). -/
def ringOk (w : Nat) : Bool :=
  if fld w 24 4 = 0 then fld w 0 24 = 0 else decide (fld w 24 4 ≤ 5) && fld w 0 5 = 0

/-- Every slot of a bundle is defined (R104). -/
def bundleOk (b : Nat) : Bool :=
  ctlOk (slotCtl b) && moveOk (slotMove b) && matrixOk (slotMatrix b) && vectorOk (slotVector b) && ringOk (slotRing b)

/-- The loop that a bundle starts: its counter, first and last bundle. -/
def loopOf (n b : Nat) : Option (Nat × Nat × Nat) :=
  if fld (slotCtl b) 19 5 = 1 then some (fld (slotCtl b) 17 2, n + 1, n + fld (slotCtl b) 1 12) else none

/-- The last bundle that a skip passes over. -/
def skipOf (n b : Nat) : Option Nat :=
  if fld (slotCtl b) 19 5 = 2 || fld (slotCtl b) 19 5 = 3 then some (n + fld (slotCtl b) 7 8) else none

/-- The loops and skips of the program obey R84: bodies lie inside the program and inside the bodies around them, on
different counters and at most four deep; no skip crosses the end of a body around it. -/
def loopsOk (f : List Byte) : Bool :=
  let bs := (List.range (imgBundles f)).map (fun n => (n, imgBundle f n))
  let loops := bs.filterMap (fun p => loopOf p.1 p.2)
  let around (n : Nat) : List (Nat × Nat × Nat) := loops.filter (fun l => decide (l.2.1 ≤ n) && decide (n ≤ l.2.2))
  loops.all (fun l =>
    decide (l.2.2 < imgBundles f) &&
      -- the LOOP bundle itself stands at l.2.1 - 1
      ((around (l.2.1 - 1)).all (fun o => decide (l.2.2 ≤ o.2.2) && decide (o.1 ≠ l.1))) &&
      decide ((around (l.2.1 - 1)).length < 4)) &&
  bs.all (fun p => match skipOf p.1 p.2 with
    | none => true
    | some e => decide (e < imgBundles f) && (around p.1).all (fun o => decide (e ≤ o.2.2)))

/-- Sections of the image: offset and size. -/
def imgSections (f : List Byte) : List (Nat × Nat) :=
  [(0, 256), (img f 0x14 4, 16 * imgBundles f), (img f 0x20 4, 128 * imgEntries f), (img f 0x24 4, 8 * img f 0x1A 2),
   (img f 0x28 4, 4 * img f 0x1C 2), (img f 0x2C 4, 64)]

/-- No two sections of a list overlap. -/
def disjoint : List (Nat × Nat) → Bool
  | [] => true
  | x :: xs => xs.all (fun y => x.2 = 0 || y.2 = 0 || decide (x.1 + x.2 ≤ y.1) || decide (y.1 + y.2 ≤ x.1)) && disjoint xs

/-- The header against Table 3-18, every section inside the file and none overlapping. -/
def headerOk (f : List Byte) : Bool :=
  decide (256 ≤ f.length) && img f 0 4 = 0x0154584D && img f 4 2 = 1 && img f 6 1 = 0x5A && img f 7 1 = 0x09 &&
    img f 8 4 = 0 && img f 0xC 4 = f.length && decide (1 ≤ imgBundles f) && decide (imgBundles f ≤ 4096) &&
    img f 0x14 4 % 16 = 0 && decide (1 ≤ imgEntries f) && decide (imgEntries f ≤ 64) &&
    decide (16 ≤ img f 0x1A 2) && decide (img f 0x1A 2 ≤ 4096) && decide (img f 0x1C 2 ≤ 4096) && img f 0x1E 2 = 0 &&
    img f 0x30 208 = 0 && (imgSections f).all (fun x => x.2 = 0 || decide (x.1 + x.2 ≤ f.length)) &&
    disjoint (imgSections f)

/-- Format codes in the tile table are defined: 0xF is reserved (Table 3-8). -/
def tilesOk (f : List Byte) : Bool :=
  (List.range (img f 0x1A 2)).all (fun n => fld (imgTile f n) 48 4 ≠ 0xF)

/-- Every window kind of the window table is defined (Table 10-12). -/
def windowsOk (f : List Byte) : Bool := (List.range 8).all (fun n => decide ((imgWindow f n).1 ≤ 4))

/-- The checks of R104. -/
def imageOk (f : List Byte) : Bool :=
  headerOk f && (List.range (imgBundles f)).all (fun n => bundleOk (imgBundle f n)) && loopsOk f &&
    tilesOk f && windowsOk f

-- ## Prices (R73, R74)

/-- Fixed part and per-granule price of one component of an entry, none where the price of `g` granules overflows
64 bits (R73). -/
def entryComp (f : List Byte) (e c : Nat) (a1 a2 a3 g : Nat) : Option (Nat × Nat) :=
  let fixed := imgCoef f e c 0 + imgCoef f e c 2 * a1 + imgCoef f e c 3 * a2 + imgCoef f e c 4 * a3
  let per := imgCoef f e c 1
  if 2 ^ 64 ≤ fixed + per * g then none else some (fixed, per)

end Sys2Proof.Machine
end

