-- ==== Sys2Proof/Machine/Codes.lean ====
section
/-! DEFINITION. The check codes: RS(36,32) of the bursts (R227), CRC-64 of the flits (Table 10-3), CRC-32C of Weir
packets and journal blocks (R287, Table 12-2), and SECDED of the hopper (R189). -/

namespace Sys2Proof.Machine

/-- Multiplication by α in GF(2^8) with x^8 + x^4 + x^3 + x^2 + 1. -/
def gfX (a : Nat) : Nat := if a ≥ 128 then (2 * a) ^^^ 0x11D else 2 * a

/-- Product in GF(2^8), by the bits of `b` from bit `k` down. -/
def gfMulAux (a b : Nat) : Nat → Nat → Nat
  | 0, r => r
  | k + 1, r => let r := gfX r; gfMulAux a b k (if b.testBit k then r ^^^ a else r)

/-- Product in GF(2^8). -/
def gfMul (a b : Nat) : Nat := gfMulAux a b 8 0

/-- α^k. -/
def gfPow : Nat → Nat
  | 0 => 1
  | k + 1 => gfX (gfPow k)

/-- The inverse in GF(2^8): a^254. -/
def gfInv (a : Nat) : Nat :=
  let a2 := gfMul a a
  let a4 := gfMul a2 a2
  let a8 := gfMul a4 a4
  let a16 := gfMul a8 a8
  let a32 := gfMul a16 a16
  let a64 := gfMul a32 a32
  let a128 := gfMul a64 a64
  gfMul a2 (gfMul a4 (gfMul a8 (gfMul a16 (gfMul a32 (gfMul a64 a128)))))

/-- The value at `x` of the polynomial whose coefficients are given, the highest power first. -/
def gfEval (x : Nat) (cs : List Nat) : Nat := cs.foldl (fun acc c => gfMul acc x ^^^ c) 0

/-- One step of the division by g(x): the remainder register r3, r2, r1, r0. The generator of R227 is
x^4 + 0x0F x^3 + 0x36 x^2 + 0x78 x + 0x40. -/
def rsStep (r : List Nat) (d : Nat) : List Nat :=
  let f := d ^^^ r.getD 0 0
  [r.getD 1 0 ^^^ gfMul f 0x0F, r.getD 2 0 ^^^ gfMul f 0x36, r.getD 3 0 ^^^ gfMul f 0x78, gfMul f 0x40]

/-- The four stored check bytes of 32 data bytes, offset included (R227). -/
def rsCheck (data : List Byte) : List Byte :=
  let r := (data.map (·.toNat)).foldl rsStep [0, 0, 0, 0]
  List.zipWith (fun x y => BitVec.ofNat 8 (x ^^^ y)) r [0xC3, 0x3C, 0xC3, 0x3C]

/-- The 36-byte code word of 32 data bytes. -/
def rsEncode (data : List Byte) : List Byte := data ++ rsCheck data

/-- What the decoder finds (Table 9-2): nothing, a correction of 1 or 2 bytes with the difference it removes, or an
uncorrectable word. -/
inductive RsOut where
  | good
  | corr (n : Nat) (fix : BitVec 288)
  | bad
deriving DecidableEq, Repr

/-- The difference with value `y` in code byte `i`. -/
def rsByte (i y : Nat) : BitVec 288 := BitVec.ofNat 288 (y <<< (8 * i))

/-- The decoder of R229 on a stored word's difference from a code word; the syndromes of a word are those of its
difference. Code byte i is the coefficient of x^(35 − i). -/
def rsDecode (diff : BitVec 288) : RsOut :=
  let cs := (List.range 36).map (fun i => fld diff.toNat (8 * i) 8)
  let s0 := gfEval 1 cs
  let s1 := gfEval 2 cs
  let s2 := gfEval 4 cs
  let s3 := gfEval 8 cs
  if s0 = 0 && s1 = 0 && s2 = 0 && s3 = 0 then .good else
  let det := gfMul s0 s2 ^^^ gfMul s1 s1
  let pos (x : Nat) : Option Nat := (List.range 36).find? (fun i => gfPow (35 - i) = x)
  if det = 0 then
    if s0 = 0 then .bad else
    let x := gfMul s1 (gfInv s0)
    match pos x with
    | some i => if gfMul s1 x = s2 && gfMul s2 x = s3 then .corr 1 (rsByte i s0) else .bad
    | none => .bad
  else
    let inv := gfInv det
    let c1 := gfMul (gfMul s0 s3 ^^^ gfMul s1 s2) inv
    let c2 := gfMul (gfMul s1 s3 ^^^ gfMul s2 s2) inv
    let roots := (List.range 36).filter (fun i =>
      let x := gfPow (35 - i)
      (gfMul x x ^^^ gfMul c1 x ^^^ c2) = 0)
    match roots with
    | [i, j] =>
      let x1 := gfPow (35 - i)
      let x2 := gfPow (35 - j)
      let y1 := gfMul (gfMul s0 x2 ^^^ s1) (gfInv (x1 ^^^ x2))
      let y2 := s0 ^^^ y1
      if y1 = 0 || y2 = 0 then .bad else .corr 2 (rsByte i y1 ||| rsByte j y2)
    | _ => .bad

/-- One byte of the CRC-64 of Table 10-3, the highest bit first. -/
def crc64Bits (c : Nat) : Nat → Nat
  | 0 => c
  | k + 1 =>
    if c ≥ 2 ^ 63 then crc64Bits (((2 * c) % 2 ^ 64) ^^^ 0x42F0E1EBA9EA3693) k else crc64Bits (2 * c) k

/-- CRC-64 (ECMA-182), initial value all ones, result inverted (Table 10-3). -/
def crc64 (bs : List Byte) : W64 :=
  ~~~ BitVec.ofNat 64 (bs.foldl (fun c b => crc64Bits (c ^^^ (b.toNat * 2 ^ 56)) 8) (2 ^ 64 - 1))

/-- The bits of a byte in reverse. -/
def crc32cBits (c : Nat) : Nat → Nat
  | 0 => c
  | k + 1 => if c % 2 = 1 then crc32cBits ((c / 2) ^^^ 0x82F63B78) k else crc32cBits (c / 2) k

/-- CRC-32C, polynomial 0x1EDC6F41, initial value all ones, result inverted (R287, Table 12-2), bits taken in the
order of the Castagnoli CRC. -/
def crc32c (bs : List Byte) : W32 :=
  ~~~ BitVec.ofNat 32 (bs.foldl (fun c b => crc32cBits (c ^^^ b.toNat) 8) (2 ^ 32 - 1))

/-- Number of ones. -/
def popCount (n : Nat) (bits : Nat) : Nat := ((List.range bits).filter (fun i => n.testBit i)).length

/-- The columns of R189: the 56 values of weight 3, then the first 16 of weight 5, in ascending order. -/
def secdedCols : List Nat :=
  (List.range 256).filter (fun v => popCount v 8 = 3) ++
    ((List.range 256).filter (fun v => popCount v 8 = 5)).take 16

/-- The eight check bits of a 72-bit word (R189). -/
def secdedCheck (w : BitVec 72) : Byte :=
  BitVec.ofNat 8 (((List.range 72).zip secdedCols).foldl (fun acc p => if w.getLsbD p.1 then acc ^^^ p.2 else acc) 0)

end Sys2Proof.Machine
end

