-- ==== Sys2Proof/Machine/LinkPort.lean ====
section
/-! DEFINITION. The device's side of the Afdun link: widths, transactions and flits that it sends, credits, and the
reads of work-ring lines through the link cache (R252, R255, R258 to R266, R272). -/

namespace Sys2Proof.Machine

/-- Lanes that carry flits at a width code (Table 10-1). -/
def widthLanes (w : BitVec 2) : Nat := if w = 3 then 8 else if w = 0 then 0 else 4

/-- Active lanes, device to host: H0 and H1 transmit. -/
def Link.txLanes (l : Link) : Nat := widthLanes l.width[0] + widthLanes l.width[2]
/-- Active lanes, host to device. -/
def Link.rxLanes (l : Link) : Nat := widthLanes l.width[1] + widthLanes l.width[3]
/-- UP: both directions have at least 4 lanes (Table 10-14). -/
def Link.up (l : Link) : Bool := decide (4 ≤ l.txLanes) && decide (4 ≤ l.rxLanes)

-- ## Transactions (Table 10-4)

/-- A header slot. -/
def txHeader (opc len : Nat) (tag : BitVec 12) (be : Nat) (addr : Nat) : BitVec 128 :=
  BitVec.ofNat 128 (opc + len * 2 ^ 8 + tag.toNat * 2 ^ 16 + be % 2 ^ 32 * 2 ^ 32 + addr % 2 ^ 64 * 2 ^ 64)

/-- OPC of a header slot. -/
def slotOpc (h : BitVec 128) : Nat := fld h.toNat 0 8
/-- LEN of a header slot. -/
def slotLen (h : BitVec 128) : Nat := fld h.toNat 8 8

/-- The bytes of slots. -/
def slotBytes (xs : List (BitVec 128)) : List Byte := (xs.map (fun x => bytesLE 16 x.toNat)).flatten
/-- Bytes as slots of 16, the last one filled with zeros. -/
def toSlots (bs : List Byte) : List (BitVec 128) := (chunks 16 bs).map (fun c => BitVec.ofNat 128 (natLE c))

-- ## Flits (Table 10-3)

/-- The first 248 bytes of a flit: what its CRC covers. -/
def flitCovered (f : Flit) : List Byte :=
  padTo 240 (slotBytes f.slots) ++ bytesLE 2 f.fseqW.toNat ++ bytesLE 2 f.ackW.toNat ++
    [f.crReq, f.crSnp, f.crPool, f.rsv]

/-- A flit with its CRC. -/
def flitSeal (f : Flit) : Flit := { f with crc := crc64 (flitCovered f) }

/-- ACKSEQ with its valid bit, and NAK where asked. -/
def Link.ackWord (l : Link) (nak : Bool) : W16 :=
  BitVec.ofNat 16 ((l.rxNext - 1).toNat + 2 ^ 12 + b2n nak * 2 ^ 13)

/-- The mark of snoop credits among the credits to return; the other numbers are pools of REQ. [DEDUCED, unsafe: log 69] -/
def snpPool : Byte := 0xFF

/-- Sends a flit: it carries the acknowledgement and the oldest credit to return (R259, R261). -/
def Link.emit (l : Link) (ftype : Nat) (fseq : BitVec 12) (slots : List (BitVec 128)) (nak : Bool) : Link :=
  let c := l.credits.headD (0, 0)
  let f : Flit :=
    { slots := slots, fseqW := BitVec.ofNat 16 (fseq.toNat + ftype * 2 ^ 12), ackW := l.ackWord nak,
      crReq := if c.1 = snpPool then 0 else c.2, crSnp := if c.1 = snpPool then c.2 else 0
      crPool := if c.1 = snpPool then 0 else c.1, rsv := 0, crc := 0 }
  { l with credits := l.credits.drop 1, out := l.out ++ [flitSeal f] }

/-- An idle flit (R259). [DEDUCED, unsafe: log 76] -/
def Link.idle (l : Link) (nak : Bool) : Link := l.emit 1 0 [] nak

/-- Sends slots in data flits of 15 and keeps them in the replay buffer. -/
def Link.sendSlots (l : Link) (xs : List (BitVec 128)) : Link :=
  (chunks 15 xs).foldl (fun l c =>
    let c := c ++ List.replicate (15 - c.length) 0
    ({ l with txNext := l.txNext + 1, unacked := l.unacked ++ [(l.txNext, c)] } : Link).emit 0 l.txNext c false) l

/-- The transaction may leave now: lanes, room in the replay buffer, and credits of its channel (R259, R261).
[DESIGN CHOICE, unsafe: log 68] -/
def Link.maySend (l : Link) (tx : List (BitVec 128)) : Bool :=
  let opc := slotOpc (tx.headD 0)
  l.up && decide (l.unacked.length + ceilDiv tx.length 15 ≤ 1024) &&
    (if opc = 0x20 then decide (tx.length ≤ l.snpCr)
     else if opc < 0x20 then decide (tx.length ≤ l.reqCr) else true)

/-- Sends a transaction that may leave, drawing on its channel's credits. -/
def Link.sendTx (l : Link) (tx : List (BitVec 128)) : Link :=
  let opc := slotOpc (tx.headD 0)
  let l := if opc = 0x20 then { l with snpCr := l.snpCr - tx.length }
           else if opc < 0x20 then { l with reqCr := l.reqCr - tx.length } else l
  l.sendSlots tx

/-- Sends what may leave of the waiting transactions: no request passes a request, no snoop a snoop (R261, R266). -/
def Link.pump (l : Link) : Link :=
  let out := l.txq.foldl (fun (acc : Link × List (List (BitVec 128)) × Bool × Bool) tx =>
    let opc := slotOpc (tx.headD 0)
    let held := if opc = 0x20 then acc.2.2.2 else if opc < 0x20 then acc.2.2.1 else false
    if !held && acc.1.maySend tx then (acc.1.sendTx tx, acc.2.1, acc.2.2.1, acc.2.2.2)
    else (acc.1, acc.2.1 ++ [tx], acc.2.2.1 || decide (opc < 0x20), acc.2.2.2 || opc = 0x20))
    ({ l with txq := [] }, [], false, false)
  { out.1 with txq := out.2.1 }

/-- Queues a transaction and sends what may leave. -/
def State.issue (s : State) (tx : List (BitVec 128)) : State :=
  s.modLink (fun l => ({ l with txq := l.txq ++ [tx] } : Link).pump)

/-- Takes a tag for a request; none while 4,096 are outstanding (R260). -/
def State.openReq (s : State) (q : LinkReq) : Option (BitVec 12 × State) :=
  let tag? := (List.range 4096).find? (fun i =>
    (sget? s.link.reqs ((s.link.nextTag.toNat + i) % 4096)).isNone)
  tag?.map (fun i =>
    let tag := s.link.nextTag + BitVec.ofNat 12 i
    (tag, s.modLink (fun l => { l with reqs := sset l.reqs tag.toNat q, nextTag := tag + 1 })))

/-- Answers a host request without data (CPL). -/
def State.sendCpl (s : State) (tag : BitVec 12) (status : Nat) : State := s.issue [txHeader 0x30 0 tag status 0]

/-- Answers a host request with data (CPL_DATA). -/
def State.sendCplData (s : State) (tag : BitVec 12) (data : List (BitVec 128)) : State :=
  s.issue (txHeader 0x31 data.length tag 0 0 :: data)

/-- Posts a write of whole slots to host memory (WR_NC). [DEDUCED, unsafe: log 80] -/
def State.postWrite (s : State) (addr : Nat) (data : List (BitVec 128)) : State :=
  s.issue (txHeader 0x13 data.length 0 0xFFFFFFFF addr :: data)

/-- Cuts bytes at the 256 B boundaries of host memory (R472); `fuel` bounds the pieces. -/
def hostPieces : Nat → Nat → List Byte → List (Nat × List Byte)
  | 0, _, _ => []
  | _, _, [] => []
  | fuel + 1, addr, bs =>
    let n := 256 - addr % 256
    (addr, bs.take n) :: hostPieces fuel (addr + n) (bs.drop n)

/-- BE of a write of `len` bytes from byte `at'` of its first slot (Table 10-4). [DEDUCED, unsafe: log 80] -/
def writeBe (at' len : Nat) : Nat :=
  let e := at' + len
  let first := 2 ^ min 16 e - 2 ^ at'
  first + (if e ≤ 16 then first else 2 ^ ((e - 1) % 16 + 1) - 1) * 2 ^ 16

/-- Writes bytes within 256 B of host memory, in whole slots with the byte enables of the first and the last. -/
def State.postBytes (s : State) (addr : Nat) (bs : List Byte) : State :=
  let data := toSlots (List.replicate (addr % 16) 0 ++ bs)
  s.issue (txHeader 0x13 data.length 0 (writeBe (addr % 16) bs.length) (addr / 16 * 16) :: data)

/-- Writes bytes to host memory in transactions of at most 256 B (R472). -/
def State.hostWrite (s : State) (addr : Nat) (bs : List Byte) : State :=
  forEach (hostPieces (bs.length + 1) addr bs) s (fun s p => s.postBytes p.1 p.2)

/-- Before the device changes a line of a doorbell page that the host may hold, it invalidates the host's copy
(R263). `line` is 0 for the producer line and 1 for the status line. -/
def State.snoopPage (s : State) (page : Byte) (line : Nat) : State :=
  let k := page.toNat + (if line = 0 then 256 else 0)
  if !s.link.hostLines.contains k then s else
  let s := s.modLink (fun l => { l with hostLines := l.hostLines.filter (· ≠ k) })
  match s.openReq (.snoop page) with
  | none => s
  | some (tag, s) => s.issue [txHeader 0x20 0 tag 0 (page.toNat * 4096 + line * 64)]

/-- Applies a change of a work ring and invalidates the host's copy of its status line. -/
def State.ringStatus (s : State) (r : RaceId) (w : Fin 64) (f : WorkRing → WorkRing) : State :=
  (s.snoopPage s.races[r].wrings[w].page 1).modWring r w f

-- ## Lines of work rings

/-- Slots of a work ring (R271). -/
def WorkRing.slots (w : WorkRing) : Nat := 2 ^ w.log2n.toNat
/-- Sequence `a` comes before `b`: differences are modulo 2^48 and read as 0 to 2^47 - 1 (R270). -/
def seqBefore (a b : W48) : Bool := a ≠ b && decide ((b - a).toNat < 2 ^ 47)
/-- Host address of the slot of a sequence. -/
def WorkRing.slotAddr (w : WorkRing) (seq : W48) : W64 :=
  w.base + BitVec.ofNat 64 (64 * (seq.toNat % w.slots))

/-- Puts a line into a tenant's link-cache partition as the most recently used of 8,192 (R264). [DEDUCED, unsafe: log 77] -/
def cacheFill (c : List (W64 × Line)) (a : W64) (x : Line) : List (W64 × Line) :=
  ((a, x) :: c.filter (fun p => p.1 ≠ a)).take 8192

/-- The line of a ring's sequence: from the cache, or from a fill that serves one fetch; otherwise it is read with
RD_SHARED and is not there yet (R264, R272). -/
def State.fetchLine (s : State) (t : TenantId) (w : Fin 64) (seq : W48) : State × Option Line :=
  let a := (s.wring t w).slotAddr seq
  match (s.link.cache[t]).find? (fun p => p.1 = a) with
  | some (_, x) => (s.modLink (fun l => { l with cache := l.cache.set t (cacheFill l.cache[t] a x) }), some x)
  | none =>
    match (s.link.once[t]).find? (fun p => p.1 = a) with
    | some (_, x) =>
      (s.modLink (fun l => { l with once := l.once.set t (l.once[t].filter (fun p => p.1 ≠ a)) }), some x)
    | none =>
      if !s.link.up || s.link.reqs.any (fun q => match q.2 with
          | .ringRead t' _ a' _ => t' = t && a' = a
          | _ => false) then (s, none)
      else match s.openReq (.ringRead t w a true) with
        | none => (s, none)
        | some (tag, s) => (s.issue [txHeader 0x10 0 tag 0xFFFFFFFF a.toNat], none)

/-- The staging entry that a descriptor holds is free again (R276). [DEDUCED, unsafe: log 77] -/
def State.freeStaging (s : State) (t : TenantId) (c : BitVec 4) : State :=
  s.modCring (s.lowest t) ⟨c.toNat, by omega⟩ (fun x => { x with held := x.held - 1 })

end Sys2Proof.Machine
end

