-- ==== Sys2Proof/Machine/Dram.lean ====
section
/-! DEFINITION. The memory tiers: the address map, the interleave of tier A and the stripes of tier B, the layout of
a round's structures, the decoder's outcomes and what the device does with them, the remap tables and counts, channel
loss, and reads and writes of byte ranges (chapters 8 and 9). -/

namespace Sys2Proof.Machine

-- ## The address map (R207, Table 8-3)

/-- 2^30. -/
def gib : Nat := 2 ^ 30
/-- 2^20. -/
def mib : Nat := 2 ^ 20
/-- Race offset of the fallback region in tier B (Table 8-7). -/
def fallbackOff : Nat := 193 * gib
/-- Size of the tenant's tier B of a race; the device's part begins there. -/
def tenantTb : Nat := 192 * gib

/-- A range of one race's tier: race, tier B or tier A, race offset, length. -/
structure Span where
  race  : RaceId
  tierB : Bool
  off   : Nat
  len   : Nat
deriving DecidableEq, Repr

/-- The race, tier and race offset of a device memory address; holes and the device's tier B have none. -/
def devAddr (a : Nat) : Option (RaceId × Bool × Nat) :=
  if a < 8 * 64 * gib then some (Fin.ofNat 8 (a / (64 * gib)), false, a % (64 * gib))
  else if a < 2 ^ 44 then none
  else
    let b := a - 2 ^ 44
    if b < 8 * 2 ^ 38 then
      if b % 2 ^ 38 < tenantTb then some (Fin.ofNat 8 (b / 2 ^ 38), true, b % 2 ^ 38) else none
    else none

/-- The pieces of a range of device addresses, none where any byte of it has no memory. -/
def devSpans : Nat → Nat → Nat → Option (List Span)
  | _, _, 0 => some []
  | 0, _, _ => none
  | fuel + 1, a, len =>
    match devAddr a with
    | none => none
    | some (r, b, off) =>
      let room := (if b then tenantTb else 64 * gib) - off
      let n := min len room
      (devSpans fuel (a + n) (len - n)).map (fun rest => { race := r, tierB := b, off := off, len := n } :: rest)

/-- The pieces of a device range, at most one for each race and tier. -/
def spansOf (a len : Nat) : Option (List Span) := devSpans 16 a len

-- ## The interleave and the stripes (R208 to R211)

/-- The channel index and the burst address of the code word at a tier A race offset (Table 8-4). -/
def taLoc (o : Nat) : Fin 46 × Nat :=
  (Fin.ofNat 46 ((fld o 8 5) ^^^ (fld o 13 5)), (o / 8192 * 256 + o % 256) / 32)

/-- The channel-local address of a byte at a tier A race offset (R208). -/
def taLocal (o : Nat) : Nat := o / 8192 * 256 + o % 256

/-- The race offset whose channel-local address in tier A channel `c` is `a`: the inverse of R208. -/
def taOffset (c a : Nat) : Nat :=
  let u := a / 256
  u * 8192 + ((c ^^^ (u % 32)) * 256) + a % 256

/-- Stripe of a race row (R210). -/
def tbStripe (row : Nat) : Nat := row % 2
/-- Channel index of data block `k` of a race row. -/
def tbData (row k : Nat) : Fin 46 := Fin.ofNat 46 (32 + 7 * (row % 2) + (k + row / 2 % 7) % 7)
/-- Channel index of the parity block of a race row. -/
def tbPar (row : Nat) : Fin 46 := Fin.ofNat 46 (32 + 7 * (1 - row % 2) + row / 2 % 7)
/-- Slot of the data blocks of a race row. -/
def tbSlot (row : Nat) : Nat := 8 * (row / 2 / 7) + row / 2 % 7
/-- Slot of the parity block of a race row. -/
def tbParSlot (row : Nat) : Nat := 8 * (row / 2 / 7) + 7

/-- The channel and burst of block `k` of a row at 32 B column `c`; block 7 is the parity block. -/
def tbBlock (row k c : Nat) : Fin 46 × Nat :=
  if k < 7 then (tbData row k, tbSlot row * 8 + c) else (tbPar row, tbParSlot row * 8 + c)

/-- The channel index and burst address of the code word at a tier B race offset (R210). -/
def tbLoc (o : Nat) : Fin 46 × Nat := tbBlock (o / 1792) (o % 1792 / 256) (o % 256 / 32)

/-- The channel-local address of a byte at a tier B race offset (R210). -/
def tbLocal (o : Nat) : Nat := tbSlot (o / 1792) * 256 + o % 1792 % 256

-- ## A round's structures (R130, R131, Table 5-1)

/-- Bytes of a ring word. -/
def Round.wbytes (r : Round) : Nat := if r.ring64 then 8 else 4
/-- Bytes of the vector. -/
def Round.vbytes (r : Round) : Nat := r.vecLen.toNat * r.wbytes
/-- S, the number of segments. -/
def Round.nseg (r : Round) : Nat := ceilDiv r.vbytes mib
/-- Bytes of segment `s`. -/
def Round.segLen (r : Round) (s : Nat) : Nat := min mib (r.vbytes - s * mib)
/-- Segments of the tenant's race of index `i` among `n`. -/
def Round.raceSegs (r : Round) (n i : Nat) : Nat := ceilDiv (r.nseg - i) n

/-- The tier A bytes of a round in the race of index `i` of `n`. -/
def Round.taRange (r : Round) (n i : Nat) : Nat × Nat := (r.taBase.toNat * mib, r.raceSegs n i * mib)

/-- Offsets in MiB from TB_BASE of the epoch banks, landing slots, chain-in buffer, participant table, slot headers,
seed log and segment table, and the whole size, in the race of index `i` of `n`. -/
def Round.tbOffsets (r : Round) (n i : Nat) : List Nat :=
  let g := r.raceSegs n i
  let low (x : Nat) : Nat := if i = 0 then ceilDiv x mib else 0
  let sizes := [2 * g, r.maxUp.toNat * g, if r.chainIn then g else 0, low (8 * r.partLimit.toNat),
                low (4096 * r.maxUp.toNat), low (64 * r.seedLog.toNat), low (32 * r.nseg)]
  (sizes.foldl (fun (acc : List Nat × Nat) x => (acc.1 ++ [acc.2], acc.2 + x)) ([], 0)).1 ++ [sizes.sum]

/-- The tier B bytes of a round in the race of index `i` of `n`. -/
def Round.tbRange (r : Round) (n i : Nat) : Nat × Nat :=
  (r.tbBase.toNat * mib, ((r.tbOffsets n i).getD 7 0) * mib)

/-- Race offset of a segment's accumulator. -/
def Round.accOff (r : Round) (n s : Nat) : Nat := (r.taBase.toNat + s / n) * mib
/-- Race offset of a segment's epoch bank. -/
def Round.bankOff (r : Round) (n s : Nat) (bank : Bool) : Nat :=
  (r.tbBase.toNat + (b2n bank) * r.raceSegs n (s % n) + s / n) * mib
/-- Race offset of a segment's chunk in a landing slot. -/
def Round.landOff (r : Round) (n s slot : Nat) : Nat :=
  (r.tbBase.toNat + (r.tbOffsets n (s % n)).getD 1 0 + slot * r.raceSegs n (s % n) + s / n) * mib
/-- Race offset of a segment of the chain-in buffer. -/
def Round.chainOff (r : Round) (n s : Nat) : Nat :=
  (r.tbBase.toNat + (r.tbOffsets n (s % n)).getD 2 0 + s / n) * mib

/-- The race of a segment (R130). -/
def State.segRace (s : State) (r : Round) (seg : Nat) : RaceId :=
  let rs := s.racesOf r.tenant
  rs.getD (seg % rs.length) 0

/-- Whether two ranges overlap. -/
def overlaps (a n b m : Nat) : Bool := decide (0 < n) && decide (0 < m) && decide (a < b + m) && decide (b < a + n)

/-- A span overlaps a structure of the round (R131). -/
def State.roundHit (s : State) (r : Round) (x : Span) : Bool :=
  let rs := s.racesOf r.tenant
  (indexed rs).any (fun p => p.2 = x.race &&
    (let g := if x.tierB then r.tbRange rs.length p.1 else r.taRange rs.length p.1
     overlaps x.off x.len g.1 g.2))

/-- A span overlaps a structure of a round that is not Closed. -/
def State.sealed (s : State) (x : Span) : Bool :=
  (List.finRange 64).any (fun i => match s.rounds[i] with
    | some r => s.roundHit r x
    | none => false)

/-- The tenant may reach every byte of the device range: its own races, no hole, no sealed structure (R21, R33). -/
def State.reach (s : State) (t : TenantId) (a len : Nat) : Option (List Span) :=
  match spansOf a len with
  | none => none
  | some xs => if xs.all (fun x => s.owner x.race = some t && !s.sealed x) then some xs else none

-- ## Models (Table 6-7) and the regions of tier A (Table 8-5)

/-- A little-endian field of a model's descriptor. -/
def Model.f (m : Model) (off len : Nat) : Nat := leAt m.fields off len
/-- KVB64. -/
def Model.kvb (m : Model) : Nat := m.f 0x16 2
/-- Bytes of a KV frame in each race (R162). -/
def Model.frameBytes (m : Model) : Nat := 64 * 64 * m.kvb
/-- Race offset of the staging area in tier A. -/
def Model.stagingOff (m : Model) : Nat := (m.f 0x2C 4 + 1) * mib
/-- Bytes of the staging area. -/
def Model.stagingBytes (m : Model) : Nat := 256 * 64 * m.kvb
/-- Race offset of a hot frame. -/
def Model.hotOff (m : Model) (frame : Nat) : Nat :=
  m.stagingOff + ceilDiv m.stagingBytes mib * mib + frame * m.frameBytes
/-- Race offset of a frame in tier B. -/
def Model.frameOff (m : Model) (frame : Nat) : Nat := m.f 0x24 4 * mib + frame * m.frameBytes

/-- What lies at a tier A race offset (Table 9-3). -/
inductive Region where
  /-- model weights, and the tier B race offset of the master copy -/
  | weights (copy : Nat)
  /-- an accumulator, and the tier B race offset of the newest epoch bank's bytes -/
  | accum (copy : Nat)
  | hot (model frame : Nat)
  | staging (model : Nat)
  | other
deriving DecidableEq, Repr

/-- A tier A region of a model. -/
def modelRegion (slot : Nat) (m : Model) (o : Nat) : Region :=
  let wa := m.f 0x18 4 * mib
  if wa ≤ o && o < wa + m.f 0x20 4 * mib then .weights (m.f 0x1C 4 * mib + (o - wa))
  else if m.stagingOff ≤ o && o < m.stagingOff + m.stagingBytes then .staging slot
  else if m.hotOff 0 ≤ o && o < m.hotOff (m.f 0x30 4) && 0 < m.frameBytes then
    .hot slot ((o - m.hotOff 0) / m.frameBytes)
  else .other

/-- The region of a tier A race offset. -/
def State.region (s : State) (r : RaceId) (o : Nat) : Region :=
  match s.owner r with
  | none => .other
  | some t =>
    let fromModels := s.tenants[t].models.map (fun p => modelRegion p.1 p.2 o)
    let rs := s.racesOf t
    let i := (rs.findIdx? (· = r)).getD 0
    let fromRounds := (List.finRange 64).map (fun k => match s.rounds[k] with
      | some x =>
        let g := x.taRange rs.length i
        if x.tenant = t && g.1 ≤ o && o < g.1 + g.2 then
          let seg := (o - g.1) / mib * rs.length + i
          Region.accum (x.bankOff rs.length seg ((sget x.segs seg {}).bank) + (o - g.1) % mib)
        else .other
      | none => .other)
    ((fromModels ++ fromRounds).find? (· ≠ .other)).getD .other

-- ## Decode sessions that a fault rolls back (R182)

/-- Restarts every pass of the tenant's sessions that `p` selects from its promotion items. -/
def State.rollPasses (s : State) (t : TenantId) (p : Session → Bool) : State :=
  { s with ctxs := s.ctxs.map (fun c => match c.2 with
      | .session x => if x.tenant = t && p x then (c.1, .session { x with pass := none }) else c
      | .part _ => c) }

/-- Frees every hot frame of a race (R177). -/
def State.freeHot (s : State) (t : TenantId) (r : RaceId) : State :=
  s.modTenant t (fun x => { x with models := x.models.map (fun m => (m.1, { m.2 with hot := m.2.hot.set r [] })) })

-- ## Items that use a tier of a race (R213)

/-- Component of Table 2-3: tier A bytes of a race. -/
def cTa (r : RaceId) : Nat := 10 + r.val
/-- Component: tier B read bytes of a race. -/
def cTbR (r : RaceId) : Nat := 20 + r.val
/-- Component: tier B write bytes of a race. -/
def cTbW (r : RaceId) : Nat := 30 + r.val

/-- The item binds a window in that tier of that race, or its work is priced there. -/
def Item.uses (i : Item) (r : RaceId) (tierB : Bool) : Bool :=
  i.wins.any (fun w => (w.kind = 1 || w.kind = 2) &&
    (match spansOf w.base.toNat w.length.toNat with
     | some xs => xs.any (fun x => x.race = r && x.tierB = tierB)
     | none => false)) ||
  (if tierB then decide (0 < sget i.price (cTbR r) 0) || decide (0 < sget i.price (cTbW r) 0)
   else decide (0 < sget i.price (cTa r) 0))

-- ## Channels

/-- The channel is lost. -/
def RaceMem.lost (m : RaceMem) (ch : Fin 46) : Bool :=
  if ch.val < 32 then m.taLost.getLsbD ch.val else m.tbLost.getLsbD (ch.val - 32)

/-- A stripe of the race has a lost block: with any tier B channel lost, rows of both stripes have one (R214). -/
def RaceMem.degraded (m : RaceMem) : Bool := m.tbLost != 0

/-- The stored word's difference from its data's code word. -/
def RaceMem.err (m : RaceMem) (ch : Fin 46) (burst : Nat) : BitVec 288 := sget m.errs (ch.val * 2 ^ 29 + burst) 0

/-- Records the difference of a stored word; no entry stands for a valid word. -/
def RaceMem.setErr (m : RaceMem) (ch : Fin 46) (burst : Nat) (d : BitVec 288) : RaceMem :=
  let k := ch.val * 2 ^ 29 + burst
  { m with errs := if d = 0 then sdel m.errs k else sset m.errs k d }

/-- The 32 data bytes that a burst was last written with. -/
def State.stored (s : State) (r : RaceId) (ch : Fin 46) (burst : Nat) : List Byte :=
  memBytes s.mem (burstAddr r ch burst) 32

/-- Stores a code word: the armed flip applies to the first write of its burst (R248). See R226. -/
def State.storeWord (s : State) (r : RaceId) (ch : Fin 46) (burst : Nat) (bs : List Byte) : State :=
  if s.races[r].mem.lost ch then s else
  let s := { s with mem := memPuts s.mem (burstAddr r ch burst) bs }
  let m := s.races[r].mem
  if m.arm && m.flipCh.toNat = ch.val && m.flipBurst.toNat = burst then
    s.modMem r (fun m => { (m.setErr ch burst m.flipMask) with arm := false, fired := true })
  else s.modMem r (fun m => m.setErr ch burst 0)

/-- Declares a channel lost (R213, R215, R220, R238): it is never accessed again, the items that use its tier of
its race are cut, passes roll back, and the tenant hears of it. -/
def State.loseChannel (s : State) (r : RaceId) (ch : Fin 46) (failing : Bool) : State :=
  let m := s.races[r].mem
  if m.lost ch then s else
  let tierB := decide (32 ≤ ch.val)
  let second := if tierB then m.tbLost != 0 else m.taLost != 0
  -- data of the tenant outside the regions of Table 8-5, lost with a tier A channel (R219)
  let unreg := !tierB && s.mem.any (fun c =>
    decide (burstAddr r ch 0 ≤ c.1) && decide (c.1 < burstAddr r ch 0 + 2 ^ 31) &&
      s.region r (taOffset ch.val (c.1 - burstAddr r ch 0)) = .other)
  let s := s.modMem r (fun m => if tierB
    then { m with tbLost := m.tbLost ||| (1 <<< (ch.val - 32)), failing := m.failing || failing,
                  tbFailed := m.tbFailed || second, rebuilding := if second then none else m.rebuilding }
    else { m with taLost := m.taLost ||| (1 <<< ch.val), failing := m.failing || failing,
                  unregLost := m.unregLost || unreg })
  let s := s.raiseRace r { cls := if tierB then 5 else 4, flags := if unreg then 2 else 0,
                           part := if tierB then 3 else 2,
                           index := BitVec.ofNat 16 (if tierB then ch.val - 32 else ch.val) }
  let s := match s.owner r with
    | none => s
    | some t =>
      -- a replay after the loss counts as a first attempt (R214, R220)
      let ids := (s.tick.items.filter (fun i => i.state = .running && i.tenant = t && i.uses r tierB)).map (·.id)
      let s := s.cutWhere (fun i => ids.contains i.id)
      let s := forEach ids s (fun s id => s.firstAttempt id)
      if tierB then s else (s.freeHot t r).rollPasses t (fun _ => true)
  if second then s.raceOut r else s

/-- Counts an uncorrectable read; four distinct addresses of a channel within a tick declare it failing (R238).
[DEDUCED, unsafe: log 67] -/
def State.countUncorr (s : State) (r : RaceId) (ch : Fin 46) (burst : Nat) : State :=
  let b := BitVec.ofNat 29 burst
  let s := s.modChan r ch (fun c => { c with uncorr := satInc c.uncorr,
                                             bad := if c.bad.contains b then c.bad else b :: c.bad })
  let s := s.modMem r (fun m => { m with uncorr := true })
  if 4 ≤ (s.races[r].mem.chans[ch]).bad.length then s.loseChannel r ch true else s

/-- Puts a correct code word in the word's remap entry, allocating the lowest free one (R236); a ninth need declares
the channel failing (R238). See R235. -/
def State.remapWord (s : State) (r : RaceId) (ch : Fin 46) (burst : Nat) (bs : List Byte) : State :=
  let m := s.races[r].mem
  if m.lost ch then s else
  let b := BitVec.ofNat 29 burst
  let put (s : State) : State :=
    ({ s with mem := memPuts s.mem (burstAddr r ch burst) bs }).modMem r (fun m => m.setErr ch burst 0)
  if (m.chans[ch]).remap.contains b then put s
  else if (m.chans[ch]).remap.length < 8 then
    put ((s.modChan r ch (fun c => { c with remap := c.remap ++ [b] })).modMem r
      (fun m => { m with remapAlloc := true }))
  else s.loseChannel r ch true

/-- Capacity of the buckets: 0 is treated as 1 (Table 9-7). -/
def RaceMem.cap (m : RaceMem) : Nat := max 1 m.bucketCap.toNat

/-- Counts a corrected word, and feeds the bucket of the channel unless a scrub found it (R239, R240). -/
def State.countCorr (s : State) (r : RaceId) (ch : Fin 46) (burst n : Nat) (scrub : Bool) : State :=
  let s := s.modChan r ch (fun c => { c with corr := satInc c.corr })
  if scrub then s else
  let c := s.races[r].mem.chans[ch]
  let b := BitVec.ofNat 29 burst
  let s := s.modChan r ch (fun c => { c with repeats := (b :: c.repeats.filter (· ≠ b)).take 4 })
  if c.repeats.contains b then s else
  let cap := s.races[r].mem.cap
  if c.level.toNat + n ≤ cap then s.modChan r ch (fun c => { c with level := c.level + BitVec.ofNat 10 n })
  else
    let s := s.modChan r ch (fun c => { c with level := BitVec.ofNat 10 cap, ovf := true })
    let s := s.modMem r (fun m => { m with bucketOvf := true })
    if c.ovf then s else
      s.raiseRace r { cls := 7, part := if ch.val < 32 then 2 else 3,
                      index := BitVec.ofNat 16 (if ch.val < 32 then ch.val else ch.val - 32) }

-- ## Reads

/-- What an access gives: the bytes; or the reader is cut, stopped with MEDIA_ERROR or another status, or its race
is out. -/
inductive Access where
  | ok (bs : List Byte)
  | cut
  | stop
  | out
  | status (st : Byte)
deriving DecidableEq, Repr

/-- Reads one burst of a channel that is not lost: a corrected word is counted and, as R231 and R236 say, left or
remapped. None for an uncorrectable word, which is counted. -/
def State.readBurst (s : State) (r : RaceId) (ch : Fin 46) (burst : Nat) (scrub : Bool) :
    State × Option (List Byte) :=
  if s.races[r].mem.lost ch then (s, none) else
  let d := s.races[r].mem.err ch burst
  let bs := s.stored r ch burst
  if d = 0 then (s, some bs) else
  match rsDecode d with
  | .good => (s, some (xorBytes bs (bytesLE 32 d.toNat)))
  | .corr n fix =>
    let got := xorBytes bs (bytesLE 32 (d ^^^ fix).toNat)
    let s := s.countCorr r ch burst n scrub
    let held := (s.races[r].mem.chans[ch]).remap.contains (BitVec.ofNat 29 burst)
    (if n = 2 || held then s.remapWord r ch burst got else s, some got)
  | .bad => (s.countUncorr r ch burst, none)

/-- Exclusive or of the other seven blocks of a row at one column; none where one of them cannot be read. -/
def State.rebuildWord (s : State) (r : RaceId) (row k c : Nat) (scrub : Bool) : State × Option (List Byte) :=
  ((List.range 8).filter (· ≠ k)).foldl (fun (acc : State × Option (List Byte)) k' =>
    match acc.2 with
    | none => acc
    | some x =>
      let b := tbBlock row k' c
      let got := acc.1.readBurst r b.1 b.2 scrub
      (got.1, got.2.map (xorBytes x))) (s, some (List.replicate 32 0))

/-- Raises the UNCORRECTABLE event of R234. [DEDUCED, unsafe: log 67] -/
def State.uncorrEvent (s : State) (r : RaceId) (ch : Fin 46) (burst : Nat) : State :=
  s.raiseRace r { cls := 6, part := if ch.val < 32 then 2 else 3,
                  index := BitVec.ofNat 16 (if ch.val < 32 then ch.val else ch.val - 32),
                  detail := BitVec.ofNat 64 burst }

/-- An uncorrectable tier B word that parity cannot rebuild (Table 9-3, R217). -/
def State.tbFailedRead (s : State) (r : RaceId) (o : Nat) (ch : Fin 46) (burst : Nat) : State × Access :=
  let s := s.uncorrEvent r ch burst
  if s.races[r].mem.rebuilding.isSome then
    ((s.modMem r (fun m => { m with rebuilding := none, tbFailed := true })).raceOut r, .out)
  else if tenantTb ≤ o then (s.raceOut r, .out) else (s, .stop)

/-- Reads the block `k` of a row at column `c` (R214, R233, R234); `o` is the race offset read for. -/
def State.readBlock (s : State) (r : RaceId) (row k c o : Nat) (scrub : Bool) : State × Access :=
  let b := tbBlock row k c
  if s.races[r].mem.lost b.1 then
    match s.rebuildWord r row k c scrub with
    | (s, some bs) => (s, .ok bs)
    | (s, none) => s.tbFailedRead r o b.1 b.2
  else
    let degraded := s.races[r].mem.degraded
    match s.readBurst r b.1 b.2 scrub with
    | (s, some bs) => (s, .ok bs)
    | (s, none) =>
      if degraded then s.tbFailedRead r o b.1 b.2 else
      match s.rebuildWord r row k c scrub with
      | (s, some bs) => (s.remapWord r b.1 b.2 bs, .ok bs)
      | (s, none) => s.tbFailedRead r o b.1 b.2

/-- Reads the code word at a tier B race offset. -/
def State.readTb (s : State) (r : RaceId) (o : Nat) (scrub : Bool) : State × Access :=
  s.readBlock r (o / 1792) (o % 1792 / 256) (o % 256 / 32) o scrub

/-- Repairs an uncorrectable tier A word from a copy in tier B (Table 9-3). -/
def State.repairFrom (s : State) (r : RaceId) (ch : Fin 46) (burst copy : Nat) (scrub : Bool) : State × Access :=
  match s.readTb r (copy / 32 * 32) scrub with
  | (s, .ok bs) => (s.remapWord r ch burst bs, .cut)
  | (s, _) => (s, .stop)

/-- The device action of Table 9-3 for an uncorrectable tier A word. -/
def State.repairTa (s : State) (r : RaceId) (o : Nat) (ch : Fin 46) (burst : Nat) (scrub : Bool) : State × Access :=
  let s := s.uncorrEvent r ch burst
  match s.owner r, s.region r o with
  | some _, .weights copy => s.repairFrom r ch burst copy scrub
  | some _, .accum copy => s.repairFrom r ch burst copy scrub
  | some t, .hot model frame =>
    let users := (((sget? s.tenants[t].models model).map (fun m => m.hot[r])).getD []).filter (fun f => f.1 = frame)
    let s := s.modTenant t (fun x => { x with models := x.models.map (fun m =>
      if m.1 = model then (m.1, { m.2 with hot := m.2.hot.set r (m.2.hot[r].filter (fun f => f.1 ≠ frame)) }) else m) })
    let owners := users.map (fun f => f.2.1)
    ({ s with ctxs := s.ctxs.map (fun c => match c.2 with
        | .session x => if owners.contains c.1 then (c.1, .session { x with pass := none }) else c
        | .part _ => c) }, .cut)
  | some t, .staging model =>
    ((s.rollPasses t (fun x => x.model.val = model)).remapWord r ch burst (List.replicate 32 0), .cut)
  | _, _ => (s, .stop)

/-- Reads the code word at a tier A race offset, through the fallback where its channel is lost (R218). -/
def State.readTa (s : State) (r : RaceId) (o : Nat) (scrub : Bool) : State × Access :=
  let l := taLoc o
  let m := s.races[r].mem
  if m.lost l.1 then
    if m.fbActive && m.fbChannel.toNat = l.1.val then s.readTb r (fallbackOff + taLocal o) scrub else (s, .cut)
  else
    match s.readBurst r l.1 l.2 scrub with
    | (s, some bs) => (s, .ok bs)
    | (s, none) =>
      -- four bad addresses have lost the channel: it is served as its loss prescribes
      if s.races[r].mem.lost l.1 then (s, .cut) else s.repairTa r o l.1 l.2 scrub

/-- Reads the code word that holds a race offset. -/
def State.readWord (s : State) (r : RaceId) (tierB : Bool) (o : Nat) (scrub : Bool) : State × Access :=
  if tierB then s.readTb r (o / 32 * 32) scrub else s.readTa r (o / 32 * 32) scrub

/-- Reads `n` code words from a race offset, `acc` holding the earlier ones. -/
def State.readWords (r : RaceId) (tierB scrub : Bool) : Nat → Nat → List (List Byte) → State → State × Access
  | 0, _, acc, s => (s, .ok acc.reverse.flatten)
  | n + 1, o, acc, s =>
    match s.readWord r tierB o scrub with
    | (s, .ok bs) => State.readWords r tierB scrub n (o + 32) (bs :: acc) s
    | (s, x) => (s, x)

/-- Reads a byte range of one race's tier. -/
def State.readSpan (s : State) (x : Span) (scrub : Bool) : State × Access :=
  let first := x.off / 32 * 32
  match State.readWords x.race x.tierB scrub (ceilDiv (x.off + x.len - first) 32) first [] s with
  | (s, .ok bs) => (s, .ok ((bs.drop (x.off - first)).take x.len))
  | (s, y) => (s, y)

/-- Reads several ranges in order. -/
def State.readSpans (s : State) (xs : List Span) : State × Access :=
  xs.foldl (fun (acc : State × Access) x => match acc.2 with
    | .ok got => (match acc.1.readSpan x false with
      | (s, .ok bs) => (s, .ok (got ++ bs))
      | (s, y) => (s, y))
    | _ => acc) (s, .ok [])

-- ## Writes

/-- The bytes of a range that fall into the 32 bytes at `o`, over the old ones. -/
def overlayWord (o off : Nat) (bs old : List Byte) : List Byte :=
  (List.range 32).map (fun i =>
    if off ≤ o + i && o + i < off + bs.length then bs.getD (o + i - off) 0 else old.getD i 0)

/-- The word at `o` lies wholly in the range. -/
def coversWord (o off len : Nat) : Bool := decide (off ≤ o) && decide (o + 32 ≤ off + len)

/-- The word at `o` touches the range. -/
def touchesWord (o off len : Nat) : Bool := decide (off < o + 32) && decide (o < off + len)

/-- Writes bytes into one tier B row (R212): the words that the bytes do not cover are read first, then the touched
words and the parity block are written; nothing is written where a read fails (R232). -/
@[irreducible] def State.writeRow (s : State) (r : RaceId) (row off : Nat) (bs : List Byte) : State × Access :=
  let base := row * 1792
  let got := (List.range 56).foldl (fun (acc : State × Access × List (List Byte)) i =>
    match acc.2.1 with
    | .ok _ =>
      let o := base + 32 * i
      if coversWord o off bs.length then (acc.1, .ok [], overlayWord o off bs [] :: acc.2.2) else
      (match acc.1.readTb r o false with
       | (s, .ok old) => (s, .ok [], overlayWord o off bs old :: acc.2.2)
       | (s, y) => (s, y, acc.2.2))
    | _ => acc) (s, .ok [], [])
  match got with
  | (s, .ok _, rev) =>
    let words := rev.reverse
    let s := (indexed words).foldl (fun s p =>
      if touchesWord (base + 32 * p.1) off bs.length then
        (let b := tbBlock row (p.1 / 8) (p.1 % 8); s.storeWord r b.1 b.2 p.2) else s) s
    let s := (List.range 8).foldl (fun s c =>
      let par := (List.range 7).foldl (fun x k => xorBytes x (words.getD (8 * k + c) [])) (List.replicate 32 0)
      let b := tbBlock row 7 c
      s.storeWord r b.1 b.2 par) s
    (s, .ok [])
  | (s, y, _) => (s, y)

/-- Writes bytes at a tier B race offset, row by row; `fuel` bounds the rows. -/
def State.writeTb (r : RaceId) : Nat → Nat → List Byte → State → State × Access
  | 0, _, _, s => (s, .ok [])
  | _, _, [], s => (s, .ok [])
  | fuel + 1, off, bs, s =>
    let n := 1792 - off % 1792
    match s.writeRow r (off / 1792) off (bs.take n) with
    | (s, .ok _) => State.writeTb r fuel (off + n) (bs.drop n) s
    | (s, y) => (s, y)

/-- Writes the bytes of one tier A code word: whole words are written fresh, others are read first (R232). -/
def State.writeTaWord (s : State) (r : RaceId) (off : Nat) (bs : List Byte) : State × Access :=
  let o := off / 32 * 32
  let l := taLoc o
  let m := s.races[r].mem
  if m.lost l.1 then
    if m.fbActive && m.fbChannel.toNat = l.1.val then State.writeTb r 2 (fallbackOff + taLocal off) bs s
    else (s, .cut)
  else if bs.length = 32 then (s.storeWord r l.1 l.2 bs, .ok []) else
    match s.readTa r o false with
    | (s, .ok old) => (s.storeWord r l.1 l.2 (overlayWord o off bs old), .ok [])
    | (s, y) => (s, y)

/-- Writes bytes at a tier A race offset, code word by code word. -/
def State.writeTa (r : RaceId) : Nat → Nat → List Byte → State → State × Access
  | 0, _, _, s => (s, .ok [])
  | _, _, [], s => (s, .ok [])
  | fuel + 1, off, bs, s =>
    let n := 32 - off % 32
    match s.writeTaWord r off (bs.take n) with
    | (s, .ok _) => State.writeTa r fuel (off + n) (bs.drop n) s
    | (s, y) => (s, y)

/-- Writes bytes at a race offset of a tier. -/
def State.writeAt (s : State) (r : RaceId) (tierB : Bool) (off : Nat) (bs : List Byte) : State × Access :=
  if tierB then State.writeTb r (bs.length + 1) off bs s else State.writeTa r (bs.length + 1) off bs s

/-- Writes bytes over several ranges in order. -/
def State.writeSpans (s : State) (xs : List Span) (bs : List Byte) : State × Access :=
  let out := xs.foldl (fun (acc : (State × Access) × List Byte) x => match acc.1.2 with
    | .ok _ => (acc.1.1.writeAt x.race x.tierB x.off (acc.2.take x.len), acc.2.drop x.len)
    | _ => acc) ((s, .ok []), bs)
  out.1

-- ## Zero-fill

/-- Clears the recorded differences of the words that lie wholly in the channel-local byte range of each channel of
`chs`. -/
def RaceMem.clearErrs (m : RaceMem) (p : Nat → Bool) : RaceMem :=
  { m with errs := m.errs.filter (fun e => !p e.1) }

/-- The tier A race offsets of the words that the fallback region holds with a listed byte (R218). -/
def fallbackOffs (s : State) (r : RaceId) : List Nat :=
  (s.mem.filterMap (fun c =>
    let w := c.1 / 32
    let ch := w / 2 ^ 29 % 46
    let slot := w % 2 ^ 29 / 8
    let t := (ch - 32) / 7
    let i := slot % 8
    if c.1 < 2 ^ 45 && w / 2 ^ 29 / 46 = r.val && 32 ≤ ch && i < 7 then
      (let row := 2 * (7 * (slot / 8) + i) + t
       let k := ((ch - 32) % 7 + 7 - i) % 7
       let o := row * 1792 + k * 256 + w % 8 * 32
       if fallbackOff ≤ o && o < fallbackOff + 2 * gib then
         some (taOffset (s.races[r].mem.fbChannel).toNat (o - fallbackOff)) else none)
    else none)).dedup

/-- The stripe row of a slot of a tier B channel: slot 8g + i holds data of row 2(7g + i) + t for the channel's stripe t,
slot 8g + 7 the parity of a row of the other stripe (R210). -/
def tbRowOf (ch slot : Nat) : Nat :=
  let t := (ch - 32) / 7
  let g := slot / 8
  if slot % 8 < 7 then 2 * (7 * g + slot % 8) + t else 2 * (7 * g + (ch - 32) % 7) + (1 - t)

/-- The stripe rows from `lo` to `hi` of a race in which a byte is listed, a stored word differs from its code word or an
armed flip waits for a write, in rising order; in every other row all blocks hold zeros. -/
def State.listedRows (s : State) (r : RaceId) (lo hi : Nat) : List Nat :=
  let fromMem := s.mem.filterMap (fun c =>
    let w := c.1 / 32
    let ch := w / 2 ^ 29 % 46
    if c.1 < 2 ^ 45 && w / 2 ^ 29 / 46 = r.val && 32 ≤ ch then some (tbRowOf ch (w % 2 ^ 29 / 8)) else none)
  let fromErr := (s.races[r].mem.errs).filterMap (fun e =>
    if 32 ≤ e.1 / 2 ^ 29 then some (tbRowOf (e.1 / 2 ^ 29) (e.1 % 2 ^ 29 / 8)) else none)
  let m := s.races[r].mem
  let fromArm := if m.arm && decide (32 ≤ m.flipCh.toNat) then [tbRowOf m.flipCh.toNat (m.flipBurst.toNat / 8)] else []
  ((fromMem ++ fromErr ++ fromArm).filter (fun w => lo ≤ w && w ≤ hi)).dedup.insertionSort (· ≤ ·)

/-- Zero-fills a range of a race's tier with valid check bytes; unlisted memory reads 0. Tier B ranges of whole
stripe columns leave the parity of untouched words right, so each listed word is cleared with its parity. -/
def State.zeroSpan (s : State) (x : Span) : State :=
  if x.tierB then
    let rows := s.listedRows x.race (x.off / 1792) ((x.off + x.len - 1) / 1792)
    if x.len = 0 then s else
    rows.foldl (fun s row =>
      let a := max x.off (row * 1792)
      let b := min (x.off + x.len) (row * 1792 + 1792)
      (s.writeRow x.race row a (List.replicate (b - a) 0)).1) s
  else
    let offs := (s.mem.filterMap (fun c =>
      let w := c.1 / 32
      let ch := w / 2 ^ 29 % 46
      if c.1 < 2 ^ 45 && w / 2 ^ 29 / 46 = x.race.val && ch < 32 then
        some (taOffset ch (w % 2 ^ 29 * 32)) else none)) ++
      ((s.races[x.race].mem.errs).filterMap (fun e =>
        if e.1 / 2 ^ 29 < 32 then some (taOffset (e.1 / 2 ^ 29) (e.1 % 2 ^ 29 * 32)) else none)) ++
      (if s.races[x.race].mem.fbActive then fallbackOffs s x.race else []) ++
      (let m := s.races[x.race].mem
       if m.arm && decide (m.flipCh.toNat < 32) then [taOffset m.flipCh.toNat (m.flipBurst.toNat * 32)] else [])
    let words := (offs.filter (fun o => touchesWord o x.off x.len)).dedup
    words.foldl (fun s o =>
      let a := max x.off o
      let b := min (x.off + x.len) (o + 32)
      (State.writeTa x.race 2 a (List.replicate (b - a) 0) s).1) s

/-- Zero-fills several ranges. -/
def State.zeroSpans (s : State) (xs : List Span) : State := xs.foldl State.zeroSpan s

-- ## Outcomes of an item's access

/-- Applies an access that did not give bytes to the item that made it (Table 9-3). -/
def State.accessFail (s : State) (id : Nat) : Access → State
  | .ok _ => s
  | .cut => s.cutItem id
  | .stop => s.stopItem id 0x0B
  | .out => s.cutItem id
  | .status st => s.stopItem id st

end Sys2Proof.Machine
end

