-- ==== Sys2Proof/Machine/Session.lean ====
section
/-! DEFINITION. Decode sessions: their records (Table 6-1), session blocks (Table 6-3) and page tables (R162). -/

namespace Sys2Proof.Machine

/-- The decode session of a context. -/
def State.session? (s : State) (c : BitVec 18) : Option Session :=
  match sget? s.ctxs c.toNat with
  | some (.session x) => some x
  | _ => none

/-- Applies `f` to the session of a context. -/
def State.modSession (s : State) (c : BitVec 18) (f : Session → Session) : State :=
  match s.session? c with
  | some x => { s with ctxs := sset s.ctxs c.toNat (.session (f x)) }
  | none => s

/-- The model of a slot of a tenant. -/
def State.model? (s : State) (t : TenantId) (slot : Nat) : Option Model := sget? s.tenants[t].models slot

/-- Applies `f` to a model of a tenant. -/
def State.modModel (s : State) (t : TenantId) (slot : Nat) (f : Model → Model) : State :=
  s.modTenant t (fun x => { x with models := x.models.map (fun m => if m.1 = slot then (m.1, f m.2) else m) })

/-- Codes of Table 6-2. -/
def SessState.code : SessState → Nat
  | .idle => 1
  | .running => 2
  | .stopping => 3

/-- The 64 bytes of a session's record (Table 6-1); `showSeed` is false wherever a window shows it. -/
def Session.record (x : Session) (showSeed : Bool) : List Byte :=
  [0x01, BitVec.ofNat 8 x.state.code, BitVec.ofNat 8 (b2n x.seedDrbg + 2 * b2n x.rootValid),
   BitVec.ofNat 8 x.model.val] ++
  bytesLE 4 x.position.toNat ++ bytesLE 4 x.root.toNat ++ bytesLE 4 x.remain.toNat ++
  bytesLE 8 (if showSeed then x.seed.toNat else 0) ++ bytesLE 4 x.blockOff.toNat ++ bytesLE 4 x.stopToken.toNat ++
  bytesLE 8 x.outAddr.toNat ++ bytesLE 4 x.outTokens.toNat ++ bytesLE 4 x.promptLeft.toNat ++
  bytesLE 8 x.promptAddr.toNat ++ [x.compRing.setWidth 8, 0, 0, 0] ++ bytesLE 4 x.passes.toNat

/-- A part of a race's session block. -/
def Session.block (x : Session) (r : RaceId) (off len : Nat) : Span :=
  { race := r, tierB := true, off := x.blockOff.toNat * 1024 + off, len := len }

/-- A page-table entry, read from the lowest tenant race's block (R162: every race names the same frame). -/
def State.pageEntry (s : State) (x : Session) (r : RaceId) (page : Nat) : State × Access :=
  s.readSpan (x.block r (0x800 + 4 * page) 4) false

/-- The frame of a page, none where it is absent or past the table; no error is counted on this look. -/
def State.pageFrame (s : State) (x : Session) (r : RaceId) (page : Nat) : Option Nat :=
  if 3584 ≤ page then none else
  match (s.pageEntry x r page).2 with
  | .ok bs => if natLE bs = 0xFFFFFFFF then none else some (natLE bs)
  | _ => none

/-- u: the present entries before the first absent one, counted up to `fuel` (R162). -/
def presentPages (s : State) (x : Session) (r : RaceId) : Nat → Nat → Nat
  | 0, n => n
  | fuel + 1, n => if (s.pageFrame x r n).isSome then presentPages s x r fuel (n + 1) else n

/-- The hot frame of a page in a race, if it has one (R177). -/
def Model.hotFrame (m : Model) (r : RaceId) (ctx page : Nat) : Option Nat :=
  (m.hot[r].find? (fun f => f.2.1 = ctx && f.2.2 = page)).map (·.1)

/-- The lowest free hot frame of a race (R177). -/
def Model.freeFrame (m : Model) (r : RaceId) : Option Nat :=
  (List.range (m.hot[r].length + 1)).find? (fun i =>
    decide (i < m.f 0x30 4) && !(m.hot[r].any (fun f => f.1 = i)))

/-- Where position `p`'s KV of a session lies in a race: the hot frame of its page, else the tier B frame; none where
the page is absent or its frame out of range (R163, R164, R175). -/
def State.kvSpan (s : State) (m : Model) (x : Session) (ctx : Nat) (r : RaceId) (p len : Nat) : Option Span :=
  let page := p / 64
  let inPage := p % 64 * (64 * m.kvb)
  match s.pageFrame x r page with
  | none => none
  | some fr =>
    if m.f 0x28 4 ≤ fr then none else
    match m.hotFrame r ctx page with
    | some h => some { race := r, tierB := false, off := m.hotOff h + inPage, len := len }
    | none => some { race := r, tierB := true, off := m.frameOff fr + inPage, len := len }

end Sys2Proof.Machine
end

