-- ==== Sys2Proof/Machine/Desc.lean ====
section
/-! DEFINITION. Descriptors: the header (Table 10-8), the field ranges of every operation (R277, R279, Tables 5-9,
5-10, 6-7, 6-9, 9-11, 10-11, 11-6 and 14-12), completion records (Table 10-9), and the checks of a RUN. -/

namespace Sys2Proof.Machine

/-- A little-endian field of a descriptor. -/
def dF (l : Line) (off len : Nat) : Nat := fld l.toNat (8 * off) (8 * len)
/-- OPCODE. -/
def dOp (l : Line) : Nat := dF l 0 1
/-- The work class. -/
def dClass (l : Line) : ClassId := Fin.ofNat 4 (dF l 1 1)
/-- REDUCE names split mode (R122). -/
def dSplit (l : Line) : Bool := bitOf (dF l 2 1) 7
/-- Part count of split mode. -/
def dParts (l : Line) : Nat := dF l 2 1 % 128
/-- FENCE. -/
def dFence (l : Line) : Bool := bitOf (dF l 3 1) 0
/-- SEQ. -/
def dSeq (l : Line) : W48 := BitVec.ofNat 48 (dF l 4 6)
/-- COOKIE. -/
def dCookie (l : Line) : Nat := dF l 0xC 4

/-- The header has no reserved bit set, and no part count without split mode (R277). -/
def headerFieldsOk (l : Line) : Bool :=
  decide (dF l 1 1 < 4) && (dSplit l || dParts l = 0) && decide (dF l 3 1 < 2) && dF l 0xA 2 = 0

/-- Every byte of 0x10 to 0x3F outside the named fields is 0. -/
def restZero (l : Line) (named : List (Nat × Nat)) : Bool :=
  (List.range 48).all (fun i =>
    named.any (fun f => decide (f.1 ≤ 0x10 + i) && decide (0x10 + i < f.1 + f.2)) || dF l (0x10 + i) 1 = 0)

/-- `n` is a power of two. -/
def isPow2 (n : Nat) : Bool := n ≠ 0 && 2 ^ n.log2 = n

/-- Two ranges of device or host memory overlap. -/
def rangesMeet (a b n : Nat) : Bool := decide (a < b + n) && decide (b < a + n)

/-- The fields of an operation lie in their ranges; none where the opcode is not defined (R277). `draft` is the size
of the tenant's draft-store partition in KiB. See R310. -/
def opFieldsOk (l : Line) (draft : Nat) : Option Bool :=
  match dOp l with
  | 0x01 => some (restZero l [])
  | 0x02 => some (restZero l [(0x10, 8), (0x18, 8), (0x20, 8), (0x28, 1)] &&
      dF l 0x20 8 % 16 = 0 && decide (16 ≤ dF l 0x20 8) && decide (dF l 0x20 8 ≤ 2 ^ 40) && decide (dF l 0x28 1 ≤ 2) &&
      (dF l 0x28 1 ≠ 1 || dF l 0x10 8 % 16 = 0) && (dF l 0x28 1 ≠ 2 || dF l 0x18 8 % 16 = 0) &&
      -- R324
      !(dF l 0x28 1 = 0 && rangesMeet (dF l 0x10 8) (dF l 0x18 8) (dF l 0x20 8)))
  | 0x03 => some (restZero l [(0x10, 8), (0x18, 4), (0x30, 1), (0x34, 4)] && dF l 0x10 8 % 64 = 0 && dF l 0x37 1 = 0)
  | 0x04 => some (restZero l [(0x10, 1), (0x18, 8)] && dF l 0x18 8 % 64 = 0)
  | 0x05 => some (restZero l [(0x10, 1), (0x11, 1), (0x14, 24), (0x30, 1), (0x34, 4)] && decide (dF l 0x10 1 < 64) &&
      dF l 0x37 1 = 0)
  | 0x40 => some (decide (1 ≤ dF l 0x14 4) && decide (dF l 0x14 4 ≤ 2 ^ 31) && decide (2 ≤ dF l 0x18 4) &&
      decide (dF l 0x18 4 ≤ 2 ^ 24) && decide (2 ≤ dF l 0x1C 4) && decide (dF l 0x1C 4 ≤ dF l 0x18 4) &&
      decide (dF l 0x28 2 ≤ 1024) && decide (fld (dF l 0x2A 1) 2 2 < 2) && fld (dF l 0x2A 1) 5 3 = 0 &&
      dF l 0x2B 1 = 0 && decide (1 ≤ dF l 0x2C 4) && decide (dF l 0x2C 4 ≤ 262144) && decide (1 ≤ dF l 0x30 4) &&
      decide (dF l 0x30 4 ≤ 2 ^ 20) && decide (dF l 0x34 4 ≤ 2 ^ 26))
  | 0x41 => some (restZero l [(0x10, 4), (0x14, 4), (0x18, 8)] && decide (1 ≤ dF l 0x14 4) &&
      decide (dF l 0x14 4 ≤ 4096) && dF l 0x18 8 % 64 = 0)
  | 0x42 => some (restZero l [(0x10, 4), (0x14, 4), (0x18, 8)] && decide (1 ≤ dF l 0x14 4) &&
      decide (dF l 0x14 4 ≤ 65536))
  | 0x43 => some (restZero l [(0x10, 4)])
  | 0x44 => some (restZero l [(0x10, 4), (0x14, 1), (0x16, 2), (0x18, 8), (0x20, 4), (0x24, 2), (0x28, 4)] &&
      decide (dF l 0x14 1 ≤ 2))
  | 0x45 => some (restZero l [(0x10, 4)])
  | 0x46 => some (restZero l [(0x10, 4)])
  | 0x47 => some (restZero l [(0x10, 4), (0x18, 8)] && dF l 0x18 8 % 256 = 0)
  | 0x50 => some (decide (dF l 0x10 1 < 16) && decide (dF l 0x11 1 < 2) &&
      -- an unload reads no other field
      (dF l 0x11 1 = 1 ||
       (decide (1 ≤ dF l 0x12 2) && decide (dF l 0x12 2 ≤ 1024) && decide (dF l 0x14 1 < 64) &&
        (decide (dF l 0x15 1 < 64) || dF l 0x15 1 = 0xFF) && decide (1 ≤ dF l 0x16 2) && decide (dF l 0x16 2 ≤ 1024) &&
        decide (1 ≤ dF l 0x20 4) && decide (dF l 0x20 4 ≤ 65535) && decide (1 ≤ dF l 0x28 4) &&
        decide (dF l 0x28 4 ≤ 2 ^ 24) && decide (dF l 0x30 4 ≤ 65536) && decide (dF l 0x3C 4 ≤ draft))))
  | 0x51 => some (restZero l [(0x10, 4), (0x14, 1), (0x15, 1), (0x16, 1), (0x18, 8), (0x20, 4), (0x24, 4), (0x28, 8),
        (0x30, 4), (0x38, 8)] && decide (dF l 0x14 1 < 16) && decide (dF l 0x15 1 < 2) && decide (dF l 0x16 1 < 16) &&
      dF l 0x20 4 % 16 = 0 && dF l 0x28 8 % 4 = 0 && isPow2 (dF l 0x30 4) && decide (64 ≤ dF l 0x30 4) &&
      decide (dF l 0x30 4 ≤ 2 ^ 24) && dF l 0x38 8 % 64 = 0)
  | 0x52 => some (restZero l [(0x10, 4), (0x14, 4), (0x18, 4), (0x20, 8)] && decide (dF l 0x14 4 ≤ 3583) &&
      decide (1 ≤ dF l 0x18 4) && decide (dF l 0x18 4 ≤ 3584 - dF l 0x14 4))
  | 0x53 => some (restZero l [(0x10, 4), (0x14, 4), (0x18, 8), (0x20, 4)] && decide (dF l 0x14 4 ≤ 2 ^ 20) &&
      dF l 0x18 8 % 4 = 0 && (dF l 0x14 4 ≠ 0 || dF l 0x20 4 ≠ 0))
  | 0x54 => some (restZero l [(0x10, 4)])
  | 0x55 => some (restZero l [(0x10, 4)])
  | 0x60 => some (restZero l [(0x10, 8), (0x18, 8), (0x20, 1), (0x28, 8)] && dF l 0x10 8 % 32 = 0 &&
      dF l 0x18 8 % 32 = 0 && decide (32 ≤ dF l 0x18 8) && decide (dF l 0x18 8 ≤ 2 ^ 38) && decide (dF l 0x20 1 < 2) &&
      dF l 0x28 8 % 64 = 0)
  | 0x70 => some (restZero l [(0x10, 8), (0x18, 4), (0x1C, 1), (0x1E, 2), (0x20, 4), (0x28, 8)] &&
      decide (1 ≤ dF l 0x18 4) && decide (dF l 0x18 4 ≤ 2 ^ 30) && decide (dF l 0x1C 1 < 2))
  | 0x71 => some (restZero l [(0x10, 8), (0x18, 8), (0x20, 2), (0x22, 1), (0x23, 1)] && dF l 0x10 8 % 64 = 0 &&
      dF l 0x18 8 % 64 = 0 && decide (64 ≤ dF l 0x18 8) && decide (dF l 0x18 8 ≤ 2 ^ 40) && decide (dF l 0x22 1 < 4) &&
      decide (dF l 0x23 1 < 16))
  | 0x72 => some (restZero l [(0x10, 4)])
  | 0x80 => some (restZero l [(0x10, 2), (0x12, 2), (0x14, 1), (0x18, 8)] && decide (dF l 0x14 1 < 2) &&
      dF l 0x18 8 % 64 = 0)
  | 0x81 => some (restZero l [(0x10, 2)])
  | 0x82 => some (restZero l [(0x10, 2), (0x12, 1), (0x13, 1), (0x14, 1), (0x18, 8)] && decide (dF l 0x13 1 < 2) &&
      decide (1 ≤ dF l 0x12 1) && decide (dF l 0x12 1 ≤ 4) && decide (dF l 0x14 1 < 2) && dF l 0x18 8 % 64 = 0)
  | 0x83 => some (restZero l [(0x10, 2), (0x12, 1), (0x13, 1), (0x14, 1), (0x16, 2), (0x18, 8), (0x20, 32)] &&
      decide (1 ≤ dF l 0x12 1) && decide (dF l 0x12 1 ≤ 4) && decide (dF l 0x13 1 < 2) && decide (dF l 0x14 1 < 2) &&
      dF l 0x18 8 % 64 = 0)
  | 0x84 => some (restZero l [(0x10, 2), (0x12, 2), (0x14, 1), (0x18, 8)] && decide (dF l 0x14 1 < 2) &&
      dF l 0x18 8 % 64 = 0)
  | 0x85 => some (restZero l [(0x10, 2)])
  | 0x86 => some (restZero l [(0x10, 2)])
  | 0x87 => some (restZero l [(0x10, 2), (0x12, 1), (0x18, 8), (0x20, 8), (0x28, 8), (0x30, 12)] &&
      decide (dF l 0x12 1 < 2) && dF l 0x28 8 % 16 = 0 && decide (16 ≤ dF l 0x28 8) && decide (dF l 0x28 8 ≤ 2 ^ 36))
  | 0x88 => some (restZero l [(0x10, 1), (0x11, 1), (0x18, 8), (0x20, 8), (0x28, 8), (0x30, 16)] &&
      decide (dF l 0x10 1 < 32) && decide (dF l 0x11 1 < 2))
  | 0x89 => some (restZero l [(0x10, 8), (0x18, 8)] && dF l 0x10 8 % 4096 = 0)
  | _ => none

/-- The PARAM code of the operation's chapter (R277). See R184. [DEDUCED, unsafe: log 39] -/
def paramCode (op : Nat) : Byte :=
  if 0x40 ≤ op && op < 0x48 then 0x20 else if 0x50 ≤ op && op < 0x56 then 0x30 else 0x0E

-- ## Mill sets and images

/-- The group of a physical mill is On (Table 16-3). -/
def State.groupOn (s : State) (r : RaceId) (p : Nat) : Bool :=
  s.pwr.domains[(5 * r.val + p / 5) % 80]'(Nat.mod_lt _ (by decide)) = 0

/-- The class's mills of a race: after the earlier classes' mills, in ascending logical order (R57), without mills
whose group is not On (R401) and mills retired and not yet replaced (R327). [DEDUCED, unsafe: log 32] -/
def State.classMills (s : State) (r : RaceId) (c : ClassId) : List MillName :=
  let x := s.races[r]
  let start := ((List.range c.val).map (fun i => (x.classMills.toList.getD i 0).toNat)).sum
  ((List.finRange 24).filter (fun k => decide (start ≤ k.val) && decide (k.val < start + (x.classMills[c]).toNat) &&
    s.groupOn r (x.map[k]).toNat && !x.toMap.contains k)).map (fun k => { race := r, mill := k })

/-- The class's mills of every race of a tenant, in ascending race and logical order. -/
def State.tenantMills (s : State) (t : TenantId) (c : ClassId) : List MillName :=
  ((s.racesOf t).map (fun r => s.classMills r c)).flatten

/-- The mills that RACE_MASK and MILL_MASK name, in ascending race and logical order (R279). -/
def maskMills (l : Line) : List MillName :=
  (allRaces.filter (fun r => bitOf (dF l 0x30 1) r.val)).flatMap (fun r =>
    ((List.finRange 24).filter (fun k => bitOf (dF l 0x34 4) k.val)).map (fun k => { race := r, mill := k }))

/-- The mill set lies within the descriptor's class mills in races of the tenant (R279). -/
def State.millSetOk (s : State) (t : TenantId) (l : Line) : Bool :=
  let ms := maskMills l
  !ms.isEmpty && ms.all (fun m => (s.racesOf t).contains m.race && (s.classMills m.race (dClass l)).contains m)

/-- The image that every mill of a set holds, as loaded by one LOAD_IMAGE (R279). -/
def State.setImage (s : State) (ms : List MillName) : Option (List Byte) :=
  match ms with
  | [] => none
  | m :: _ =>
    match (s.mill m).image with
    | none => none
    | some f => if ms.all (fun k => (s.mill k).image = some f && (s.mill k).imageBy = (s.mill m).imageBy) then some f
                else none

/-- A window record lies within the tenant (R21, Table 10-12). -/
def State.winOk (s : State) (t : TenantId) (w : Win) : Bool :=
  let base := w.base.toNat
  let len := w.length.toNat
  if w.kind = 0 then true
  else if len % 64 ≠ 0 then false
  else if w.kind = 1 || w.kind = 2 then
    match s.reach t base len with
    | some xs => xs.all (fun x => x.tierB = (w.kind = 2))
    | none => false
  else if w.kind = 3 then
    decide (base < 2 ^ 27) && (s.racesOf t).any (fun r => r.val = base / 2 ^ 24) && decide (base % 2 ^ 24 + len ≤ 2 ^ 24)
  else if w.kind = 4 then decide (base + len ≤ s.tenants[t].draftSize.toNat * mib) && !bitOf w.access.toNat 1
  else false

/-- A window of the set serves a window of the image: its kind, at least its size and access (Table 3-18). -/
def winServes (f : List Byte) (n : Nat) (w : Win) : Bool :=
  let k := imgWindow f n
  k.1 = 0 || (w.kind.toNat = k.1 && decide (k.2.2 ≤ w.length.toNat) &&
    (!bitOf k.2.1 0 || bitOf w.access.toNat 0) && (!bitOf k.2.1 1 || bitOf w.access.toNat 1))

-- ## Completion records (Table 10-9)

/-- A completion's header and operation bytes, `PHASE` 0. -/
def completionData (op : Nat) (status : Byte) (wring flags : Nat) (seq cookie : Nat) (body : BitVec 128) : BitVec 256 :=
  BitVec.ofNat 256 (op + status.toNat * 2 ^ 8 + wring * 2 ^ 16 + flags * 2 ^ 24 + seq * 2 ^ 32 + cookie * 2 ^ 96 +
    body.toNat * 2 ^ 128)

/-- The completion record of a descriptor. See R278. -/
def Desc.record (d : Desc) : Rec :=
  { data := completionData (dOp d.line) d.status d.ring.val
      (b2n d.flags.ovf + 2 * b2n d.flags.inv + 4 * b2n d.flags.sat + 8 * b2n d.fault) d.seq.toNat (dCookie d.line)
      (if d.refused then 0 else d.body),
    desc := some (d.ring, d.seq) }

/-- An event record (Table 12-9), `PHASE` 0. [DESIGN CHOICE, safe: log 37] -/
def Event.record (e : Event) (count tick : Nat) (delay : Nat) : BitVec 256 :=
  BitVec.ofNat 256 (0x0F + e.cls.toNat * 2 ^ 8 + 0xFE * 2 ^ 16 + (e.flags.toNat % 128) * 2 ^ 24 + count % 2 ^ 48 * 2 ^ 32 +
    tick % 2 ^ 32 * 2 ^ 96 + e.part.toNat * 2 ^ 128 + e.race.toNat * 2 ^ 136 + e.index.toNat * 2 ^ 144 +
    delay % 2 ^ 16 * 2 ^ 160 + e.detail.toNat * 2 ^ 192)

/-- The bytes of a device memory range as the tenant reaches them, read for an item. -/
def State.devRead (s : State) (t : TenantId) (a len : Nat) : State × Access :=
  match s.reach t a len with
  | some xs => s.readSpans xs
  | none => (s, .status 0x06)

/-- Bytes written to a device memory range that the tenant reaches. -/
def State.devWrite (s : State) (t : TenantId) (a : Nat) (bs : List Byte) : State × Access :=
  match s.reach t a bs.length with
  | some xs => s.writeSpans xs bs
  | none => (s, .status 0x06)

end Sys2Proof.Machine
end

