-- ==== Sys2Proof/Machine/Price.lean ====
section
/-! DEFINITION. Pricing and splitting: the budgets of Table 2-3 (R46, R47, R220, R255), the split of R49, and the price
and split axis of every descriptor (R72, R73, R245, R298, R371, R377, R472, R473, Table 2-4). A price is a sparse list
of component and amount. Components: 0 cycles on each mill of the item; 10, 20 and 30 + race the tiers; 40 + 2 × hop +
direction the leat; 60 and 61 the link, host to device and device to host; 70 + port transmit; 80 placement; 81 DRBG
requests; 82 key loads. -/

namespace Sys2Proof.Machine

-- ## Budgets

/-- C, the priced execute length (R46). -/
def Tick.cycles (k : Tick) : Nat :=
  (k.period.toNat - 7) * k.priceMhz.toNat * (100 - k.margin.toNat) / 100 - 125

/-- Windows of a path that a tenant owns (R53). -/
def Tick.owned (k : Tick) (path : Fin 13) (t : TenantId) : Nat :=
  (k.slots[path].toList.filter (fun e => e.toNat = t.val)).length

/-- S_c, the class share in sixteenths. -/
def State.share (s : State) (t : TenantId) (c : ClassId) : Nat := (s.tenants[t].share[c]).toNat

/-- The budget of a tenant's class in a component (Table 2-3), for component 0 the cycles on one mill. -/
def State.budget (s : State) (t : TenantId) (c : ClassId) (comp : Nat) : Nat :=
  let cyc := s.tick.cycles
  let sh := s.share t c
  let fb (r : Nat) : Bool := (s.races[Fin.ofNat 8 r]).mem.fbActive
  let path (p : Fin 13) (rate : Nat) : Nat := rate * cyc * s.tick.owned p t * sh / (64 * 16)
  if comp = 0 then cyc
  else if comp < 18 then (if fb (comp - 10) then 930 else 960) * cyc * sh / 16
  else if comp < 28 then (if fb (comp - 20) then 240 else 272) * cyc * sh / 16
  else if comp < 38 then (if fb (comp - 30) then 208 else 240) * cyc * sh / 16
  else if comp < 56 then 1024 * cyc * 63 * sh / (64 * 16)
  else if comp = 60 then path 0 s.link.constH2D.toNat
  else if comp = 61 then path 1 s.link.constD2H.toNat
  else if comp < 78 then path (Fin.ofNat 13 (2 + (comp - 70))) (if s.net.mode800 then 80 else 40)
  else if comp = 80 then path 10 320
  else if comp = 81 then 8 * s.tick.owned 11 t * sh / (64 * 16)
  else if comp = 82 then 2 * s.tick.owned 12 t * sh / (64 * 16)
  else 0

/-- Sum of two prices. -/
def priceAdd (a b : List (Nat × Nat)) : List (Nat × Nat) := b.foldl (fun m p => smod m p.1 0 (· + p.2)) a

/-- A price times a count. -/
def priceMul (g : Nat) (p : List (Nat × Nat)) : List (Nat × Nat) := p.map (fun x => (x.1, g * x.2))

-- ## Shapes and the split of R49

/-- What a descriptor asks for: granules, the price of one, the fixed part of each item, what item 0 adds, and the
mills it runs on. -/
structure Shape where
  gran  : Nat := 0
  per   : List (Nat × Nat) := []
  fixed : List (Nat × Nat) := []
  first : List (Nat × Nat) := []
  mills : List MillName := []
deriving DecidableEq, Repr

/-- The fixed part of the priciest item. -/
def Shape.base (x : Shape) : List (Nat × Nat) := priceAdd x.fixed x.first

/-- The number of items, none where the descriptor is TOO_LARGE (R49, R52, R73). -/
def splitCount (g : Nat) (per base : List (Nat × Nat)) (budget : Nat → Nat) : Option Nat :=
  if base.any (fun p => decide (budget p.1 < p.2)) then none else
  let room (r : Nat) : Nat := budget r - sget base r 0
  let per := per.filter (fun p => decide (0 < p.2))
  if per.any (fun p => decide (room p.1 < p.2)) then none
  else some (per.foldl (fun n p => max n (ceilDiv (g * p.2) (room p.1))) 1)

/-- `g` granules over `n` items in axis order: the first g mod n take one more (R49). -/
def splitGran (g n : Nat) : List Nat := (List.range n).map (fun i => g / n + (if i < g % n then 1 else 0))

/-- The granules of each item and, in split mode, the ordinal of the mill of its part (R49, R122). -/
def Shape.items (x : Shape) (split : Option Nat) (budget : Nat → Nat) : Option (List (Nat × Option Nat)) :=
  match split with
  | none => (splitCount x.gran x.per x.base budget).map (fun n => (splitGran x.gran n).map (fun g => (g, none)))
  | some s =>
    (indexed (splitGran x.gran s)).foldr (fun p acc =>
      match acc, splitCount p.2 x.per x.base budget with
      | some rest, some n =>
        some ((splitGran p.2 n).map (fun g => (g, some (p.1 % max 1 x.mills.length))) ++ rest)
      | _, _ => none) (some [])

/-- The price of an item of `g` granules. -/
def Shape.itemPrice (x : Shape) (g : Nat) (isFirst : Bool) : List (Nat × Nat) :=
  priceAdd (priceMul g x.per) (if isFirst then x.base else x.fixed)

-- ## Moves (R472, R473)

/-- Hops of the leat between two races: hop h joins race h and race h + 1 (mod 8); the path stays inside the tenant's
arc, and on the whole ring takes the shorter way, ascending on a tie. Component of each hop. -/
def leatPath (arc : List RaceId) (a b : RaceId) : List Nat :=
  let up := (b.val + 8 - a.val) % 8
  let down := (a.val + 8 - b.val) % 8
  let ups := (List.range up).map (fun i => (a.val + i) % 8)
  let downs := (List.range down).map (fun i => (a.val + 7 - i) % 8)
  let inside (hs : List Nat) : Bool :=
    hs.all (fun h => arc.contains (Fin.ofNat 8 h) && arc.contains (Fin.ofNat 8 (h + 1)))
  if a = b then []
  else if inside ups && (!inside downs || decide (up ≤ down)) then ups.map (fun h => 40 + 2 * h)
  else downs.map (fun h => 41 + 2 * h)

/-- Reading 4 KiB granules of the spans: tier A bytes, tier B bytes, the latter in whole rows where a stripe is
degraded. -/
def State.readPrice (s : State) (xs : List Span) : List (Nat × Nat) × List (Nat × Nat) :=
  xs.foldl (fun acc x =>
    if x.tierB then (smod acc.1 (cTbR x.race) 0 (max 4096),
                     if (s.races[x.race]).mem.degraded then smod acc.2 (cTbR x.race) 0 (max 3584) else acc.2)
    else (smod acc.1 (cTa x.race) 0 (max 4096), acc.2)) ([], [])

/-- Writing 4 KiB granules of the spans (R473). -/
def writePrice (xs : List Span) : List (Nat × Nat) × List (Nat × Nat) :=
  xs.foldl (fun acc x =>
    if x.tierB then (smod acc.1 (cTbW x.race) 0 (max 4096),
                     smod (smod acc.2 (cTbW x.race) 0 (max 3584)) (cTbR x.race) 0 (max 3584))
    else (smod acc.1 (cTa x.race) 0 (max 4096), acc.2)) ([], [])

/-- Leat bytes of moving 4 KiB granules from the races of `a` to the races of `b`. See R29, R30. -/
def State.leatPrice (s : State) (t : TenantId) (a b : List Span) : List (Nat × Nat) :=
  a.foldl (fun acc x => b.foldl (fun acc y =>
    (leatPath (s.racesOf t) x.race y.race).foldl (fun acc h => smod acc h 0 (max 4096)) acc) acc) []

/-- Link bytes of one granule read from host memory, and written to it (R472). -/
def hostReadPrice (addr : Nat) : List (Nat × Nat) :=
  if addr % 256 = 0 then [(60, 4352), (61, 256)] else [(60, 4368), (61, 272)]
/-- As `hostReadPrice`, for writes. -/
def hostWritePrice (addr : Nat) : List (Nat × Nat) := if addr % 256 = 0 then [(61, 4352)] else [(61, 4368)]

/-- Slot bytes of one transfer of `n` bytes from host memory, and of its requests (R472). -/
def hostReadSlots (n : Nat) : List (Nat × Nat) :=
  [(60, 16 * ceilDiv n 16 + 16 * ceilDiv n 256), (61, 16 * ceilDiv n 256)]
/-- As `hostReadSlots`, for writes. -/
def hostWriteSlots (n : Nat) : List (Nat × Nat) := [(61, 16 * ceilDiv n 16 + 16 * ceilDiv n 256)]

/-- The shape of a copy from device spans to device spans. -/
def State.copyShape (s : State) (t : TenantId) (src dst : List Span) (len : Nat) : Shape :=
  let r := s.readPrice src
  let w := writePrice dst
  { gran := ceilDiv len 4096, per := priceAdd (priceAdd r.1 w.1) (s.leatPrice t src dst), fixed := priceAdd r.2 w.2 }

/-- The shape of a zero-fill of `len` bytes in the spans. -/
def fillShape (dst : List Span) (len : Nat) : Shape :=
  let w := writePrice dst
  { gran := ceilDiv len 4096, per := w.1, fixed := w.2 }

-- ## Weir paths (R285, R286, R298)

/-- The ports of the mode in force: 8 at 400G, 4 at 800G. -/
def Net.portCount (n : Net) : Nat := if n.mode800 then 4 else 8

/-- The path list of a peer: the ports up in both masks in ascending order, paths 0 to PATHS_M1, without the paths
marked down; each as port × 16 + path. -/
def Net.paths (n : Net) (p : Peer) : List Nat :=
  ((List.finRange 8).filter (fun q => decide (q.val < n.portCount) && n.portEn.getLsbD q.val && n.ports[q].up &&
    p.mask.getLsbD q.val)).flatMap (fun q =>
      ((List.range (n.pathsM1.toNat + 1)).map (fun i => q.val * 16 + i)).filter (fun x => !p.down.contains x))

/-- The peer of a module ID. -/
def Net.peer? (n : Net) (id : W16) : Option (Nat × Peer) := n.peers.find? (fun p => p.2.valid && p.2.id = id)

/-- The ports that a send to a peer is priced on: its path list at admission, or one path on each port of its mask. -/
def Net.priceList (n : Net) (p : Peer) : List Nat :=
  let xs := n.paths p
  if xs.isEmpty then (List.range n.portCount).filterMap (fun q => if p.mask.getLsbD q then some (q * 16) else none)
  else xs

/-- Transmit price of one packet, and the fixed part, over the ports of a path list (R298). -/
def transmitPrice (xs : List Nat) : List (Nat × Nat) × List (Nat × Nat) :=
  (List.range 8).foldl (fun acc q =>
    let k := (xs.filter (fun x => x / 16 = q)).length
    if k = 0 then acc
    else (sset acc.1 (70 + q) (ceilDiv (4160 * k) xs.length), sset acc.2 (70 + q) (4160 * k))) ([], [])

-- ## Shapes of the descriptors

/-- What admission finds. -/
inductive Admit where
  | refuse (status : Byte)
  | go (x : Shape)
deriving DecidableEq, Repr

/-- A shape, or TOO_LARGE where a range has no memory of the tenant. -/
def admitCopy (s : State) (t : TenantId) (src dst : Nat) (len : Nat) (extra : List (Nat × Nat)) : Admit :=
  match s.reach t src len, s.reach t dst len with
  | some a, some b => .go { s.copyShape t a b len with first := extra }
  | _, _ => .refuse 0x06

/-- The transfer of a key blob or another small range: at a device or host address, read or written. -/
def State.blobPrice (s : State) (t : TenantId) (dir addr len : Nat) (write : Bool) : Option (List (Nat × Nat)) :=
  if dir = 1 then some (if write then hostWriteSlots len else hostReadSlots len) else
  match s.reach t addr len with
  | none => none
  | some xs =>
    let p := if write then writePrice xs else s.readPrice xs
    some (priceAdd p.1 p.2)

/-- Bytes that an AGG_OPEN zero-fills in each race, and the race spans (R129). -/
def openBytes (l : Line) (n : Nat) : Nat :=
  let w := if bitOf (dF l 0x2A 1) 0 then 8 else 4
  let g := ceilDiv (ceilDiv (dF l 0x14 4 * w) mib) (max 1 n)
  3 * g * mib + ceilDiv (8 * dF l 0x18 4) mib * mib + ceilDiv (4096 * dF l 0x2C 4) mib * mib +
    ceilDiv (32 * ceilDiv (dF l 0x14 4 * w) mib) mib * mib

/-- Every race of a tenant as a span of one tier. -/
def State.everyRace (s : State) (t : TenantId) (tierB : Bool) : List Span :=
  (s.racesOf t).map (fun r => { race := r, tierB := tierB, off := 0, len := 1 })

/-- The round of a tenant with a ROUND_ID (R128). -/
def State.roundOf (s : State) (t : TenantId) (id : Nat) : Option (Fin 64 × Round) :=
  (List.finRange 64).findSome? (fun i => match s.rounds[i] with
    | some r => if r.tenant = t && r.id.toNat = id then some (i, r) else none
    | none => none)

/-- The shape of an AGG_RELEASE (R148, R306). -/
def State.releaseShape (s : State) (t : TenantId) (l : Line) : Admit :=
  match s.roundOf t (dF l 0x10 4) with
  | none => .go {}
  | some (_, r) =>
    let rs := s.racesOf t
    let each := rs.map (fun x => (cTa x, ceilDiv 4096 rs.length))
    let fixed := rs.map (fun x => (cTa x, mib))
    let g := ceilDiv r.vbytes 4096
    if dF l 0x14 1 = 0 then .go { gran := g, per := priceAdd each (hostWritePrice (dF l 0x18 8)), fixed := fixed }
    else if dF l 0x14 1 = 1 then
      match s.reach t (dF l 0x18 8) r.vbytes with
      | none => .refuse 0x06
      | some xs =>
        let w := writePrice xs
        let hops := (rs.flatMap (fun a => rs.flatMap (fun b => leatPath rs a b))).dedup
        .go { gran := g, per := priceAdd (priceAdd each w.1) (hops.map (fun h => (h, 4096))), fixed := priceAdd fixed w.2 }
    else
      match s.net.peer? (BitVec.ofNat 16 (dF l 0x1C 2)) with
      | none => .go {}
      | some (_, p) =>
        let tx := transmitPrice (s.net.priceList p)
        .go { gran := g + 1, per := priceAdd each tx.1, fixed := priceAdd fixed tx.2 }

/-- The shape of a RUN of an entry of the image that its mills hold (R72 to R74, R279). -/
def State.runShape (s : State) (t : TenantId) (l : Line) : Admit :=
  let ms := maskMills l
  if !s.millSetOk t l then .refuse 0x11 else
  match s.setImage ms with
  | none => .refuse 0x12
  | some f =>
    let e := dF l 0x10 1
    let ws := sget s.tenants[t].wsets (dF l 0x11 1) []
    if imgEntries f ≤ e || !bitOf (imgClasses f e) (dClass l).val then .refuse 0x0E else
    if !((List.range 8).all (fun n => s.winOk t (ws.getD n {}) && winServes f n (ws.getD n {}))) then .refuse 0x06 else
    let g := dF l 0x14 4
    let a (k : Nat) : Nat := dF l (0x14 + 4 * k) 4
    let comp (c : Nat) : Option (Nat × Nat) := entryComp f e c (a 1) (a 2) (a 3) g
    match comp 0, comp 1, comp 2, comp 3, comp 4, comp 5 with
    | some c0, some c1, some c2, some c3, some c4, some c5 =>
      let rs := (ms.map (·.race)).dedup
      let arc := s.racesOf t
      let hops := (arc.filter (fun r => arc.contains (r + 1) && arc.length ≠ 1)).flatMap (fun r =>
        [40 + 2 * r.val, 41 + 2 * r.val])
      let spread (f : Nat × Nat → Nat) : List (Nat × Nat) :=
        [(0, f c0 + 2500 * f c1), (81, f c1)] ++ rs.map (fun r => (cTa r, f c2)) ++ rs.map (fun r => (cTbR r, f c3)) ++
          rs.map (fun r => (cTbW r, f c4)) ++ hops.map (fun h => (h, f c5))
      .go { gran := g, per := priceAdd [] (spread (·.2)), fixed := priceAdd [] (spread (·.1)), mills := ms }
    | _, _, _, _, _, _ => .refuse 0x01

/-- The shape of a weights load: both copies of a DEC_MODEL (R158). -/
def State.modelShape (s : State) (t : TenantId) (l : Line) : Shape :=
  if dF l 0x11 1 = 1 then {} else
  let rs := s.racesOf t
  let wt := dF l 0x20 4 * mib
  let dr := dF l 0x3C 4 * 1024
  let a := s.readPrice (s.everyRace t true)
  let b := writePrice (s.everyRace t false)
  { gran := max (ceilDiv wt 4096) (ceilDiv dr 4096),
    per := priceAdd (priceAdd a.1 b.1) (match rs with
      | [] => []
      | r :: _ => [(cTbR r, 4096)]), fixed := a.2 }

/-- The scrub prices of R245 and R473: of a granule, and the fixed part. -/
def scrubPrice (xs : List Span) (l : Line) : List (Nat × Nat) × List (Nat × Nat) :=
  let re := bitOf (dF l 0x20 1) 0
  xs.foldl (fun acc x =>
    if x.tierB then
      (priceAdd acc.1 ([(cTbR x.race, 4682)] ++ (if re then [(cTbW x.race, 4682)] else [])),
       priceAdd acc.2 ([(cTbR x.race, 4096)] ++ (if re then [(cTbW x.race, 4096)] else [])))
    else (priceAdd acc.1 [(cTa x.race, if re then 8192 else 4096)], acc.2)) ([], [])

/-- Admission of a descriptor whose header and fields are in range: its shape or its refusal. -/
def State.shapeOf (s : State) (t : TenantId) (l : Line) : Admit :=
  let one (p : List (Nat × Nat)) : Admit := .go { fixed := priceAdd [] p }
  match dOp l with
  | 0x02 =>
    let src := dF l 0x10 8
    let dst := dF l 0x18 8
    let len := dF l 0x20 8
    if dF l 0x28 1 = 0 then admitCopy s t src dst len []
    else if dF l 0x28 1 = 1 then
      match s.reach t dst len with
      | none => .refuse 0x06
      | some xs =>
        let w := writePrice xs
        .go { gran := ceilDiv len 4096, per := priceAdd w.1 (hostReadPrice src), fixed := w.2 }
    else
      match s.reach t src len with
      | none => .refuse 0x06
      | some xs =>
        let r := s.readPrice xs
        .go { gran := ceilDiv len 4096, per := priceAdd r.1 (hostWritePrice dst), fixed := r.2 }
  | 0x03 => if !s.millSetOk t l then .refuse 0x11 else one (hostReadSlots (dF l 0x18 4))
  | 0x04 => one (hostReadSlots 128)
  | 0x05 => s.runShape t l
  | 0x40 =>
    let n := (s.racesOf t).length
    let x := fillShape (s.everyRace t false ++ s.everyRace t true) (openBytes l n)
    .go { x with first := [(81, 1)] }
  | 0x41 => one (hostReadSlots (64 * dF l 0x14 4))
  | 0x42 => one (hostReadSlots (4 * dF l 0x14 4))
  | 0x44 => s.releaseShape t l
  | 0x47 => one (hostWriteSlots 256)
  | 0x50 => .go (s.modelShape t l)
  | 0x51 => one (hostReadSlots 256 ++ (if dF l 0x15 1 = 1 then [(81, 2)] else []))
  | 0x52 => one (hostReadSlots (4 * dF l 0x18 4))
  | 0x60 =>
    let len := dF l 0x18 8
    match s.reach t (dF l 0x10 8) len, spansOf (dF l 0x10 8) len with
    | none, some xs =>
      -- a range over a sealed structure is checked too, and gives its summary only (R247)
      if xs.all (fun x => s.owner x.race = some t) then
        .go { gran := ceilDiv len 4096, per := (scrubPrice xs l).1, fixed := (scrubPrice xs l).2 } else .refuse 0x06
    | some xs, _ => .go { gran := ceilDiv len 4096, per := (scrubPrice xs l).1, fixed := (scrubPrice xs l).2 }
    | none, none => .refuse 0x06
  | 0x70 =>
    let len := dF l 0x18 4
    let tx := match s.net.peer? (BitVec.ofNat 16 (dF l 0x1E 2)) with
      | some (_, p) => transmitPrice (s.net.priceList p)
      | none => ([], [])
    if dF l 0x1C 1 = 1 then
      .go { gran := ceilDiv len 4096, per := priceAdd tx.1 (hostReadPrice (dF l 0x10 8)), fixed := tx.2 }
    else
      match s.reach t (dF l 0x10 8) len with
      | none => .refuse 0x06
      | some xs =>
        let r := s.readPrice xs
        .go { gran := ceilDiv len 4096, per := priceAdd tx.1 r.1, fixed := priceAdd tx.2 r.2 }
  | 0x71 => one [(81, 1)]
  | 0x80 => match s.blobPrice t (dF l 0x14 1) (dF l 0x18 8) 128 false with
    | some p => one ((82, 1) :: p)
    | none => .refuse 0x06
  | 0x82 => match s.blobPrice t (dF l 0x14 1) (dF l 0x18 8) 128 true with
    | some p => one ((82, 1) :: p)
    | none => .refuse 0x06
  | 0x83 => match s.blobPrice t (dF l 0x14 1) (dF l 0x18 8) 128 true with
    | some p => one ((82, 1) :: p)
    | none => .refuse 0x06
  | 0x84 => match s.blobPrice t (dF l 0x14 1) (dF l 0x18 8) 128 true with
    | some p => one ((82, 1) :: p)
    | none => .refuse 0x06
  | 0x81 => one [(82, 1)]
  | 0x85 => one [(82, 1)]
  | 0x86 => one [(82, 1)]
  | 0x87 => admitCopy s t (dF l 0x18 8) (dF l 0x20 8) (dF l 0x28 8) [(82, 1)]
  | 0x88 => match s.reach t (dF l 0x20 8) (max 1 (dF l 0x28 8)) with
    | none => .refuse 0x06
    | some _ => one [(82, 1)]
  | 0x89 => one ((82, 1) :: (hostWriteSlots 16384 ++ hostReadSlots 64))
  | _ => .go {}
/-- Admission of a fetched descriptor (R52, R277, R279): refusal, or its items' granules and mill ordinals.
[DEDUCED, unsafe: log 26] -/
def State.admission (s : State) (t : TenantId) (l : Line) : Except Byte (Shape × List (Nat × Option Nat)) :=
  let c := dClass l
  if !headerFieldsOk l then .error 0x0E else
  match opFieldsOk l (s.tenants[t].draftSize.toNat * 1024) with
  | none => .error 0x0D
  | some false => .error (paramCode (dOp l))
  | some true =>
    if (s.tenantMills t c).isEmpty && s.share t c = 0 then .error 0x02 else
    match s.shapeOf t l with
    | .refuse st => .error st
    | .go x =>
      if dOp l = 0x05 && dSplit l && (dParts l < 2 || 64 < dParts l || x.gran < dParts l) then .error 0x0A else
      match x.items (if dOp l = 0x05 && dSplit l then some (dParts l) else none) (s.budget t c) with
      | none => .error 0x01
      | some items => .ok (x, items)

/-- Worst-case journal bytes of an item of a descriptor (Table 12-5). -/
def journalBytes (l : Line) (isFirst : Bool) : Nat :=
  32 + (if isFirst then 96 else 0) +
    (match dOp l with
     | 0x70 => if isFirst then 32 else 0
     | 0x71 => 48
     | 0x72 => 48
     | 0x50 => 80
     | 0x51 => 96
     | 0x52 => 32 + 16 * ceilDiv (4 * dF l 0x18 4) 16
     | 0x53 => 96
     | 0x54 => 96
     | 0x55 => 96
     | 0x40 => 96
     | 0x41 => 48 + 32 * dF l 0x14 4
     -- capped at what a tick's log holds: 65,536 participants' entries pass it
     | 0x42 => min (48 + 32 * dF l 0x14 4) 260000
     | 0x43 => 48
     | 0x44 => 48
     | 0x45 => 96
     | 0x46 => 96
     | _ => 0)

/-- Log blocks that lie free (R320). -/
def Jnl.free (j : Jnl) : Nat :=
  let tail := j.log.dropWhile (fun x => x.applied && x.unwritten = 0)
  290229 - (tail.map (·.blocks)).sum

end Sys2Proof.Machine
end

