-- ==== Sys2Proof/Machine/Items.lean ====
section
/-! DEFINITION. How a descriptor's item runs, and how descriptors end. -/

namespace Sys2Proof.Machine

/-- The item may do its work: it is placed or running. -/
def Item.live (i : Item) : Bool := i.state = .placed || i.state = .running

/-- Runs `f` for a live item of a descriptor with this opcode. -/
def State.work (s : State) (id : Nat) (op : Nat) (f : Item → State → State) : State :=
  match s.item? id with
  | none => s
  | some i => if i.live && i.kind = .desc && dOp i.line = op then f i s else s

/-- Ends an item with its status, completion bytes and deferred effects; one that its own access to memory has cut with
the loss of a channel stays cut (R213). [DEDUCED, unsafe: log 66] -/
def State.endItem (s : State) (id : Nat) (status : Byte) (body : Nat) (effects : List Effect) : State :=
  (s.modItem id (fun i => if i.live then
    { i with state := .ended, status := status, body := BitVec.ofNat 128 body, effects := effects } else i)).freeMills id

/-- Ends an item whose access gave bytes; otherwise the access's outcome applies to it (Table 9-3). -/
def State.endWith (s : State) (id : Nat) (x : State × Access) (f : State → List Byte → State) : State :=
  match x with
  | (s', .ok bs) => f s' bs
  | (s', y) => let _ := s; s'.accessFail id y

/-- The bytes of an item's granules: first byte and count, within `len`. -/
def Item.range (i : Item) (len : Nat) : Nat × Nat :=
  (i.first * 4096, min (i.gran * 4096) (len - i.first * 4096))

/-- A descriptor ends with a status and nothing more of it runs. -/
def State.failDesc (s : State) (t : TenantId) (ring : Fin 64) (seq : W48) (status : Byte) (body : Nat) : State :=
  s.modDesc t ring seq (fun d => if d.done then d else
    { d with done := true, waits := false, status := status, body := BitVec.ofNat 128 body, todo := [] })

/-- Sets a descriptor's completion bytes and status, decided at its commit. -/
def State.setBody (s : State) (t : TenantId) (ring : Fin 64) (seq : W48) (status : Byte) (body : Nat) : State :=
  s.modDesc t ring seq (fun d => { d with status := status, body := BitVec.ofNat 128 body })

/-- The descriptor waits for an event of its operation's chapter. -/
def State.waitDesc (s : State) (t : TenantId) (ring : Fin 64) (seq : W48) : State :=
  s.modDesc t ring seq (fun d => { d with waits := true })

-- ## Registering a Weir window (R289)

/-- Windows of a path that a tenant's class has (R57). -/
def State.classWindows (s : State) (path : Fin 13) (t : TenantId) (c : ClassId) : Nat :=
  s.tick.owned path t * s.share t c / 16

/-- The status with which a registration is refused before its range is looked at, if it is. -/
def State.regRefusal (s : State) (t : TenantId) (c : ClassId) : Option Byte :=
  if s.classWindows 10 t c = 0 then some 0x02
  else if 8192 ≤ s.tenants[t].weir.windows.length then some 0x4C
  else if s.rng.fatal then some 0x4D else none

/-- The lowest window index not in use. -/
def State.freeWindow (s : State) (t : TenantId) : Option (BitVec 13) :=
  ((List.range (s.tenants[t].weir.windows.length + 1)).find? (fun i =>
    decide (i < 8192) && (sget? s.tenants[t].weir.windows i).isNone)).map (BitVec.ofNat 13)

/-- A tag is registered or revoked somewhere on the device, or drawn for a registration of this tick. -/
def State.tagUsed (s : State) (tag : W32) : Bool :=
  allTenants.any (fun t => s.tenants[t].weir.windows.any (fun w => w.2.tag = tag)) ||
    s.tick.items.any (fun i => i.effects.any (fun e => match e with
      | .window g _ _ _ _ _ _ _ => g = tag
      | .aggOpen r => r.tag = tag
      | _ => false))

/-- Draws a tag: values are taken from the response queue until one differs from every tag in use (R289, R389);
none while the queue is empty. `fuel` bounds the draws. -/
def State.drawTag (t : TenantId) : Nat → State → State × Option W32
  | 0, s => (s, none)
  | fuel + 1, s =>
    match s.tenants[t].values with
    | [] => (s, none)
    | v :: rest =>
      let s := s.modTenant t (fun x => { x with values := rest })
      if s.tagUsed v then State.drawTag t fuel s else (s, some v)

end Sys2Proof.Machine
end

