-- ==== Sys2Proof/Machine/Crypto.lean ====
section
/-! DEFINITION. The cryptographic functions that the specification names by their standards: AES-256 (FIPS 197) with
counter mode and GCM (SP 800-38A, 38D), SHA-512 (FIPS 180-4), HMAC (FIPS 198-1), the counter-mode KDF of SP 800-108,
CTR_DRBG (SP 800-90A), Philox4x32-10, MGF1 and RSASSA-PSS verification (RFC 8017).
PRESUMED: the standards' own definitions stand in for the specification, which gives only their names. -/

namespace Sys2Proof.Machine

/-- The S-box of FIPS 197, entry i in byte i. -/
def aesSboxBits : Nat :=
  0xd2f3ff1021dab6bcf5389d928f40a351a89f3c507f02f94585334d43fbaaefd0cf584c4a39becb6a5bb1fc20ed00d153842fe329b3d63b52a05a6e1b1a2c830975b227ebe28012079a059618c323c7041531d871f1e5a534ccf73f362693fdb7c072a49cafa2d4adf04759fa7dc982ca76abd7fe2b670130c56f6bf27b777c63 * 2 ^ 0 +
  0x16bb54b00f2d99416842e6bf0d89a18cdf2855cee9871e9b948ed9691198f8e19e1dc186b95735610ef6034866b53e708a8bbd4b1f74dde8c6b4a61c2e2578ba08ae7a65eaf4566ca94ed58d6d37c8e779e4959162acd3c25c2406490a3a32e0db0b5ede14b8ee4688902a22dc4f816073195d643d7ea7c41744975fec130ccd * 2 ^ 1024

/-- The round constants of FIPS 180-4, constant t in the t-th 64 bits. -/
def sha512K : Nat :=
  0xc19bf174cf6926949bdc06a725c7123580deb1fe3b1696b172be5d74f27b896f550c7dc3d5ffb4e2243185be4ee4b28c12835b0145706fbed807aa98a3030242ab1c5ed5da6d8118923f82a4af194f9b59f111f1b605d0193956c25bf348b538e9b5dba58189dbbcb5c0fbcfec4d3b2f7137449123ef65cd428a2f98d728ae22 * 2 ^ 0 +
  0x142929670a0e6e7006ca6351e003826fd5a79147930aa725c6e00bf33da88fc2bf597fc7beef0ee4b00327c898fb213fa831c66d2db43210983e5152ee66dfab76f988da831153b55cb0a9dcbd41fbd44a7484aa6ea6e4832de92c6f592b0275240ca1cc77ac9c650fc19dc68b8cd5b5efbe4786384f25e3e49b69c19ef14ad2 * 2 ^ 1024 +
  0x106aa07032bbd1b8f40e35855771202ad69906245565a910d192e819d6ef5218c76c51a30654be30c24b8b70d0f89791a81a664bbc423001a2bfe8a14cf1036492722c851482353b81c2c92e47edaee6766a0abb3c77b2a8650a73548baf63de53380d139d95b3df4d2c6dfc5ac42aed2e1b21385c26c92627b70a8546d22ffc * 2 ^ 2048 +
  0xc67178f2e372532bbef9a3f7b2c67915a4506cebde82bde990befffa23631e288cc702081a6439ec84c87814a1f0ab7278a5636f43172f60748f82ee5defb2fc682e6ff3d6b2b8a35b9cca4f7763e3734ed8aa4ae3418acb391c0cb3c5c95a6334b0bcb5e19b48a82748774cdf8eeb991e376c085141ab5319a4c116b8d2d0c8 * 2 ^ 3072 +
  0x6c44198c4a4758175fcb6fab3ad6faec597f299cfc657e2a4cc5d4becb3e42b6431d67c49c100d4c3c9ebe0a15c9bebc32caab7b40c7249328db77f523047d841b710b35131c471b113f9804bef90dae0a637dc5a2c898a606f067aa72176fbaf57d4f7fee6ed178eada7dd6cde0eb1ed186b8c721c0c207ca273eceea26619c * 2 ^ 4096

/-- The initial hash value of FIPS 180-4. -/
def sha512H : Nat :=
  0x5be0cd19137e21791f83d9abfb41bd6b9b05688c2b3e6c1f510e527fade682d1a54ff53a5f1d36f13c6ef372fe94f82bbb67ae8584caa73b6a09e667f3bcc908 * 2 ^ 0

/-- One S-box entry. -/
def aesSub (b : Byte) : Byte := BitVec.ofNat 8 (aesSboxBits >>> (8 * b.toNat))

/-- Multiplication by x in the AES field. -/
def aesX (b : Byte) : Byte := if b.msb then (b <<< 1) ^^^ 0x1B#8 else b <<< 1

/-- Expands the key schedule by one word: `i` is the word's number, `ws` the words so far, the last one first. -/
def aesExpand : Nat → Nat → List (List Byte) → List (List Byte)
  | 0, _, ws => ws
  | k + 1, i, ws =>
    let prev := ws.headD []
    let old := ws.getD 7 []
    let rcon : Byte := 1#8 <<< (i / 8 - 1)
    let t :=
      if i % 8 = 0 then
        match (prev.drop 1 ++ prev.take 1).map aesSub with
        | b :: bs => (b ^^^ rcon) :: bs
        | [] => []
      else if i % 8 = 4 then prev.map aesSub
      else prev
    aesExpand k (i + 1) (xorBytes old t :: ws)

/-- The fifteen round keys of a 32-byte key. -/
def aesRoundKeys (key : List Byte) : List (List Byte) :=
  let ws := (aesExpand 52 8 ((chunks 4 (padTo 32 key)).reverse)).reverse
  (chunks 4 ws).map (fun r => r.flatten)

/-- SubBytes and ShiftRows. -/
def aesSubShift (st : List Byte) : List Byte :=
  (List.range 16).map (fun i => aesSub (st.getD ((i + 4 * (i % 4)) % 16) 0))

/-- MixColumns on one column. -/
def aesMixCol (c : List Byte) : List Byte :=
  let a := c.getD 0 0
  let b := c.getD 1 0
  let d := c.getD 2 0
  let e := c.getD 3 0
  let all := a ^^^ b ^^^ d ^^^ e
  [a ^^^ all ^^^ aesX (a ^^^ b), b ^^^ all ^^^ aesX (b ^^^ d), d ^^^ all ^^^ aesX (d ^^^ e), e ^^^ all ^^^ aesX (e ^^^ a)]

/-- The middle rounds and the last one. -/
def aesRounds : List (List Byte) → List Byte → List Byte
  | [], st => st
  | [k], st => xorBytes (aesSubShift st) k
  | k :: ks, st => aesRounds ks (xorBytes ((chunks 4 (aesSubShift st)).map aesMixCol).flatten k)

/-- AES-256 on one block. [PRESUMED, unsafe: log 10] -/
def aesBlock (key blk : List Byte) : List Byte :=
  match aesRoundKeys key with
  | k :: ks => aesRounds ks (xorBytes (padTo 16 blk) k)
  | [] => []

/-- `n` blocks of AES-256 keystream; `ctr` gives the counter block of each (R96). -/
def aesCtr (key : List Byte) (ctr : Nat → List Byte) (n : Nat) : List Byte :=
  ((List.range n).map (fun i => aesBlock key (ctr i))).flatten

/-- Multiplication in the field of GHASH; the polynomial's first bit is the highest bit of the number. -/
def ghashMulAux (v x : Nat) : Nat → Nat → Nat
  | 0, z => z
  | k + 1, z =>
    let z := if x.testBit k then z ^^^ v else z
    let v := if v % 2 = 1 then (v >>> 1) ^^^ (0xE1 * 2 ^ 120) else v >>> 1
    ghashMulAux v x k z

/-- GHASH over whole blocks. -/
def ghash (h : Nat) (bs : List Byte) : Nat :=
  (chunks 16 bs).foldl (fun y blk => ghashMulAux h (y ^^^ natBE (padTo 16 blk)) 128 0) 0

/-- Zero padding to whole 16-byte blocks. -/
def pad16 (bs : List Byte) : List Byte := padTo (16 * ceilDiv bs.length 16) bs

/-- The GCM tag of a ciphertext with a 96-bit nonce. -/
def gcmTag (key iv aad ct : List Byte) : List Byte :=
  let h := natBE (aesBlock key (List.replicate 16 0))
  let s := ghash h (pad16 aad ++ pad16 ct ++ bytesBE 8 (8 * aad.length) ++ bytesBE 8 (8 * ct.length))
  xorBytes (bytesBE 16 s) (aesBlock key (padTo 12 iv ++ bytesBE 4 1))

/-- The GCM keystream applied to a text. -/
def gcmCtr (key iv text : List Byte) : List Byte :=
  xorBytes text (aesCtr key (fun i => padTo 12 iv ++ bytesBE 4 (i + 2)) (ceilDiv text.length 16))

/-- AES-256-GCM encryption: ciphertext and 16-byte tag. [PRESUMED, unsafe: log 10] -/
def gcmSeal (key iv aad text : List Byte) : List Byte × List Byte :=
  let ct := gcmCtr key iv text
  (ct, gcmTag key iv aad ct)

/-- AES-256-GCM decryption: none where the tag does not match. [PRESUMED, unsafe: log 10] -/
def gcmOpen (key iv aad ct tag : List Byte) : Option (List Byte) :=
  if gcmTag key iv aad ct = tag then some (gcmCtr key iv ct) else none

/-- One constant of a packed table of 64-bit words. -/
def word64 (table t : Nat) : W64 := BitVec.ofNat 64 (table >>> (64 * t))

/-- The message schedule, the last word first. -/
def shaSchedule : Nat → List W64 → List W64
  | 0, ws => ws
  | k + 1, ws =>
    let g (i : Nat) : W64 := ws.getD i 0
    let s0 (x : W64) := x.rotateRight 1 ^^^ x.rotateRight 8 ^^^ (x >>> 7)
    let s1 (x : W64) := x.rotateRight 19 ^^^ x.rotateRight 61 ^^^ (x >>> 6)
    shaSchedule k ((s1 (g 1) + g 6 + s0 (g 14) + g 15) :: ws)

/-- The eight working variables. -/
structure ShaVars where
  a : W64
  b : W64
  c : W64
  d : W64
  e : W64
  f : W64
  g : W64
  h : W64
deriving DecidableEq, Repr

/-- The rounds of the compression function. -/
def shaRounds : List W64 → Nat → ShaVars → ShaVars
  | [], _, v => v
  | w :: ws, t, v =>
    let t1 := v.h + (v.e.rotateRight 14 ^^^ v.e.rotateRight 18 ^^^ v.e.rotateRight 41) +
      ((v.e &&& v.f) ^^^ (~~~v.e &&& v.g)) + word64 sha512K t + w
    let t2 := (v.a.rotateRight 28 ^^^ v.a.rotateRight 34 ^^^ v.a.rotateRight 39) +
      ((v.a &&& v.b) ^^^ (v.a &&& v.c) ^^^ (v.b &&& v.c))
    shaRounds ws (t + 1) ⟨t1 + t2, v.a, v.b, v.c, v.d + t1, v.e, v.f, v.g⟩

/-- One block of SHA-512. -/
def shaBlock (v : ShaVars) (blk : List Byte) : ShaVars :=
  let ws := ((chunks 8 (padTo 128 blk)).map (fun b => BitVec.ofNat 64 (natBE b))).reverse
  let r := shaRounds (shaSchedule 64 ws).reverse 0 v
  ⟨v.a + r.a, v.b + r.b, v.c + r.c, v.d + r.d, v.e + r.e, v.f + r.f, v.g + r.g, v.h + r.h⟩

/-- SHA-512. [PRESUMED, unsafe: log 10] -/
def sha512 (msg : List Byte) : List Byte :=
  let zeros := (240 - (msg.length + 1) % 128 + 128) % 128
  let m := msg ++ [0x80#8] ++ List.replicate zeros 0 ++ bytesBE 16 (8 * msg.length)
  let h := word64 sha512H
  let v := (chunks 128 m).foldl shaBlock ⟨h 0, h 1, h 2, h 3, h 4, h 5, h 6, h 7⟩
  ([v.a, v.b, v.c, v.d, v.e, v.f, v.g, v.h].map (fun w => bytesBE 8 w.toNat)).flatten

/-- HMAC-SHA-512. [PRESUMED, unsafe: log 10] -/
def hmac512 (key msg : List Byte) : List Byte :=
  let k := padTo 128 (if key.length > 128 then sha512 key else key)
  let x (c : Byte) := k.map (· ^^^ c)
  sha512 (x 0x5C#8 ++ sha512 (x 0x36#8 ++ msg))

/-- One block cipher call of CTR_DRBG: the key and counter after `n` blocks, with the blocks. -/
def drbgBlocks (key : List Byte) (v n : Nat) : List Byte :=
  aesCtr key (fun i => bytesBE 16 ((v + i + 1) % 2 ^ 128)) n

/-- CTR_DRBG_Update with AES-256 and 48 bytes of provided data: the new key and V. -/
def drbgUpdate (key : List Byte) (v : Nat) (data : List Byte) : List Byte × Nat :=
  let t := xorBytes (drbgBlocks key v 3) (padTo 48 data)
  (t.take 32, natBE (t.drop 32))

/-- CTR_DRBG_Generate of `n` bytes without additional input: the bytes, the new key and V. [PRESUMED, unsafe: log 10] -/
def drbgGenerate (key : List Byte) (v n : Nat) : List Byte × List Byte × Nat :=
  let b := ceilDiv n 16
  let out := (drbgBlocks key v b).take n
  let (k', v') := drbgUpdate key ((v + b) % 2 ^ 128) []
  (out, k', v')

/-- The rounds of Philox4x32. -/
def philoxRounds : Nat → (W32 × W32 × W32 × W32) → W32 → W32 → (W32 × W32 × W32 × W32)
  | 0, c, _, _ => c
  | k + 1, (c0, c1, c2, c3), k0, k1 =>
    let p0 := 0xD2511F53 * c0.toNat
    let p1 := 0xCD9E8D57 * c2.toNat
    let hi (p : Nat) : W32 := BitVec.ofNat 32 (p / 2 ^ 32)
    let lo (p : Nat) : W32 := BitVec.ofNat 32 p
    philoxRounds k (hi p1 ^^^ c1 ^^^ k0, lo p1, hi p0 ^^^ c3 ^^^ k1, lo p0)
      (k0 + 0x9E3779B9#32) (k1 + 0xBB67AE85#32)

/-- Philox4x32-10: counter words 0 to 3 and key words 0 and 1. [PRESUMED, unsafe: log 10] -/
def philox (c : W32 × W32 × W32 × W32) (k0 k1 : W32) : List W32 :=
  let (a, b, d, e) := philoxRounds 10 c k0 k1
  [a, b, d, e]

/-- MGF1 with SHA-512. [PRESUMED, unsafe: log 10] -/
def mgf1 (seed : List Byte) (n : Nat) : List Byte :=
  (((List.range (ceilDiv n 64)).map (fun i => sha512 (seed ++ bytesBE 4 i))).flatten).take n

/-- Modular power by the bits of the exponent, from bit `k` down. -/
def modPow (m b e : Nat) : Nat → Nat → Nat
  | 0, r => r
  | k + 1, r =>
    let r := r * r % m
    modPow m b e k (if e.testBit k then r * b % m else r)

/-- RSASSA-PSS verification with SHA-512, MGF1 and a 64-byte salt, for a modulus of 4,096 bits (RFC 8017).
[PRESUMED, unsafe: log 10] -/
def pssVerify (n e : Nat) (msg sig : List Byte) : Bool :=
  if n < 2 then false else
  let em := bytesBE 512 (modPow n (natBE sig % n) e (Nat.log2 e + 1) 1)
  let db := em.take 447
  let h := (em.drop 447).take 64
  let d := xorBytes db (mgf1 h 447)
  let d := match d with
    | b :: bs => (b &&& 0x7F#8) :: bs
    | [] => []
  let salt := d.drop 383
  decide (natBE sig < n) && decide (em.getD 511 0 = 0xBC#8) && decide ((db.headD 0) &&& 0x80#8 = 0#8) &&
    (d.take 382).all (· = 0#8) && decide (d.getD 382 0 = 1#8) &&
    decide (sha512 (List.replicate 8 0 ++ sha512 msg ++ salt) = h)

end Sys2Proof.Machine
end

