-- ==== Sys2Proof/Machine/Flags.lean ====
section
/-! DEFINITION. The sticky flags: where an operation leaves them (R79, R111) and how a tile register shows them. -/

namespace Sys2Proof.Machine

/-- The flags as bits 54..52 of a tile register, and as the low bits of a completion's FLAGS: OVF, INV, SAT
(Table 3-5, Table 10-9). -/
def Flags.bits (f : Flags) : Nat := b2n f.ovf + 2 * b2n f.inv + 4 * b2n f.sat

/-- A tile register with flags set in it. -/
def tileOr (w : W64) (f : Flags) : W64 := w ||| BitVec.ofNat 64 (f.bits * 2 ^ 52)

/-- The flags that a tile register holds. -/
def tileFlags (w : W64) : Nat := fld w.toNat 52 3

/-- A tile register with its flags cleared (TFLG). -/
def tileClear (w : W64) : W64 := w &&& ~~~ BitVec.ofNat 64 (7 * 2 ^ 52)

/-- A mill with the flags of the bundle in progress set in its tile registers. -/
def Mill.settle (x : Mill) : Mill :=
  { x with t := x.late.foldl (fun v p => v.set p.1 (tileOr v[p.1] p.2)) x.t, late := [] }

/-- Sets the sticky flags that an operation wrote through tile register `t`: in the register when the bundle ends,
and in the item at once (R79). -/
def State.setFlags (s : State) (m : MillName) (item : Nat) (t : Fin 16) (f : Flags) : State :=
  (s.modMill m (fun x => { x with late := x.late ++ [(t, f)] })).modItem item
    (fun i => { i with flags := i.flags.or f })

end Sys2Proof.Machine
end

