-- ==== Sys2Proof/Machine/Operands.lean ====
section
/-! DEFINITION. The operands of the mill: tile registers and the addresses of their rows, elements and scales
(Table 3-5, R78, R87), element values (Table 3-8, R86), and the conversion of results into a tile (R89). -/

namespace Sys2Proof.Machine

/-- Status ACCESS_VIOLATION (Table 10-13). -/
def stAccess : Byte := 0x06
/-- Status FORMAT_ERROR. -/
def stFormat : Byte := 0x07

/-- A scratchpad: its first byte's place in the model's memory. -/
abbrev SpadBase := Nat

/-- The results of a list, or the status of the first that has none. -/
def collect {α : Type} : List (Except Byte α) → Except Byte (List α)
  | [] => .ok []
  | x :: rest =>
    match x, collect rest with
    | .ok v, .ok vs => .ok (v :: vs)
    | .error e, _ => .error e
    | _, .error e => .error e

/-- The fields of a tile register (Table 3-5). -/
structure Tile where
  base   : Nat
  rows   : Nat
  rowlen : Nat
  stride : Nat
  fmt    : Nat
deriving DecidableEq, Repr

/-- The fields of a tile register's word. -/
def tileOf (w : W64) : Tile :=
  { base := fld w.toNat 0 15, rows := fld w.toNat 15 9, rowlen := fld w.toNat 24 9,
    stride := fld w.toNat 33 15, fmt := fld w.toNat 48 4 }

/-- Row pitch in units of 64 B; a STRIDE of 0 means ROWLEN. -/
def Tile.pitch (t : Tile) : Nat := if t.stride = 0 then t.rowlen else t.stride
/-- First byte of row `i` (R78). -/
def Tile.rowAt (t : Tile) (i : Nat) : Nat := (t.base + i * t.pitch) * 64
/-- First byte of the scale block (R87). -/
def Tile.scaleAt (t : Tile) : Nat := (t.base + t.rows * t.pitch) * 64

/-- Bytes of a tile's rows. -/
def Tile.bytes (t : Tile) : Nat := t.rows * (t.rowlen * 64)

/-- Bits of an element code. -/
def fmtBits (f : Nat) : Nat :=
  match f with
  | 0x3 => 16
  | 0x4 => 16
  | 0x5 => 32
  | 0x6 => 32
  | 0xA => 6
  | 0xB => 6
  | 0xC => 4
  | 0xD => 32
  | 0xE => 64
  | _ => 8

/-- An MX format, with a scale for each block of 32 elements. -/
def fmtMx (f : Nat) : Bool := decide (0x7 ≤ f) && decide (f ≤ 0xC)

/-- Elements of a row. -/
def Tile.elems (t : Tile) : Nat := t.rowlen * 512 / fmtBits t.fmt

/-- A tile used as elements: a defined format that is no ring format, a row count, a row length within its range, and
in an MX format a whole number of blocks in each row (R78, R85, R87). [DEDUCED, unsafe: log 16] -/
def Tile.check (t : Tile) : Bool :=
  decide (1 ≤ t.rows) && decide (t.rows ≤ 256) && decide (1 ≤ t.rowlen) && decide (t.rowlen ≤ 256) &&
    decide (t.fmt < 0xD) && (!fmtMx t.fmt || t.rowlen * 512 % (32 * fmtBits t.fmt) = 0)

/-- A tile used as bytes, whatever its format, except the reserved one (R78, Table 3-8). [DEDUCED, unsafe: log 16] -/
def Tile.checkBytes (t : Tile) : Bool :=
  decide (1 ≤ t.rows) && decide (t.rows ≤ 256) && decide (1 ≤ t.rowlen) && decide (t.rowlen ≤ 256) &&
    decide (t.fmt ≠ 0xF)

/-- Size of the scratchpad. -/
def spadBytes : Nat := 2 ^ 21

/-- `n` bytes of the scratchpad, refused where one lies at or beyond 2 MiB (R78). -/
def spadGet (m : List Host.Cell) (b : SpadBase) (off n : Nat) : Except Byte (List Byte) :=
  if off + n ≤ spadBytes then .ok (memBytes m (b + off) n) else .error stAccess

/-- Bytes written to the scratchpad, refused where one lies at or beyond 2 MiB. -/
def spadPut (m : List Host.Cell) (b : SpadBase) (off : Nat) (bs : List Byte) : Except Byte (List Host.Cell) :=
  if off + bs.length ≤ spadBytes then .ok (memPuts m (b + off) bs) else .error stAccess

/-- The first `n` element codes of row `i`. -/
def Tile.codes (t : Tile) (m : List Host.Cell) (b : SpadBase) (i n : Nat) : Except Byte (List Nat) :=
  match spadGet m b (t.rowAt i) (ceilDiv (n * fmtBits t.fmt) 8) with
  | .error e => .error e
  | .ok bs =>
    let w := natLE bs
    .ok ((List.range n).map (fun j => fld w (j * fmtBits t.fmt) (fmtBits t.fmt)))

/-- The scale bytes of the first `n` elements of row `i`; 127, the scale 2^0, for plain formats (R88). -/
def Tile.scales (t : Tile) (m : List Host.Cell) (b : SpadBase) (i n : Nat) : Except Byte (List Byte) :=
  if fmtMx t.fmt then spadGet m b (t.scaleAt + i * (t.elems / 32)) (ceilDiv n 32)
  else .ok (List.replicate (ceilDiv n 32) 127)

/-- An integer code of `bits` bits as a signed number. -/
def signedCode (bits c : Nat) : Int := if 2 ^ (bits - 1) ≤ c then (c : Int) - 2 ^ bits else c

/-- The value of an element code under its format, the scale aside (Table 3-8, R86). -/
def codeValue (f c : Nat) : Fp :=
  match f with
  | 0x0 => fpOfInt (signedCode 8 c) 0
  | 0x1 => specE4M3.decode c
  | 0x2 => specE5M2.decode c
  | 0x3 => specBf16.decode c
  | 0x4 => specFp16.decode c
  | 0x5 => specFp32.decode c
  | 0x6 => fpOfInt (signedCode 32 c) 0
  | 0x7 => fpOfInt (signedCode 8 c) (-6)
  | 0x8 => specE4M3.decode c
  | 0x9 => specE5M2.decode c
  | 0xA => specE3M2.decode c
  | 0xB => specE2M3.decode c
  | 0xC => specE2M1.decode c
  | _ => .nan

/-- A value scaled by an E8M0 byte; 0xFF makes it NaN (R86). -/
def scaled (v : Fp) (e : Byte) : Fp :=
  if e = 0xFF then .nan else
  match v with
  | .fin n m x => .fin n m (x + ((e.toNat : Int) - 127))
  | w => w

/-- The exact value of an element with its scale. -/
def elemValue (f c : Nat) (e : Byte) : Fp := if fmtMx f then scaled (codeValue f c) e else codeValue f c

/-- The first `n` values of row `i`. -/
def Tile.values (t : Tile) (m : List Host.Cell) (b : SpadBase) (i n : Nat) : Except Byte (List Fp) :=
  match t.codes m b i n, t.scales m b i n with
  | .ok cs, .ok es => .ok ((indexed cs).map (fun p => elemValue t.fmt p.2 (es.getD (p.1 / 32) 127)))
  | .error e, _ => .error e
  | _, .error e => .error e

/-- The first `n` values of row `i`, entered into fp32 (R95), with the flags of that entry. -/
def Tile.f32s (t : Tile) (m : List Host.Cell) (b : SpadBase) (i n : Nat) : Except Byte (List (W32 × Flags)) :=
  match t.values m b i n with
  | .ok vs => .ok (vs.map toF32)
  | .error e => .error e

-- ## Conversion (R89, Table 4-2)

/-- The spec of a float element format. -/
def fmtSpec (f : Nat) : FpSpec :=
  match f with
  | 0x1 => specE4M3
  | 0x2 => specE5M2
  | 0x3 => specBf16
  | 0x4 => specFp16
  | 0x8 => specE4M3
  | 0x9 => specE5M2
  | 0xA => specE3M2
  | 0xB => specE2M3
  | 0xC => specE2M1
  | _ => specFp32

/-- A value converted into a float element format: its code and flags. A format without an element NaN takes 0. -/
def convFloat (s : FpSpec) (sat : Bool) (v : Fp) : Nat × Flags :=
  let past (n : Bool) (fin : Bool) : Nat × Flags :=
    if sat then (s.signBit n + s.maxCode, { sat := true })
    else if s.hasInf then (s.signBit n + s.infCode, { ovf := fin })
    else if s.oneNan then (s.nanCode, { inv := true })
    else (s.signBit n + s.maxCode, { sat := true })
  match v with
  | .nan => (if s.oneNan || s.ieeeNan then s.nanCode else 0, {})
  | .inf n => if s.hasInf && !sat then (s.signBit n + s.infCode, {}) else past n false
  | .fin n m e =>
    match s.encodeFin m e with
    | some c => (s.signBit n + c, {})
    | none => past n true

/-- An integer with its saturation into `bits` bits. -/
def convInt (bits : Nat) (v : Fp) : Nat × Flags :=
  let lim : Int := 2 ^ (bits - 1)
  let enc (x : Int) : Nat := (x % (2 ^ bits : Int)).toNat
  match v with
  | .nan => (0, { inv := true })
  | .inf n => (enc (if n then -lim else lim - 1), { sat := true })
  | .fin n m e =>
    let x := fpToInt n m e
    if x > lim - 1 then (enc (lim - 1), { sat := true })
    else if x < -lim then (enc (-lim), { sat := true })
    else (enc x, {})

/-- A value converted into a plain format; fp32 is no narrower than a result, so nothing saturates into it. -/
def convPlain (f : Nat) (sat : Bool) (v : Fp) : Nat × Flags :=
  match f with
  | 0x0 => convInt 8 v
  | 0x6 => convInt 32 v
  | _ => convFloat (fmtSpec f) (sat && f ≠ 0x5) v

/-- Exponent of the element format's largest power of two (R89). -/
def fmtEmax (f : Nat) : Int := if f = 0x7 then 0 else (fmtSpec f).emaxTop

/-- The magnitude of a value as mantissa and exponent, the larger of two. -/
def fpMaxMag (a b : Nat × Int) : Nat × Int :=
  let lo := min a.2 b.2
  if a.1 * 2 ^ (a.2 - lo).toNat < b.1 * 2 ^ (b.2 - lo).toNat then b else a

/-- The scale byte of a block (R89): 2^(floor(log2 m) − emax), 2^−127 for zeros; the byte of a block with a NaN in a
format without an element NaN is 0xFF. A block with an infinity counts as of the largest fp32 magnitude. -/
def blockScale (f : Nat) (vs : List Fp) : Byte :=
  let noNan := f = 0x7 || f = 0xA || f = 0xB || f = 0xC
  if noNan && vs.any (fun v => match v with
      | .nan => true
      | _ => false) then 0xFF else
  let m := vs.foldl (fun acc v => match v with
    | .fin _ k e => if k = 0 then acc else fpMaxMag acc (k, e)
    | .inf _ => fpMaxMag acc (2 ^ 24 - 1, 104)
    | .nan => acc) (0, 0)
  if m.1 = 0 then 0 else
  let x : Int := (Nat.log2 m.1 : Int) + m.2 - fmtEmax f + 127
  BitVec.ofNat 8 (if x < 0 then 0 else if x > 254 then 254 else x.toNat)

/-- A block of values in an MX format: its codes, scale and flags (R89). -/
def convBlock (f : Nat) (sat : Bool) (vs : List Fp) : List Nat × Byte × Flags :=
  let e := blockScale f vs
  if e = 0xFF then (vs.map (fun _ => 0), e, {}) else
  let one (v : Fp) : Nat × Flags :=
    let w := match v with
      | .fin n m x => Fp.fin n m (x - ((e.toNat : Int) - 127))
      | u => u
    if f = 0x7 then
      (match w with
       | .fin n m x => convInt 8 (.fin n m (x + 6))
       | u => convInt 8 u)
    else convFloat (fmtSpec f) sat w
  let rs := vs.map one
  (rs.map (·.1), e, (rs.map (·.2)).foldl Flags.or {})

/-- Element codes packed as bytes from the low bits up. -/
def packCodes (bits : Nat) (cs : List Nat) : List Byte :=
  bytesLE (ceilDiv (cs.length * bits) 8) (cs.foldr (fun c acc => acc * 2 ^ bits + c) 0)

/-- Writes values as the first elements of row `i` in the tile's format, scales with them: the memory and the flags. -/
def Tile.writeRow (t : Tile) (m : List Host.Cell) (b : SpadBase) (sat : Bool) (i : Nat) (vs : List Fp) :
    Except Byte (List Host.Cell × Flags) :=
  if fmtMx t.fmt then
    let bs := (chunks 32 vs).map (convBlock t.fmt sat)
    let flags := (bs.map (fun x => x.2.2)).foldl Flags.or {}
    match spadPut m b (t.rowAt i) (packCodes (fmtBits t.fmt) (bs.map (·.1)).flatten) with
    | .error e => .error e
    | .ok m =>
      match spadPut m b (t.scaleAt + i * (t.elems / 32)) (bs.map (fun x => x.2.1)) with
      | .error e => .error e
      | .ok m => .ok (m, flags)
  else
    let rs := vs.map (convPlain t.fmt sat)
    match spadPut m b (t.rowAt i) (packCodes (fmtBits t.fmt) (rs.map (·.1))) with
    | .error e => .error e
    | .ok m => .ok (m, (rs.map (·.2)).foldl Flags.or {})

/-- Runs `f` on each row number, carrying memory and flags, until one fails. -/
def overRows (f : List Host.Cell → Nat → Except Byte (List Host.Cell × Flags)) :
    List Nat → List Host.Cell → Flags → Except Byte (List Host.Cell × Flags)
  | [], m, fl => .ok (m, fl)
  | i :: is, m, fl =>
    match f m i with
    | .error e => .error e
    | .ok (m, g) => overRows f is m (fl.or g)

/-- The bytes of a tile's rows, in row order (Table 3-14). -/
def Tile.rowBytes (t : Tile) (m : List Host.Cell) (b : SpadBase) : Except Byte (List Byte) :=
  if t.checkBytes then
    (if t.rowAt (t.rows - 1) + t.rowlen * 64 ≤ spadBytes then
      .ok ((List.range t.rows).map (fun i => memBytes m (b + t.rowAt i) (t.rowlen * 64))).flatten
    else .error stAccess)
  else .error stFormat

/-- Bytes written to the rows of a tile, in row order. -/
def Tile.putRows (t : Tile) (m : List Host.Cell) (b : SpadBase) (bs : List Byte) : Except Byte (List Host.Cell) :=
  if t.checkBytes then
    (if t.rowAt (t.rows - 1) + t.rowlen * 64 ≤ spadBytes then
      .ok ((List.range t.rows).foldl (fun m i =>
        memPuts m (b + t.rowAt i) ((bs.drop (i * (t.rowlen * 64))).take (t.rowlen * 64))) m)
    else .error stAccess)
  else .error stFormat

end Sys2Proof.Machine
end

