-- ==== Sys2Proof/Machine/Mill.lean ====
section
/-! DEFINITION. The mill sequencer: when a slot's instruction acts, how the sequencer goes on (R80, R84), the control
slot (Table 3-7), barriers (R98, R99), and what a failed check does (R103). A bundle is given as its slots' commands,
the control slot's last; every slot then reads the registers as they stand before the bundle (R80). -/

namespace Sys2Proof.Machine

/-- The item for which the mill may issue: it runs one, has not ended it, is not halted and waits at no barrier. -/
def Mill.issuing (x : Mill) : Option Nat := if x.ended || x.halted || x.bar.isSome then none else x.item

/-- A scalar register; s0 reads as 0 (Table 3-4). -/
def Mill.sreg (x : Mill) (i : Fin 16) : W32 := if i = 0 then 0 else x.s[i]

/-- Writes a scalar register; a write to s0 is discarded. -/
def Mill.setS (x : Mill) (i : Fin 16) (v : W32) : Mill := if i = 0 then x else { x with s := x.s.set i v }

/-- Where the sequencer goes after the bundle at `pc`: at the last bundle of a loop the counter falls and the body
runs again, or the loop ends, and the loop around it is looked at in turn (R84). -/
def nextPc : List LoopFrame → Nat → Vector W32 4 → Nat × List LoopFrame × Vector W32 4
  | [], pc, lc => (pc + 1, [], lc)
  | f :: rest, pc, lc =>
    if pc ≠ f.last then (pc + 1, f :: rest, lc)
    else
      let n := lc[f.lc] - 1
      if n = 0 then nextPc rest pc (lc.set f.lc 0) else (f.first, f :: rest, lc.set f.lc n)

/-- The bundle at `pc` is done: its flags settle and the sequencer goes on. -/
def Mill.advance (x : Mill) : Mill :=
  let n := nextPc x.loops x.pc x.lc
  { x.settle with pc := n.1, loops := n.2.1, lc := n.2.2 }

/-- Executes a control-slot instruction: `f` is its effect before the sequencer goes on. -/
def State.control (s : State) (m : MillName) (f : Mill → Mill) : State :=
  match (s.mill m).issuing with
  | none => s
  | some _ => s.modMill m (fun x => (f x).advance)

/-- The last bundle passed over becomes the current one when the condition holds (SKIPZ, SKIPNZ). -/
def Mill.skip (x : Mill) (n : Byte) (c : Bool) : Mill := if c then { x with pc := x.pc + n.toNat } else x

/-- NOP (R83). [DESIGN CHOICE, unsafe: log 13] -/
def execNop (m : MillName) (s : State) : Host.Outcome State Fault Refusal := .next (s.control m id)

/-- A mill that enters a loop, or passes over its body when the count is 0. -/
def Mill.loop (x : Mill) (lc : Fin 4) (c : Fin 16) (len : BitVec 12) : Mill :=
  if x.sreg c = 0 then { x with pc := x.pc + len.toNat }
  else { x with lc := x.lc.set lc (x.sreg c),
                loops := { lc := lc, first := x.pc + 1, last := x.pc + len.toNat } :: x.loops }

/-- LOOP (R84). -/
def execLoop (m : MillName) (lc : Fin 4) (c : Fin 16) (len : BitVec 12) (s : State) :
    Host.Outcome State Fault Refusal := .next (s.control m (fun x => x.loop lc c len))

/-- SKIPZ (R84). -/
def execSkipz (m : MillName) (c : Fin 16) (n : Byte) (s : State) : Host.Outcome State Fault Refusal :=
  .next (s.control m (fun x => x.skip n (x.sreg c = 0)))

/-- SKIPNZ (R84). -/
def execSkipnz (m : MillName) (c : Fin 16) (n : Byte) (s : State) : Host.Outcome State Fault Refusal :=
  .next (s.control m (fun x => x.skip n (x.sreg c ≠ 0)))

/-- SADDI: a signed immediate added modulo 2^32. -/
def execSaddi (m : MillName) (sd sa : Fin 16) (imm : BitVec 11) (s : State) : Host.Outcome State Fault Refusal :=
  .next (s.control m (fun x => x.setS sd (x.sreg sa + imm.signExtend 32)))

/-- The functions of SOP (Table 3-7). -/
def sopFunc (func : Fin 8) (a b : W32) : W32 :=
  match func with
  | 0 => a + b
  | 1 => a - b
  | 2 => a &&& b
  | 3 => a ||| b
  | 4 => a ^^^ b
  | 5 => a <<< (b.toNat % 32)
  | 6 => a >>> (b.toNat % 32)
  | 7 => a * b

/-- SOP (Table 3-7). -/
def execSop (m : MillName) (sd sa sb : Fin 16) (func : Fin 8) (s : State) : Host.Outcome State Fault Refusal :=
  .next (s.control m (fun x => x.setS sd (sopFunc func (x.sreg sa) (x.sreg sb))))

/-- SLI: the immediate, zero-extended. -/
def execSli (m : MillName) (sd : Fin 16) (imm : BitVec 15) (s : State) : Host.Outcome State Fault Refusal :=
  .next (s.control m (fun x => x.setS sd (imm.setWidth 32)))

/-- SLDC: a constant-table entry. -/
def execSldc (m : MillName) (sd : Fin 16) (index : BitVec 12) (s : State) : Host.Outcome State Fault Refusal :=
  .next (s.control m (fun x => x.setS sd (BitVec.ofNat 32 (imgConst (x.image.getD []) index.toNat))))

/-- The values of Table 3-3 and R164 for a mill. -/
def Item.argument (i : Item) (ord : Nat) (index : Fin 8) : W32 :=
  if index = 0 then BitVec.ofNat 32 i.gran
  else if index = 6 then BitVec.ofNat 32 ord
  else if index = 7 then BitVec.ofNat 32 i.first
  else i.args.getD (index.val - 1) 0

/-- ARG (R72). -/
def execArg (m : MillName) (sd : Fin 16) (index : Fin 8) (s : State) : Host.Outcome State Fault Refusal :=
  let item := (((s.mill m).issuing).bind s.item?).getD { id := 0, tenant := 0, cls := 0 }
  .next (s.control m (fun x => x.setS sd (item.argument x.ord index)))

/-- A tile register with one field replaced from the low bits of a scalar (TSET); fields 5 to 7 do not exist. -/
def tileSet (w : W64) (field : Fin 5) (v : W32) : W64 :=
  match field with
  | 0 => BitVec.ofNat 64 (putFld w.toNat 0 15 v.toNat)
  | 1 => BitVec.ofNat 64 (putFld w.toNat 15 9 v.toNat)
  | 2 => BitVec.ofNat 64 (putFld w.toNat 24 9 v.toNat)
  | 3 => BitVec.ofNat 64 (putFld w.toNat 33 15 v.toNat)
  | 4 => BitVec.ofNat 64 (putFld w.toNat 48 4 v.toNat)

/-- TSET (Table 3-5). -/
def execTset (m : MillName) (t : Fin 16) (field : Fin 5) (c : Fin 16) (s : State) : Host.Outcome State Fault Refusal :=
  .next (s.control m (fun x => { x with t := x.t.set t (tileSet x.t[t] field (x.sreg c)) }))

/-- TADD: BASE grows modulo 2^15. -/
def execTadd (m : MillName) (t c : Fin 16) (s : State) : Host.Outcome State Fault Refusal :=
  .next (s.control m (fun x => { x with
    t := x.t.set t (tileSet x.t[t] 0 (BitVec.ofNat 32 (fld x.t[t].toNat 0 15 + (x.sreg c).toNat % 2 ^ 15))) }))

/-- TLD: a tile-table entry. -/
def execTld (m : MillName) (t : Fin 16) (index : BitVec 12) (s : State) : Host.Outcome State Fault Refusal :=
  .next (s.control m (fun x => { x with
    t := x.t.set t (BitVec.ofNat 64 (imgTile (x.image.getD []) index.toNat)) }))

/-- BAR: the mill waits; the sequencer goes on when the barrier completes (R98). -/
def execBar (m : MillName) (id : BitVec 5) (setScope : Bool) (timeout : BitVec 10) (s : State) :
    Host.Outcome State Fault Refusal :=
  .next (match (s.mill m).issuing with
    | none => s
    | some _ => s.modMill m (fun x => { x with bar := some { id := id, scope := setScope, timeout := timeout } }))

/-- No store of the mill is still on its way to its window. -/
def Mill.storesDone (x : Mill) : Bool :=
  x.tags.toList.all (fun t => match t with
    | some { store := some _ } => false
    | _ => true)

/-- The mills of an item that a barrier joins: those of one race, or all. -/
def Item.joined (i : Item) (scope : Option RaceId) : List MillName :=
  match scope with
  | none => i.mills
  | some r => i.mills.filter (fun m => m.race = r)

/-- The mill waits at this barrier. -/
def Mill.waitsAt (x : Mill) (item : Nat) (id : BitVec 5) (setScope : Bool) : Bool :=
  x.item = some item && match x.bar with
    | some b => b.id = id && b.scope = setScope
    | none => false

/-- BARRIER_COMPLETE: every participant waits and its earlier stores have arrived; all go on at once (R98). -/
def execBarrierComplete (item : Nat) (id : BitVec 5) (scope : Option RaceId) (s : State) :
    Host.Outcome State Fault Refusal :=
  .next (match s.item? item with
    | none => s
    | some i =>
      let ms := i.joined scope
      if !ms.isEmpty && ms.all (fun m => (s.mill m).waitsAt item id scope.isNone && (s.mill m).storesDone) then
        forEach ms s (fun s m => s.modMill m (fun x => { x with bar := none }.advance))
      else s)

/-- BARRIER_TIMEOUT: the item stops with the status, rolled back and not replayed (R99).
[DESIGN CHOICE, unsafe: log 3; DEDUCED, unsafe: log 21] -/
def execBarrierTimeout (m : MillName) (s : State) : Host.Outcome State Fault Refusal :=
  .next (match (s.mill m).item, (s.mill m).bar with
    | some id, some _ => s.stopItem id 0x08
    | _, _ => s)

/-- WAITM: goes on once every named tag is idle (R82). -/
def execWaitm (m : MillName) (tags : W16) (s : State) : Host.Outcome State Fault Refusal :=
  let x := s.mill m
  .next (if (List.finRange 16).any (fun t => tags.getLsbD t.val && x.tags[t].isSome) then s else s.control m id)

/-- RNGRD: the value at the head of the tenant's response queue, popped for good (R389, R390); in the fatal alarm the
item stops with RNG_FAIL (R393); it waits on an empty queue. [DEDUCED, unsafe: log 20] -/
def execRngrd (m : MillName) (sd : Fin 16) (s : State) : Host.Outcome State Fault Refusal :=
  .next (match (s.mill m).issuing with
    | none => s
    | some id =>
      if s.rng.fatal then s.stopItem id 0x13 else
      if s.rng.rawActive then s else
      match s.owner m.race with
      | none => s
      | some t =>
        match s.tenants[t].values with
        | [] => s
        | v :: rest => (s.modTenant t (fun x => { x with values := rest })).control m (fun x => x.setS sd v))

/-- TFLG: the flags as they stood before the bundle, then cleared; the item's flags stay (R79). -/
def execTflg (m : MillName) (sd t : Fin 16) (s : State) : Host.Outcome State Fault Refusal :=
  .next (s.control m (fun x =>
    { x with t := x.t.set t (tileClear x.t[t]) }.setS sd (BitVec.ofNat 32 (tileFlags x.t[t]))))

/-- END: this mill's part of the item is over (R77). -/
def execEndMill (m : MillName) (s : State) : Host.Outcome State Fault Refusal :=
  .next (match (s.mill m).issuing with
    | none => s
    | some _ => s.modMill m (fun x => { x.settle with ended := true }))

-- ## Failed checks (R102, R103)

/-- A check failed on a mill: the item is cut; a second failure of the physical mill, in a later tick and within
1,024 ticks of the first, retires it, and a race with no spare left goes out of service. [DEDUCED, unsafe: log 136] -/
def State.checkFailed (s : State) (m : MillName) (item : Nat) : State :=
  let p := (s.races[m.race].map[m.mill]).toNat
  let now := s.tick.count.toNat
  let r := s.races[m.race]
  let prior := (sget? (r.firstMis.map (fun x => (x.1, x.2.toNat))) p)
  let second := match prior with
    | some t0 => decide (t0 < now) && decide (now ≤ t0 + 1024)
    | none => false
  let keep := match prior with
    | some t0 => decide (now = t0)
    | none => false
  let s := s.modRace m.race (fun x => { x with
    mismatch := true, lastPm := BitVec.ofNat 5 p, mismCnt := satInc x.mismCnt,
    firstMis := if keep then x.firstMis else sset (sdel x.firstMis p) p s.tick.count })
  if second then
    let s := (s.cutItem item)
    -- a pass on the mill starts again from its promotion items (R182)
    let s := match s.owner m.race with
      | some t => s.rollPasses t (fun _ => true)
      | none => s
    if r.spareUse || r.spareBad || !r.toMap.isEmpty then s.raceOut m.race
    else
      (s.modRace m.race (fun x => { x with retired := true, toMap := [m.mill] })).raiseRace m.race
        { cls := 2, part := 1, index := BitVec.ofNat 16 p }
  else (s.raiseRace m.race { cls := 1, part := 1, index := BitVec.ofNat 16 p }).cutItem item

/-- Runs a slot's operation on the scratchpad: the new memory and flags, or a stop of the item with a status. -/
def State.spadOp (s : State) (m : MillName) (t : Fin 16)
    (f : Mill → SpadBase → Except Byte (List Host.Cell × Flags)) : State :=
  match (s.mill m).issuing with
  | none => s
  | some id =>
    match f (s.mill m) (s.spad m 0) with
    | .error st => s.stopItem id st
    | .ok (mem, fl) => ({ s with mem := mem } : State).setFlags m id t fl

end Sys2Proof.Machine
end

