-- ==== Sys2Proof/Machine/RingUnit.lean ====
section
/-! DEFINITION. The ring unit and the mask expander (Table 3-12, R96, R97, R126, R127). -/

namespace Sys2Proof.Machine

/-- Little-endian ring words of a byte list, as one word-wise operation (R96). -/
def ringMap (w : Bool) (f : Nat → Nat → Nat) (a b : List Byte) : List Byte :=
  let n := if w then 8 else 4
  let xs := chunks n a
  let ys := chunks n b
  ((indexed xs).map (fun p => bytesLE n (f (natLE p.2) (natLE (ys.getD p.1 [])) % 2 ^ (8 * n)))).flatten

/-- Sum of ring words, modulo 2^32 or 2^64 (R126). -/
def ringAdd (w : Bool) (a b : List Byte) : List Byte := ringMap w (fun x y => x + y) a b

/-- Difference of ring words. -/
def ringSub (w : Bool) (a b : List Byte) : List Byte :=
  ringMap w (fun x y => x + (2 ^ (if w then 64 else 32) - y)) a b

/-- The keystream under a seed: `n` bytes from counter block `first`, the block being a 64-bit prefix and the 64-bit
big-endian number of the block (R96, R127). -/
def maskStream (key : BitVec 256) (pre : W64) (first n : Nat) : List Byte :=
  (aesCtr (bytesLE 32 key.toNat) (fun i => bytesBE 8 pre.toNat ++ bytesBE 8 ((first + i) % 2 ^ 64))
    (ceilDiv n 16)).take n

/-- A tile as the ring unit takes it: words, whatever its FORMAT field holds (R96). -/
def Tile.asWords (t : Tile) : Tile := { t with fmt := 0xD }

/-- The bytes that a ring operand gives in D's shape: row by row, as many bytes as D's rows hold. -/
def ringOperand (td t : Tile) (m : List Host.Cell) (b : SpadBase) : Except Byte (List Byte) :=
  ({ t.asWords with rows := td.rows, rowlen := td.rowlen, stride := t.pitch } : Tile).rowBytes m b

/-- A ring operation on memory: `f` gives D's bytes from A's and B's (no flags, R96). -/
def ringOp (td : Tile) (srcs : List Tile) (f : List (List Byte) → List Byte) (m : List Host.Cell) (b : SpadBase) :
    Except Byte (List Host.Cell × Flags) :=
  match collect (srcs.map (fun t => ringOperand td t m b)) with
  | .error e => .error e
  | .ok xs =>
    match td.asWords.putRows m b (f xs) with
    | .error e => .error e
    | .ok m => .ok (m, {})

/-- Runs a ring operation of two operands. -/
def State.ring2 (s : State) (m : MillName) (d a b : Fin 16) (f : List Byte → List Byte → List Byte) : State :=
  s.spadOp m d (fun x sb => ringOp (tileOf x.t[d]) [tileOf x.t[a], tileOf x.t[b]]
    (fun xs => f (xs.getD 0 []) (xs.getD 1 [])) s.mem sb)

/-- Runs a ring operation of one operand. -/
def State.ring1 (s : State) (m : MillName) (d a : Fin 16) (f : List Byte → List Byte) : State :=
  s.spadOp m d (fun x sb => ringOp (tileOf x.t[d]) [tileOf x.t[a]] (fun xs => f (xs.getD 0 [])) s.mem sb)

/-- The keystream that a mask operation uses for a tile: the seed slot's, from the counter register's block on.
[DEDUCED, safe: log 19] -/
def Mill.keystream (x : Mill) (d : Fin 16) (slot : Fin 4) (c : Fin 16) : List Byte :=
  maskStream x.seeds[slot].key x.seeds[slot].pre (x.sreg c).toNat (tileOf x.t[d]).bytes

/-- RADD: D = A + B. -/
def execRadd (m : MillName) (w : Bool) (d a b : Fin 16) (s : State) : Host.Outcome State Fault Refusal :=
  .next (s.ring2 m d a b (ringAdd w))

/-- RSUB: D = A − B. -/
def execRsub (m : MillName) (w : Bool) (d a b : Fin 16) (s : State) : Host.Outcome State Fault Refusal :=
  .next (s.ring2 m d a b (ringSub w))

/-- RNEG: D = −A. -/
def execRneg (m : MillName) (w : Bool) (d a : Fin 16) (s : State) : Host.Outcome State Fault Refusal :=
  .next (s.ring1 m d a (fun x => ringSub w (x.map (fun _ => 0)) x))

/-- RCPY: D = A. -/
def execRcpy (m : MillName) (_w : Bool) (d a : Fin 16) (s : State) : Host.Outcome State Fault Refusal :=
  .next (s.ring1 m d a id)

/-- RZERO: D = 0. -/
def execRzero (m : MillName) (_w : Bool) (d : Fin 16) (s : State) : Host.Outcome State Fault Refusal :=
  .next (s.spadOp m d (fun x sb => ringOp (tileOf x.t[d]) []
    (fun _ => List.replicate (tileOf x.t[d]).bytes 0) s.mem sb))

/-- RXGEN: D = keystream; only the device's own items hold a seed (R97). [DEDUCED, safe: log 19] -/
def execRxgen (m : MillName) (_w : Bool) (d : Fin 16) (slot : Fin 4) (c : Fin 16) (s : State) :
    Host.Outcome State Fault Refusal :=
  .next (s.spadOp m d (fun x sb => ringOp (tileOf x.t[d]) [] (fun _ => x.keystream d slot c) s.mem sb))

/-- RXADD: D = A + keystream. -/
def execRxadd (m : MillName) (w : Bool) (d a : Fin 16) (slot : Fin 4) (c : Fin 16) (s : State) :
    Host.Outcome State Fault Refusal :=
  .next (s.spadOp m d (fun x sb => ringOp (tileOf x.t[d]) [tileOf x.t[a]]
    (fun xs => ringAdd w (xs.getD 0 []) (x.keystream d slot c)) s.mem sb))

/-- RXSUB: D = A − keystream. -/
def execRxsub (m : MillName) (w : Bool) (d a : Fin 16) (slot : Fin 4) (c : Fin 16) (s : State) :
    Host.Outcome State Fault Refusal :=
  .next (s.spadOp m d (fun x sb => ringOp (tileOf x.t[d]) [tileOf x.t[a]]
    (fun xs => ringSub w (xs.getD 0 []) (x.keystream d slot c)) s.mem sb))

end Sys2Proof.Machine
end

