-- ==== Sys2Proof/Machine/Rounds.lean ====
section
/-! DEFINITION. Secure aggregation: participants and their contexts, segment work and segment items, and what the
commit makes of seeds, drops, closes, releases and ends (chapter 5). The participant table, slot headers, seed log and
segment table of Table 5-1 are kept as data of the round: no path reads their bytes (R131). -/

namespace Sys2Proof.Machine

-- ## Participants (R134)

/-- A participant's entry; an unlisted participant is Unseen, and Dropped once the round was closed (R143). -/
def Round.part (r : Round) (p : Nat) : Part := (sget? r.parts p).getD { state := if r.closed then 4 else 0 }

/-- Participants listed in a state. -/
def Round.listed (r : Round) (st : Nat) : Nat := (r.parts.filter (fun p => p.2.state.toNat = st)).length

/-- Contributors and Self-unmasked participants (R147). -/
def Round.contributors (r : Round) : Nat := r.listed 2 + r.listed 3

/-- Dropped participants. -/
def Round.dropped (r : Round) : Nat :=
  r.listed 4 + (if r.closed then r.partLimit.toNat - r.parts.length else 0)

/-- Sets a participant's entry. -/
def Round.setPart (r : Round) (p : Nat) (e : Part) : Round := { r with parts := sset r.parts p e }

/-- The context of an uploading participant. -/
def State.partCtx? (s : State) (c : Nat) : Option PartCtx :=
  match sget? s.ctxs c with
  | some (.part x) => some x
  | _ => none

/-- Applies `f` to a participant's context. -/
def State.modPartCtx (s : State) (c : Nat) (f : PartCtx → PartCtx) : State :=
  match s.partCtx? c with
  | some x => { s with ctxs := sset s.ctxs c (.part (f x)) }
  | none => s

/-- Frees a context. -/
def State.freeCtx (s : State) (c : Nat) : State := { s with ctxs := sdel s.ctxs c }

/-- The uploading participants of a round slot: context and record. -/
def State.uploads (s : State) (slot : Fin 64) : List (Nat × PartCtx) :=
  s.ctxs.filterMap (fun c => match c.2 with
    | .part x => if x.round = slot then some (c.1, x) else none
    | .session _ => none)

/-- The lowest free context of a tenant (R136). -/
def State.freeContext (s : State) (t : TenantId) : Option Nat :=
  let x := s.tenants[t]
  ((List.range x.ctxCount.toNat).find? (fun i => (sget? s.ctxs (x.ctxBase.toNat + i)).isNone)).map
    (fun i => x.ctxBase.toNat + i)

/-- Abandons an uploading participant (R140): its landed chunks leave the queues, its absorbed chunks are to be
retracted in every segment that holds one. See R142. [DEDUCED, unsafe: log 47] -/
def State.abandon (s : State) (slot : Fin 64) (c : Nat) : State :=
  match s.partCtx? c with
  | none => s
  | some x =>
    if x.abandoning then s else
    let ls := x.slot.toNat
    let s := s.modPartCtx c (fun x => { x with abandoning := true })
    s.modRound slot (fun r =>
      let hdr := (sget? r.slots ls).getD { part := x.part }
      { r with segs := (List.range r.nseg).foldl (fun m g =>
          let e := sget m g {}
          let held := hdr.absorbed.testBit g
          let retract := if held then (e.retract.filter (· < ls)) ++ [ls] ++ (e.retract.filter (ls < ·)) else e.retract
          if held || e.queue.contains ls then
            sset m g { e with queue := e.queue.filter (· ≠ ls), retract := retract }
          else m) r.segs })

/-- Abandoning participants with nothing left to retract become Dropped; their context and slot are freed. -/
def State.settleAbandoned (s : State) (slot : Fin 64) : State :=
  forEach ((s.uploads slot).filter (fun u => u.2.abandoning)) s (fun s u =>
    match s.rounds[slot] with
    | none => s
    | some r =>
      if r.segs.any (fun g => g.2.retract.contains u.2.slot.toNat) then s else
      (s.modRound slot (fun r =>
        { (r.setPart u.2.part.toNat { r.part u.2.part.toNat with state := 4, context := 0 }) with
          slots := sdel r.slots u.2.slot.toNat, retracted := r.retracted + 1 })).freeCtx u.1)

-- ## Segment work (R139, R146)

/-- Seed-log entries that a segment has still to apply. -/
def Round.seedsLeft (r : Round) (g : Nat) : Nat := r.log.length - (sget r.segs g {}).cursor

/-- The running sum may be added (R149): the release waits for it, the kept header was checked against it, every
segment has arrived. -/
def Round.chainReady (r : Round) : Bool :=
  r.state = .chainWait && r.chainHdr.isSome && (List.range r.nseg).all (fun g => r.chainSegs.contains g)

/-- The segment has its running-sum part still to add. -/
def Round.chainDue (r : Round) (g : Nat) : Bool := r.chainReady && !(sget r.segs g {}).chained

/-- Work is pending for a segment. -/
def Round.pendingWork (r : Round) (g : Nat) : Bool :=
  let e := sget r.segs g {}
  r.state ≠ .faulted && r.state ≠ .ending && r.state ≠ .released &&
    (!e.queue.isEmpty || !e.retract.isEmpty || decide (0 < r.seedsLeft g) || r.chainDue g)

/-- The mill of a segment (R130). -/
def State.segMill (s : State) (r : Round) (g : Nat) : Option MillName :=
  let rs := s.racesOf r.tenant
  let race := rs.getD (g % rs.length) 0
  let ms := s.classMills race r.cls
  ms[g / rs.length % max 1 ms.length]?

/-- The landing queue of a segment's mill holds 1,024 chunks of the round, all that it may (Tables 7-7, 7-9).
[DEDUCED, unsafe: log 54] -/
def State.landingFull (s : State) (r : Round) (g : Nat) : Bool :=
  let n := max 1 (s.racesOf r.tenant).length
  let k := max 1 (s.classMills (s.segRace r g) r.cls).length
  decide (1024 ≤ ((r.segs.filter (fun e => e.1 % n = g % n && e.1 / n % k = g / n % k)).map (fun e => e.2.queue.length)).sum)

/-- Units of a segment item and its price: retractions, chunks, seeds, and 1 for the running sum; as many of each, in
that order, as `room` leaves (R139). None where not even the fixed part and one unit fit. [DEDUCED, unsafe: log 54] -/
def State.segPlan (s : State) (slot : Fin 64) (r : Round) (g : Nat) (room : Nat → Nat) :
    Option (List Nat × List (Nat × Nat)) :=
  let _ := slot
  let race := s.segRace r g
  let len := r.segLen g
  let e := sget r.segs g {}
  let fixedOk := decide (2 * len ≤ room (cTa race)) && decide (len ≤ room (cTbW race))
  let chunkCy := ceilDiv len 256
  let seedCy := ceilDiv len 16 + 15
  let fit (cy tb : Nat) : Nat := min (room 0 / max 1 chunkCy - cy) (room (cTbR race) / max 1 len - tb)
  let n1 := min e.retract.length (fit 0 0)
  let n2 := min e.queue.length (fit n1 n1)
  let left := room 0 - (n1 + n2) * chunkCy
  let n3 := min (r.seedsLeft g) (left / seedCy)
  let n4 := if r.chainDue g && decide (n1 + n2 + 1 ≤ room (cTbR race) / max 1 len) &&
               decide (chunkCy ≤ left - n3 * seedCy) then 1 else 0
  if !fixedOk || n1 + n2 + n3 + n4 = 0 then none
  else
    let cy := (n1 + n2 + n4) * chunkCy + n3 * seedCy
    some ([n1, n2, n3, n4], [(0, cy), (cTa race, 2 * len), (cTbR race, (n1 + n2 + n4) * len), (cTbW race, len)])

/-- Applies one seed-log entry to a segment's bytes (R127, R145, R146). -/
def Round.applySeed (r : Round) (g : Nat) (acc : List Byte) (e : SeedRec) : List Byte :=
  let k := maskStream e.seed r.nonce (g * 65536) acc.length
  if e.pair && decide (e.part < e.neigh) then ringAdd r.ring64 acc k else ringSub r.ring64 acc k

/-- Reads the chunks of landing slots and adds or subtracts each (R139, R140). -/
def State.foldChunks (r : Round) (n g : Nat) (race : RaceId) (sub : Bool) :
    List Nat → List Byte → State → State × Access
  | [], acc, s => (s, .ok acc)
  | c :: rest, acc, s =>
    match s.readSpan { race := race, tierB := true, off := r.landOff n g c, len := r.segLen g } false with
    | (s, .ok bs) =>
      State.foldChunks r n g race sub rest (if sub then ringSub r.ring64 acc bs else ringAdd r.ring64 acc bs) s
    | (s, y) => (s, y)

/-- The new bytes of a segment: accumulator, retractions, chunks, seeds, running sum (R139). -/
def State.segSum (s : State) (r : Round) (g : Nat) (units : List Nat) : State × Access :=
  let rs := s.racesOf r.tenant
  let race := s.segRace r g
  let e := sget r.segs g {}
  match s.readSpan { race := race, tierB := false, off := r.accOff rs.length g, len := r.segLen g } false with
  | (s, .ok acc) =>
    (match State.foldChunks r rs.length g race true (e.retract.take (units.getD 0 0)) acc s with
     | (s, .ok acc) =>
       (match State.foldChunks r rs.length g race false (e.queue.take (units.getD 1 0)) acc s with
        | (s, .ok acc) =>
          let acc := ((r.log.drop e.cursor).take (units.getD 2 0)).foldl (fun a x => r.applySeed g a x) acc
          if units.getD 3 0 = 0 then (s, .ok acc) else
          (match s.readSpan { race := race, tierB := true, off := r.chainOff rs.length g, len := r.segLen g } false with
           | (s, .ok bs) => (s, .ok (ringAdd r.ring64 acc bs))
           | (s, y) => (s, y))
        | (s, y) => (s, y))
     | (s, y) => (s, y))
  | (s, y) => (s, y)

/-- SEGMENT_ITEM (R139): the item computes the segment; its commit makes it the newest image. -/
def execSegmentItem (item : Nat) (s : State) : Host.Outcome State Fault Refusal :=
  .next (match s.item? item with
    | none => s
    | some i =>
      match i.kind with
      | .segment slot g =>
        if !i.live then s else
        (match s.rounds[slot] with
         | none => s.endItem item 0 0 []
         | some r =>
           let units := i.args.map (·.toNat)
           let e := sget r.segs g {}
           s.endWith item (s.segSum r g units) (fun s sum => s.endItem item 0 0
             [.segment slot g (e.queue.take (units.getD 1 0)) (e.retract.take (units.getD 0 0))
               (e.cursor + units.getD 2 0) (units.getD 3 0 = 1) sum]))
      | _ => s)

-- ## What a commit does

/-- A landing slot's chunk is to be retracted, in ascending landing-slot order (R139). [DEDUCED, unsafe: log 47] -/
def addRetract (c : Nat) (e : Seg) : Seg :=
  { e with retract := (e.retract.filter (· < c)) ++ [c] ++ (e.retract.filter (c < ·)) }

/-- The absorbed chunks of a committed segment item: each participant counts them, and one whose last chunk it was
becomes a Contributor (R138). -/
def State.absorbed (s : State) (slot : Fin 64) (g : Nat) (chunks : List Nat) : State :=
  forEach chunks s (fun s c =>
    match (s.uploads slot).find? (fun u => u.2.slot.toNat = c) with
    | none => s
    | some (ctx, x) =>
      let s := s.modPartCtx ctx (fun x => { x with absorbed := x.absorbed + 1 })
      let mark (h : SlotHdr) : SlotHdr := { h with absorbed := h.absorbed ||| 2 ^ g }
      let s := s.modRound slot (fun r => { r with slots := smod r.slots c { part := x.part } mark })
      -- a participant abandoned since the item was planned has the chunk retracted again
      let s := if x.abandoning then s.modRound slot (fun r => { r with segs := smod r.segs g {} (addRetract c) }) else s
      match s.rounds[slot] with
      | none => s
      | some r =>
        if x.absorbed.toNat + 1 = r.nseg && !x.abandoning then
          (s.modRound slot (fun r =>
            { (r.setPart x.part.toNat { r.part x.part.toNat with state := 2, context := 0 }) with
              slots := sdel r.slots c })).freeCtx ctx
        else s)

/-- Commits a segment item (R141): accumulator and the other bank are written, and the table follows. -/
def State.commitSegment (s : State) (slot : Fin 64) (g : Nat) (chunks retracts : List Nat) (cursor : Nat)
    (chained : Bool) (sum : List Byte) : State :=
  match s.rounds[slot] with
  | none => s
  | some r =>
    let rs := s.racesOf r.tenant
    let race := s.segRace r g
    let e := sget r.segs g {}
    let s := (s.writeAt race false (r.accOff rs.length g) sum).1
    let s := (s.writeAt race true (r.bankOff rs.length g (!e.bank)) sum).1
    let e' : Seg :=
      { e with
        bank := !e.bank, tick := s.tick.count, cursor := cursor, chained := e.chained || chained
        queue := e.queue.filter (fun c => !chunks.contains c)
        retract := e.retract.filter (fun c => !retracts.contains c), cuts := 0 }
    let s := s.modRound slot (fun r => { r with segs := sset r.segs g e' })
    s.absorbed slot g chunks

/-- Zero-fills the chain-in buffer (R149). -/
def State.zeroChain (s : State) (r : Round) : State :=
  let n := (s.racesOf r.tenant).length
  s.zeroSpans ((List.range r.nseg).map (fun g =>
    { race := s.segRace r g, tierB := true, off := r.chainOff n g, len := r.segLen g }))

/-- The reason a seed record is refused for, if it is (R144). -/
def Round.seedRefusal (r : Round) (bs : List Byte) : Option Nat :=
  let p := leAt bs 0 4
  let kind := leAt bs 4 1
  let n := leAt bs 8 4
  let e := r.part p
  if leAt bs 3 1 ≠ 0 || leAt bs 5 3 ≠ 0 || leAt bs 0xB 1 ≠ 0 || leAt bs 0xC 4 ≠ 0 || leAt bs 0x30 16 ≠ 0 ||
     (kind = 1 && n ≠ 0) then some 0x20
  else if !((kind = 1 && r.selfMask) || (kind = 2 && !r.noDrop)) then some 0x25
  else if r.partLimit.toNat ≤ p || r.partLimit.toNat ≤ n || (kind = 2 && n = p) then some 0x24
  else if kind = 1 && !((r.state = .collecting || r.state = .closing || r.state = .unmasking) && e.state = 2) then
    some 0x23
  else if kind = 2 && !(r.state = .unmasking && e.state = 4 && ((r.part n).state = 2 || (r.part n).state = 3)) then
    some 0x23
  else if kind = 2 && (r.maxPairs.toNat ≤ e.pairs.toNat || (0 < e.pairs.toNat && n ≤ e.lastN.toNat)) then some 0x26
  else if r.seedLog.toNat ≤ r.log.length then some 0x27
  else none

/-- An accepted seed record. -/
def Round.takeSeed (r : Round) (bs : List Byte) : Round :=
  let p := leAt bs 0 4
  let n := leAt bs 8 4
  let pair := decide (leAt bs 4 1 = 2)
  let e := r.part p
  let e := if pair then { e with pairs := e.pairs + 1, lastN := BitVec.ofNat 24 n } else { e with state := 3 }
  { r.setPart p e with log := r.log ++ [{ part := BitVec.ofNat 24 p, pair := pair, neigh := BitVec.ofNat 24 n,
                                          seed := BitVec.ofNat 256 (natLE (bytesAt bs 0x10 32)) }] }

/-- The entries of AGG_SEEDS or AGG_DROP handled one by one: accepted, refused, first refusal and its reason. -/
structure Tally where
  accepted : Nat := 0
  refused  : Nat := 0
  first    : Option (Nat × Nat) := none
deriving DecidableEq, Repr

/-- Counts entry `i`. -/
def Tally.count (x : Tally) (i : Nat) (why : Option Nat) : Tally :=
  match why with
  | none => { x with accepted := x.accepted + 1 }
  | some e => { x with refused := x.refused + 1, first := x.first.or (some (i, e)) }

/-- The completion bytes of Table 5-11. -/
def Tally.body (x : Tally) : Nat :=
  x.accepted + x.refused * 2 ^ 32 + (match x.first with
    | some (i, e) => i % 2 ^ 32 + e * 2 ^ 32
    | none => 2 ^ 64 - 1) * 2 ^ 64

/-- AGG_SEEDS at its commit: every record on its own, as the ones before it left the round (R144). -/
def Round.takeSeeds (r : Round) (recs : List (List Byte)) : Round × Tally :=
  (indexed recs).foldl (fun acc p =>
    let why := acc.1.seedRefusal p.2
    (if why.isSome then acc.1 else acc.1.takeSeed p.2, acc.2.count p.1 why)) (r, {})

/-- Closing ends when no participant is Uploading (R143): the round is Unmasking and AGG_CLOSE completes. -/
def State.endClosing (s : State) (slot : Fin 64) : State :=
  match s.rounds[slot] with
  | none => s
  | some r =>
    if r.state = .closing && r.listed 1 = 0 then
      let s := s.modRound slot (fun r => { r with state := .unmasking, closing := none })
      match r.closing with
      | some (ring, seq) =>
        s.finishDesc r.tenant ring seq 0 (BitVec.ofNat 128 (r.contributors + r.dropped * 2 ^ 32 + r.retracted * 2 ^ 64))
      | none => s
    else s

/-- The status that R133 gives a descriptor in a round's state: STATE, or FAULTED in a Faulted round. -/
def Round.stateStatus (r : Round) : Byte := if r.state = .faulted then 0x04 else 0x23

/-- The status that R147 and R148 refuse a release with, if they do. -/
def Round.releaseRefusal (r : Round) (x : Release) : Option Byte :=
  if r.state ≠ .unmasking then some r.stateStatus
  else if (List.range r.nseg).any (fun g => decide (0 < r.seedsLeft g)) then some 0x28
  else if r.selfMask && decide (0 < r.listed 2) then some 0x29
  else if r.contributors < r.floor.toNat then some 0x2A
  else if r.noDrop && decide (0 < r.dropped) then some 0x2B
  else match r.attempted with
    | some (a, c, h) => if x.dest = 2 && x.addr = a && x.chainId = c && x.hop = h then none else some 0x23
    | none => none

/-- The kept chain header agrees with a release (R149). -/
def chainAgrees (hdr : List Byte) (x : Release) : Bool :=
  natBE (bytesAt hdr 4 4) = x.chainId.toNat && natBE (bytesAt hdr 0xA 2) = x.prev.toNat &&
    natBE (bytesAt hdr 8 2) + 1 = x.hop.toNat

/-- An accepted release: Releasing, or Chain-wait for the running sum (Table 5-2). [DEDUCED, unsafe: log 48] -/
def State.startRelease (s : State) (slot : Fin 64) (r : Round) (x : Release) : State :=
  let x := { x with start := s.tick.count }
  if !r.chainIn || r.chainAdded then
    s.modRound slot (fun r => { r with
      state := .releasing, release := some x
      attempted := if x.dest = 2 then some (x.addr, x.chainId, x.hop) else r.attempted })
  else
    let s := s.modRound slot (fun r => { r with state := .chainWait, release := some x })
    match r.chainHdr with
    | some h => if chainAgrees h x then s else
        (s.modRound slot (fun r => { r with chainHdr := none, chainSegs := [] })).zeroChain r
    | none => s

/-- The running sum is added in every segment: the round enters Releasing (R149). -/
def State.chainDone (s : State) (slot : Fin 64) : State :=
  match s.rounds[slot] with
  | none => s
  | some r =>
    if r.state = .chainWait && r.chainReady && (List.range r.nseg).all (fun g => (sget r.segs g {}).chained) then
      s.modRound slot (fun r => { r with
        state := .releasing, chainAdded := true
        attempted := match r.release with
          | some x => if x.dest = 2 then some (x.addr, x.chainId, x.hop) else r.attempted
          | none => r.attempted })
    else s

/-- CUM_CONTRIB and CUM_DROPPED: this round's counts and those of the running sum added. -/
def Round.cumulative (r : Round) : Nat × Nat :=
  let h := if r.chainAdded then r.chainHdr.getD [] else []
  (r.contributors + natBE (bytesAt h 0x20 8), r.dropped + natBE (bytesAt h 0x28 8))

/-- The completion bytes of AGG_RELEASE (Table 5-11). -/
def Round.releaseBody (r : Round) : Nat :=
  r.contributors + r.dropped * 2 ^ 32 + (r.cumulative.1 % 2 ^ 64) * 2 ^ 64

/-- Every structure of a round, as spans (Table 5-1). -/
def State.roundSpans (s : State) (r : Round) : List Span :=
  let rs := s.racesOf r.tenant
  (indexed rs).flatMap (fun p =>
    let a := r.taRange rs.length p.1
    let b := r.tbRange rs.length p.1
    [{ race := p.2, tierB := false, off := a.1, len := a.2 }, { race := p.2, tierB := true, off := b.1, len := b.2 }])

/-- Completes the round's accepted AGG_CLOSE and AGG_RELEASE with a status. -/
def State.failRoundDescs (s : State) (r : Round) (status : Byte) : State :=
  let s := match r.closing with
    | some (ring, seq) => s.failDesc r.tenant ring seq status 0
    | none => s
  match r.release with
  | some x => if r.state = .released then s else s.failDesc r.tenant x.ring x.seq status 0
  | none => s

/-- Revokes a window now, for 16 epochs from this one (R291); the epoch is bits [35:20] of the time (R293). -/
def State.revokeWindow (s : State) (t : TenantId) (w : Nat) : State :=
  s.modWeir t (fun x => { x with windows := x.windows.map (fun p =>
    if p.1 = w then (p.1, { p.2 with revoked := some (BitVec.ofNat 16 (s.net.time.toNat / 2 ^ 20)) }) else p) })

/-- Ends a round (R151): its window is revoked, its contexts freed, its structures zeroed, its slot free. -/
def State.closeRound (s : State) (slot : Fin 64) : State :=
  match s.rounds[slot] with
  | none => s
  | some r =>
    let s := s.failRoundDescs r 0x23
    let s := forEach r.aborts s (fun s p => s.finishDesc r.tenant p.1 p.2 0 0)
    let s := s.revokeWindow r.tenant r.window.toNat
    let s := s.modWeir r.tenant (fun x => { x with sends := x.sends.filter (fun m => m.round ≠ some slot) })
    let s := forEach (s.uploads slot) s (fun s u => s.freeCtx u.1)
    let s := s.modWeir r.tenant (fun x => { x with
      reasm := x.reasm.filter (fun m => m.window ≠ r.window || m.complete) })
    (s.zeroSpans (s.roundSpans r)).setRound slot none

/-- The transfer of the round's release goes on: its AGG_RELEASE has not completed. -/
def State.transfers (s : State) (r : Round) : Bool :=
  match r.state, r.release with
  | .releasing, some x => s.tenants[r.tenant].descs.any (fun d => d.ring = x.ring && d.seq = x.seq && !d.done)
  | _, _ => false

/-- A segment item was cut eight times in a row: the round is Faulted (R476). -/
def State.faultRound (s : State) (slot : Fin 64) (g : Nat) : State :=
  match s.rounds[slot] with
  | none => s
  | some r =>
    if r.state = .faulted then s else
    let s := s.raise r.tenant { cls := 0x0B, detail := BitVec.ofNat 64 (slot.val + g * 256) }
    let s := s.failRoundDescs r 0x04
    let s := forEach r.aborts s (fun s p => s.finishDesc r.tenant p.1 p.2 0x04 0)
    s.modRound slot (fun r => { r with state := .faulted, closing := none, release := none, aborts := [] })

/-- A round that an abort waits to close has no transfer in progress any longer: its release was withdrawn (R67, R133).
[DEDUCED, unsafe: log 48] -/
def State.endAbort (s : State) (slot : Fin 64) : State :=
  match s.rounds[slot] with
  | none => s
  | some r => if !r.aborts.isEmpty && !s.transfers r then s.closeRound slot else s

/-- What every commit of a tenant does for one of its rounds, after the effects of its items. -/
def State.settleRound (s : State) (slot : Fin 64) : State :=
  (((s.settleAbandoned slot).endClosing slot).chainDone slot).endAbort slot

-- ## The commands of this family that need no other

/-- UPLOAD_TIMEOUT (R140). -/
def execUploadTimeout (slot : Fin 64) (participant : BitVec 24) (s : State) : Host.Outcome State Fault Refusal :=
  .next (match s.rounds[slot] with
    | none => s
    | some r =>
      match (s.uploads slot).find? (fun u => u.2.part = participant) with
      | none => s
      | some (c, x) =>
        if r.state = .collecting && decide (x.lastTick.toNat + r.timeout.toNat < s.tick.count.toNat) then s.abandon slot c
        else s)

/-- CHAIN_TIMEOUT (R150, Table 5-2): a running sum that has arrived in time is added whatever the addition takes. -/
def execChainTimeout (slot : Fin 64) (s : State) : Host.Outcome State Fault Refusal :=
  .next (match s.rounds[slot] with
    | none => s
    | some r =>
      match r.release with
      | none => s
      | some x =>
        if r.state = .chainWait && !r.chainReady && decide (x.start.toNat + x.timeout.toNat ≤ s.tick.count.toNat) then
          (s.modRound slot (fun r => { r with state := .unmasking, release := none })).failDesc r.tenant x.ring x.seq 0x2C
            r.releaseBody
        else s)

end Sys2Proof.Machine
end

