-- ==== Sys2Proof/Machine/WeirCore.lean ====
section
/-! DEFINITION. Weir: packets (Tables 11-2, 11-3), the sender's message state (R293 to R297, R303), the receiver's
windows, entries and placement (R299 to R304, R135 to R137, R149, R475), and what a commit of the tenant does for them. -/

namespace Sys2Proof.Machine

-- ## Packets

/-- The 40 bytes of a Weir header, big-endian (Table 11-2). -/
def weirHdrBytes (h : WeirHdr) : List Byte :=
  [h.verType, h.flags, h.restart, h.rsv3] ++ bytesBE 2 h.sender.toNat ++ bytesBE 6 h.msgSeq.toNat ++
    bytesBE 2 h.epoch.toNat ++ bytesBE 2 h.payLen.toNat ++ bytesBE 4 h.tag.toNat ++ bytesBE 4 h.msgLen.toNat ++
    bytesBE 8 h.msgBase.toNat ++ bytesBE 4 h.pktIndex.toNat ++ bytesBE 4 h.rsv24.toNat

/-- A packet with its length and CRC (R287). -/
def weirPacket (h : WeirHdr) (body : List Byte) : WeirPkt :=
  let h := { h with payLen := BitVec.ofNat 16 body.length }
  { hdr := h, body := body, crc := crc32c (weirHdrBytes h ++ body) }

/-- Type of a packet. -/
def pktType (p : WeirPkt) : Nat := p.hdr.verType.toNat % 16

/-- Body length of each control type (Table 11-3). -/
def ctlLen (ty : Nat) : Nat :=
  match ty with
  | 1 => 44
  | 2 => 4
  | 4 => 8
  | 6 => 16
  | 7 => 8
  | 8 => 8
  | _ => 0

/-- The bytes of a control body that Table 11-3 gives as 0 are 0. -/
def ctlZero (ty : Nat) (b : List Byte) : Bool :=
  match ty with
  | 1 => leAt b 2 1 < 2 && leAt b 3 1 = 0
  | 2 => leAt b 2 2 = 0
  | 6 => leAt b 9 1 < 2 && leAt b 10 6 = 0
  | 7 => leAt b 1 3 = 0
  | 8 => leAt b 1 3 = 0
  | _ => true

/-- The packet is well formed (R287). [DEDUCED, unsafe: log 90] -/
def pktOk (p : WeirPkt) : Bool :=
  let h := p.hdr
  let ty := pktType p
  h.verType.toNat / 16 = 1 && decide (ty ≤ 8) && p.crc = crc32c (weirHdrBytes h ++ p.body) &&
    decide (h.flags.toNat < 4) && decide (h.restart.toNat < 16) && h.rsv3 = 0 && h.rsv24 = 0 &&
    p.body.length = h.payLen.toNat &&
    (if ty = 0 then
       decide (4096 * h.pktIndex.toNat < h.msgLen.toNat) && decide (h.msgLen.toNat ≤ 2 ^ 30) &&
         h.payLen.toNat = min 4096 (h.msgLen.toNat - 4096 * h.pktIndex.toNat)
     else h.payLen.toNat = ctlLen ty && ctlZero ty p.body)

/-- The header fields common to every packet of a message. -/
def msgHdr (ty : Nat) (flags : Byte) (restart : BitVec 4) (sender : W16) (seq : W48) (epoch : W16) (tag : W32) (len : W32)
    (base : W64) (idx : Nat) : WeirHdr :=
  { verType := BitVec.ofNat 8 (0x10 + ty), flags := flags, restart := restart.setWidth 8, rsv3 := 0, sender := sender,
    msgSeq := seq, epoch := epoch, payLen := 0, tag := tag, msgLen := len, msgBase := base,
    pktIndex := BitVec.ofNat 32 idx, rsv24 := 0 }

/-- The current epoch: bits [35:20] of the Weir time (R293). -/
def Net.epoch (n : Net) : W16 := BitVec.ofNat 16 (n.time.toNat / 2 ^ 20)

/-- The age of an epoch, as a signed 16-bit value (R299). -/
def Net.age (n : Net) (e : W16) : Int := (n.epoch - e).toInt

/-- Queues a frame on a port. [DESIGN CHOICE, unsafe: log 84] -/
def State.netSend (s : State) (o : NetOut) : State := s.modNet (fun n => { n with out := n.out ++ [o] })

-- ## Sending

/-- Packets of a message of `len` bytes. -/
def packetsOf (len : Nat) : Nat := ceilDiv len 4096

/-- The path of packet `i` at its `k`-th retransmission (R285). [DEDUCED, unsafe: log 88] -/
def pathAt (xs : List Nat) (i k : Nat) : Option Nat := xs[(i + k) % max 1 xs.length]?

/-- The path list towards a module. -/
def State.pathsTo (s : State) (dest : W16) : List Nat :=
  match s.net.peer? dest with
  | some (e, _) => sget s.net.lists e []
  | none => []

/-- Sends one packet of a message on the path that R285 gives; an empty list sends nothing (R286). -/
def State.sendPacket (s : State) (m : Send) (i : Nat) (retx : Bool) (payload : List Byte) : State :=
  let k := sget m.retx i 0
  match pathAt (s.pathsTo m.dest) i k with
  | none => s
  | some x =>
    s.netSend (.weir (Fin.ofNat 8 (x / 16)) (BitVec.ofNat 4 x) m.dest
      (weirPacket (msgHdr 0 (BitVec.ofNat 8 (b2n m.fresh + 2 * b2n retx)) m.restarts s.net.moduleId m.seq m.epoch m.tag
        m.len m.base i) payload))

/-- Sends a control packet of a message to its peer. See R288. [DEDUCED, unsafe: log 88] -/
def State.sendCtl (s : State) (dest : W16) (h : WeirHdr) (body : List Byte) : State :=
  match (s.pathsTo dest).head? with
  | none => s
  | some x => s.netSend (.weir (Fin.ofNat 8 (x / 16)) (BitVec.ofNat 4 x) dest (weirPacket h body))

/-- The header of a sender's control packet. -/
def State.sendHdr (s : State) (m : Send) (ty : Nat) : WeirHdr :=
  msgHdr ty 0 m.restarts s.net.moduleId m.seq m.epoch m.tag m.len m.base 0

/-- Applies `f` to a send entry. -/
def State.modSend (s : State) (t : TenantId) (seq : W48) (f : Send → Send) : State :=
  s.modWeir t (fun w => { w with sends := w.sends.map (fun m => if m.seq = seq then f m else m) })

/-- The send entry of a message. -/
def State.send? (s : State) (t : TenantId) (seq : W48) : Option Send := s.tenants[t].weir.sends.find? (fun m => m.seq = seq)

/-- Payload length of a packet. [DEDUCED, unsafe: log 95] -/
def Send.payLen (m : Send) (i : Nat) : Nat := min 4096 (m.len.toNat - 4096 * i)

/-- The source bytes of a packet: kept host bytes or the chain header, the round's accumulator, or device memory
(R298, R306). -/
def State.sendBytes (s : State) (t : TenantId) (m : Send) (i : Nat) : State × Access :=
  let n := m.payLen i
  match m.round with
  | some slot =>
    (match s.rounds[slot] with
     | none => (s, .status 0x06)
     | some r =>
       if !m.bytes.isEmpty then (s, .ok (bytesAt m.bytes (4096 * i) n)) else
       let g := m.src.toNat
       let rs := s.racesOf t
       s.readSpan { race := s.segRace r g, tierB := false, off := r.accOff rs.length g + 4096 * i, len := n } false)
  | none =>
    if m.fromHost then (s, .ok (bytesAt m.bytes (4096 * i) n))
    else match spansOf (m.src.toNat + 4096 * i) n with
      | some xs => s.readSpans xs
      | none => (s, .status 0x06)

/-- Sends packets of a message for the first time, as far as the sender's window of R294 allows; answers whether the
last of them has left. -/
def State.sendFirst (s : State) (t : TenantId) (seq : W48) (xs : List Nat) : State × Access × Bool :=
  xs.foldl (fun (acc : State × Access × Bool) i => match acc.2.1, acc.1.send? t seq with
    | .ok _, some m =>
      if m.cum + 256 ≤ i then (acc.1, .ok [], false) else
      (match acc.1.sendBytes t m i with
       | (s, .ok bs) =>
         ((s.sendPacket m i false bs).modSend t seq (fun m => { m with sent := max m.sent (i + 1) }), .ok [], acc.2.2)
       | (s, y) => (s, y, acc.2.2))
    | _, _ => acc) (s, .ok [], true)

/-- A packet is shown accepted by the newest ACK. -/
def Send.isAcked (m : Send) (i : Nat) : Bool := decide (i < m.cum) || m.acked.contains i

/-- Sent packets below ACC_CUM + 256 that are not accepted (R295). -/
def Send.missing (m : Send) : List Nat :=
  (List.range (min m.sent (m.cum + 256))).filter (fun i => !m.isAcked i)

/-- Ends a message on the sender's side; ABORT goes out where it failed (R297). [DEDUCED, unsafe: log 86] -/
def State.endSend (s : State) (t : TenantId) (m : Send) (status code sub : Byte) (abort : Bool) : State :=
  let s := if abort then s.sendCtl m.dest (s.sendHdr m 5) [] else s
  s.modSend t m.seq (fun m => { m with done := true, status := status, code := code, sub := sub })

/-- Sends a probe of a path to a peer (R286). -/
def State.probe (s : State) (peer : Nat) (path : Nat) : State :=
  match sget? s.net.peers peer with
  | none => s
  | some p =>
    let c := s.net.cookie
    let h := msgHdr 7 0 0 s.net.moduleId 0 0 0 0 0 0
    let p' : Peer := { p with probes := p.probes.filter (fun q => q.1 ≠ path) ++ [(path, c)] }
    let s := s.modNet (fun n => { n with cookie := n.cookie + 1, peers := sset n.peers peer p' })
    s.netSend (.weir (Fin.ofNat 8 (path / 16)) (BitVec.ofNat 4 path) p.id
      (weirPacket h ([BitVec.ofNat 8 (path % 16), 0, 0, 0] ++ bytesBE 4 c.toNat)))

/-- Resends packets of a message, with `RETX` set and their retransmission counted; a packet resent for the first
time has its path probed (R286, R295). -/
def State.resend (s : State) (t : TenantId) (seq : W48) (xs : List Nat) : State :=
  forEach xs s (fun s i =>
    match s.send? t seq with
    | none => s
    | some m =>
      let k := sget m.retx i 0
      let s := match s.net.peer? m.dest, pathAt (s.pathsTo m.dest) i 0 with
        | some (e, _), some x => if k = 0 then s.probe e x else s
        | _, _ => s
      let s := s.modSend t seq (fun m => { m with retx := sset m.retx i (k + 1) })
      match s.send? t seq with
      | none => s
      | some m =>
        match s.sendBytes t m i with
        | (s, .ok bs) => s.sendPacket m i true bs
        | (s, _) => s)

/-- Sends packets `lo` to `hi - 1` of a restarted message again, which are no retransmissions. -/
def State.sendAgain (s : State) (t : TenantId) (seq : W48) (lo hi : Nat) : State :=
  forEach ((List.range hi).filter (fun i => decide (lo ≤ i))) s (fun s i =>
    match s.send? t seq with
    | none => s
    | some m =>
      match s.sendBytes t m i with
      | (s, .ok bs) => s.sendPacket m i false bs
      | (s, _) => s)

/-- Resends a whole message after a restart, with FIRST set, as try 1, as far as the window of R294 lets it; the rest
follows as the window moves (R303). [DEDUCED, unsafe: log 86] -/
def State.restartSend (s : State) (t : TenantId) (m : Send) (count : BitVec 4) : State :=
  let s := s.modSend t m.seq (fun m => { m with
    restarts := count, cum := 0, acked := [], all := false, fresh := true, tries := 1, waits := 0, retx := []
    again := m.sent })
  s.sendAgain t m.seq 0 (min m.sent 256)

/-- A new send entry (R293, R294): the next message number and the current epoch; none while 512 are in use. -/
def State.newSend (s : State) (t : TenantId) (m : Send) : Option State :=
  if 512 ≤ s.tenants[t].weir.sends.length then none else
  let m := { m with seq := s.net.counter, epoch := s.net.epoch }
  some ((s.modNet (fun n => { n with counter := n.counter + 1 })).modWeir t (fun w => { w with sends := w.sends ++ [m] }))

-- ## Receiving

/-- The window of a tag: tenant, index and window. -/
def State.tagWindow (s : State) (tag : W32) : Option (TenantId × Nat × WWin) :=
  allTenants.findSome? (fun t => (s.tenants[t].weir.windows.find? (fun w => w.2.tag = tag)).map (fun w => (t, w.1, w.2)))

/-- The key of a packet's message. -/
def pktKey (h : WeirHdr) : MsgKey := { sender := h.sender, seq := h.msgSeq, epoch := h.epoch }

/-- Answers a packet's sender with a control packet that carries the message's values (Table 11-3). -/
def State.answer (s : State) (h : WeirHdr) (ty : Nat) (restart : BitVec 4) (body : List Byte) : State :=
  s.sendCtl h.sender { h with verType := BitVec.ofNat 8 (0x10 + ty), flags := 0, restart := restart.setWidth 8,
                              pktIndex := 0 } body

/-- STATUS with a code and sub-code. [DEDUCED, unsafe: log 89] -/
def State.status (s : State) (h : WeirHdr) (restart : BitVec 4) (code sub : Nat) : State :=
  s.answer h 4 restart (bytesBE 2 s.net.moduleId.toNat ++ [BitVec.ofNat 8 code, BitVec.ofNat 8 sub] ++
    bytesBE 4 h.pktIndex.toNat)

/-- COMPLETE. -/
def State.sendComplete (s : State) (h : WeirHdr) (restart : BitVec 4) : State :=
  s.answer h 2 restart (bytesBE 2 s.net.moduleId.toNat ++ [0, 0])

/-- A header with a reassembly entry's message values. -/
def Reasm.hdr (e : Reasm) : WeirHdr := msgHdr 0 0 e.restart e.key.sender e.key.seq e.key.epoch e.tag e.len e.base 0

/-- Every packet of the message has been accepted. -/
def Reasm.all (e : Reasm) : Bool := decide (packetsOf e.len.toNat ≤ e.cum)

/-- A packet has been accepted. -/
def Reasm.has (e : Reasm) (i : Nat) : Bool := decide (i < e.cum) || e.got.contains i

/-- ACK with ALL, ACC_CUM, the tick period and the bitmap of packets above it (Table 11-3). -/
def State.sendAck (s : State) (e : Reasm) : State :=
  let bits := (List.range 32).map (fun j => BitVec.ofNat 8 (((List.range 8).map (fun k =>
    if e.has (e.cum + 8 * j + k) then 2 ^ k else 0)).sum))
  s.answer e.hdr 1 e.restart (bytesBE 2 s.net.moduleId.toNat ++ [BitVec.ofNat 8 (b2n e.all), 0] ++ bytesBE 4 e.cum ++
    bytesBE 4 s.tick.period.toNat ++ bits)

/-- Applies `f` to a reassembly entry. -/
def State.modReasm (s : State) (t : TenantId) (k : MsgKey) (f : Reasm → Reasm) : State :=
  s.modWeir t (fun w => { w with reasm := w.reasm.map (fun e => if e.key = k then f e else e) })

/-- The reassembly entry of a message. -/
def State.reasm? (s : State) (t : TenantId) (k : MsgKey) : Option Reasm := s.tenants[t].weir.reasm.find? (fun e => e.key = k)

/-- ACC_CUM after packet `i` is accepted, and the packets above it. -/
def advanceCum : Nat → Nat → List Nat → Nat × List Nat
  | 0, c, got => (c, got)
  | fuel + 1, c, got => if got.contains c then advanceCum fuel (c + 1) (got.filter (· ≠ c)) else (c, got)

/-- The entry with a packet accepted into the buffer (R300). -/
def Reasm.accept (e : Reasm) (i : Nat) (payload : List Byte) : Reasm :=
  let g := advanceCum (e.got.length + 1) e.cum (i :: e.got)
  { e with cum := g.1, got := g.2, unreported := e.unreported + 1, buffer := e.buffer ++ [(i, payload)] }

/-- Bytes in a tenant number's share of the receive buffer. -/
def WeirT.buffered (w : WeirT) : Nat := (w.reasm.map (fun e => (e.buffer.map (fun b => b.2.length)).sum)).sum

-- A round's window (R135 to R137)

/-- What a remote offset of a round's window names: an upload chunk of a participant, a chain-in segment, the chain
header, or nothing (R135). -/
inductive RoundAddr where
  | upload (p off : Nat)
  | chain (off : Nat)
  | header
  | bad
deriving DecidableEq, Repr

/-- R135's reading of a 64-bit remote offset. -/
def roundAddr (a : Nat) : RoundAddr :=
  match fld a 62 2 with
  | 0 => if fld a 58 4 = 0 then .upload (fld a 34 24) (fld a 0 34) else .bad
  | 2 => if fld a 34 28 = 0 then .chain (fld a 0 34) else .bad
  | 3 => if fld a 0 62 = 0 then .header else .bad
  | _ => .bad

/-- The message covers exactly one whole chunk or segment. -/
def Round.wholeChunk (r : Round) (off len : Nat) : Bool :=
  off % mib = 0 && decide (off < r.vbytes) && len = r.segLen (off / mib)

/-- Code and sub-code with which a round's window refuses a message before acceptance (R135, R136), if it does. See R290. -/
def Round.refuses (r : Round) (s : State) (slot : Fin 64) (h : WeirHdr) : Option (Nat × Nat) :=
  let a := h.msgBase.toNat
  let len := h.msgLen.toNat
  if r.opening then some (0x23, 0) else
  match roundAddr a with
  | .bad => some (0x24, 0)
  | .upload p off =>
    if r.partLimit.toNat ≤ p || r.vbytes ≤ off then some (0x24, 0)
    else if !r.wholeChunk off len then some (0x2F, 2)
    else if r.state ≠ .collecting then some (0x23, 0)
    else
      let st := (r.part p).state.toNat
      if st ≠ 0 && st ≠ 1 then some (0x23, 0)
      else if (s.uploads slot).any (fun u => u.2.part.toNat = p && u.2.abandoning) then some (0x23, 0)
      else none
  | .chain off =>
    if !r.chainIn || r.vbytes < off + len then some (0x24, 0)
    else if !r.wholeChunk off len then some (0x2F, 2)
    else if r.state = .faulted || r.state = .ending then some (0x23, 0) else none
  | .header =>
    if !r.chainIn then some (0x24, 0)
    else if len ≠ 64 then some (0x2F, 2)
    else if r.state = .faulted || r.state = .ending then some (0x23, 0) else none

/-- Removes a reassembly entry; an upload's claim is cleared at the next commit (R137, R302). -/
def State.dropReasm (s : State) (t : TenantId) (e : Reasm) : State :=
  let w := sget? s.tenants[t].weir.windows e.window.toNat
  let un : List (Nat × Nat × Nat) := match w.bind (·.round) with
    | some slot =>
      (match roundAddr e.base.toNat with
       | .upload p off =>
         if e.claimed && !e.landed then
           (match (s.uploads slot).find? (fun u => u.2.part.toNat = p) with
            | some u => [(slot.val, u.2.slot.toNat, off / mib)]
            | none => [])
         else []
       | _ => [])
    | none => []
  s.modWeir t (fun w => { w with reasm := w.reasm.filter (fun x => x.key ≠ e.key), unclaim := w.unclaim ++ un })

/-- The message fails whole at the receiver with a status. -/
def State.failReasm (s : State) (t : TenantId) (e : Reasm) (code sub : Nat) : State :=
  (s.status e.hdr e.restart code sub).dropReasm t e

/-- Makes an Unseen participant Uploading: a free context and landing slot (R136); none where either is lacking. -/
def State.startUpload (s : State) (slot : Fin 64) (r : Round) (p : Nat) : Option State :=
  if r.maxUp.toNat ≤ (s.uploads slot).length then none else
  match s.freeContext r.tenant, (List.range r.maxUp.toNat).find? (fun i => (sget? r.slots i).isNone) with
  | some c, some ls =>
    let x : PartCtx := { round := slot, part := BitVec.ofNat 24 p, slot := BitVec.ofNat 18 ls,
                         total := BitVec.ofNat 32 r.nseg, lastTick := s.tick.count }
    some (({ s with ctxs := sset s.ctxs c (.part x) } : State).modRound slot (fun r =>
      { (r.setPart p { r.part p with state := 1, context := BitVec.ofNat 18 c }) with
        slots := sset r.slots ls { part := BitVec.ofNat 24 p } }))
  | _, _ => none

/-- The claim of R137 at the first placement of an upload message: the state, or the refusal. -/
def State.claimChunk (s : State) (slot : Fin 64) (r : Round) (p seg : Nat) : Except (Nat × Nat) State :=
  if r.state ≠ .collecting then .error (0x23, 0) else
  let s? : Option State := if (r.part p).state.toNat = 0 then s.startUpload slot r p else some s
  match s? with
  | none => .error (0x2F, 1)
  | some s =>
    match (s.uploads slot).find? (fun u => u.2.part.toNat = p), s.rounds[slot] with
    | some (_, x), some r =>
      let h := (sget? r.slots x.slot.toNat).getD { part := x.part }
      if x.abandoning then .error (0x23, 0)
      else if h.claim.testBit seg then .error (0x2F, 3)
      else .ok (s.modRound slot (fun r => { r with slots := sset r.slots x.slot.toNat { h with claim := h.claim ||| 2 ^ seg } }))
    | _, _ => .error (0x23, 0)

/-- Writes placed bytes of an upload into its landing slot and counts them. -/
def State.placeUpload (s : State) (slot : Fin 64) (r : Round) (p off : Nat) (bs : List Byte) : State × Access :=
  match (s.uploads slot).find? (fun u => u.2.part.toNat = p) with
  | none => (s, .ok [])
  | some (c, x) =>
    let n := (s.racesOf r.tenant).length
    let g := off / mib
    match s.writeAt (s.segRace r g) true (r.landOff n g x.slot.toNat + off % mib) bs with
    | (s, .ok _) =>
      (s.modPartCtx c (fun x => { x with placed := x.placed + BitVec.ofNat 64 bs.length, lastTick := s.tick.count }), .ok [])
    | (s, y) => (s, y)

/-- A complete upload chunk lands (R137). -/
def State.landChunk (s : State) (slot : Fin 64) (p seg : Nat) : State :=
  match (s.uploads slot).find? (fun u => u.2.part.toNat = p) with
  | none => s
  | some (c, x) =>
    if x.abandoning then s else
    let ls := x.slot.toNat
    (s.modPartCtx c (fun x => { x with landed := x.landed + 1 })).modRound slot (fun r =>
      let addQ (e : Seg) : Seg := { e with queue := e.queue ++ [ls] }
      { r with slots := smod r.slots ls { part := x.part } (fun h => { h with landed := h.landed ||| 2 ^ seg })
               segs := smod r.segs seg {} addQ })

/-- The chain header passes the checks that its moment asks for (R149). -/
def Round.headerOk (r : Round) (b : List Byte) : Bool :=
  natBE (bytesAt b 0 4) = 0x53414C43 && natBE (bytesAt b 0xC 1) = b2n r.ring64 && natBE (bytesAt b 0x10 4) = r.vecLen.toNat &&
    (r.state ≠ .chainWait || (match r.release with
      | some x => chainAgrees b x
      | none => true))

/-- Two chain headers have the same chain ID, hop and sender (R150). -/
def sameChain (a b : List Byte) : Bool := bytesAt a 4 8 = bytesAt b 4 8

/-- What placing a packet does: bytes placed, or a refusal with code and sub-code. -/
inductive Placed where
  | ok
  | refuse (code sub : Nat)
deriving DecidableEq, Repr

/-- Places one packet of a message (R300, R137, R149, R150, R475). See R305. -/
def State.placeOne (s : State) (t : TenantId) (w : WWin) (e : Reasm) (i : Nat) (bs : List Byte) : State × Placed :=
  let media (x : State × Access) : State × Placed := match x with
    | (s, .ok _) => (s, .ok)
    | (s, _) => (s, .refuse 0x45 0)
  match w.round with
  | none =>
    (match spansOf (w.base.toNat + e.base.toNat + 4096 * i) bs.length with
     | some xs => media (s.writeSpans xs bs)
     | none => (s, .refuse 0x41 0))
  | some slot =>
    (match s.rounds[slot] with
     | none => (s, .refuse 0x40 0)
     | some r =>
       match roundAddr e.base.toNat with
       | .upload p off =>
         let c : Except (Nat × Nat) State :=
           if !e.claimed then s.claimChunk slot r p (off / mib)
           else if r.state = .collecting && (s.uploads slot).any (fun u => u.2.part.toNat = p && !u.2.abandoning) then .ok s
           else .error (0x23, 0)
         (match c with
          | .error x => (s, .refuse x.1 x.2)
          | .ok s =>
            let s := s.modReasm t e.key (fun e => { e with claimed := true })
            media (s.placeUpload slot r p (off + 4096 * i) bs))
       | .chain off =>
         if r.state = .faulted then (s, .refuse 0x23 0)
         else if r.chainAdded then (s, .ok) else
         let n := (s.racesOf r.tenant).length
         media (s.writeAt (s.segRace r (off / mib)) true (r.chainOff n (off / mib) + 4096 * i) bs)
       | .header =>
         if r.state = .faulted then (s, .refuse 0x23 0)
         else if r.chainAdded then
           (if sameChain bs (r.chainHdr.getD []) then (s, .ok) else (s, .refuse 0x2E 0))
         else if r.headerOk bs then (s.modRound slot (fun r => { r with chainHdr := some bs }), .ok)
         else ((s.modRound slot (fun r => { r with chainSegs := [], chainHdr := none })).zeroChain r, .refuse 0x2E 0)
       | .bad => (s, .refuse 0x24 0))

/-- A message whose placed bytes equal its length is complete (R301): an upload chunk lands, a chain segment has
arrived. -/
def State.finishReasm (s : State) (t : TenantId) (w : WWin) (e : Reasm) : State :=
  let s := s.modReasm t e.key (fun e => { e with complete := true, landed := true })
  match w.round with
  | none => s
  | some slot =>
    match roundAddr e.base.toNat with
    | .upload p off => s.landChunk slot p (off / mib)
    | .chain off => s.modRound slot (fun r => if r.chainAdded then r else
        { r with chainSegs := if r.chainSegs.contains (off / mib) then r.chainSegs else off / mib :: r.chainSegs })
    | _ => s

/-- An upload chunk finds the landing queue of its mill full: its message fails with BUSY (Table 7-9). -/
def State.cannotLand (s : State) (w : WWin) (e : Reasm) : Bool :=
  match w.round.bind (fun k => s.rounds[k]), roundAddr e.base.toNat with
  | some r, .upload _ off => s.landingFull r (off / mib)
  | _, _ => false

/-- PACKET_PLACE (R300): the oldest accepted packet of the first entry that holds one. [DEDUCED, unsafe: log 85] -/
def execPacketPlace (t : TenantId) (s : State) : Host.Outcome State Fault Refusal :=
  .next (match s.tenants[t].weir.reasm.find? (fun e => !e.buffer.isEmpty) with
    | none => s
    | some e =>
      match e.buffer, sget? s.tenants[t].weir.windows e.window.toNat with
      | (i, bs) :: rest, some w =>
        let s := s.modReasm t e.key (fun e => { e with buffer := rest })
        (match s.placeOne t w e i bs with
         | (s, .refuse c sub) => s.failReasm t e c sub
         | (s, .ok) =>
           let s := s.modReasm t e.key (fun e => { e with placed := e.placed + bs.length })
           if e.placed + bs.length ≠ e.len.toNat then s
           else if s.cannotLand w e then s.failReasm t { e with claimed := true } 0x2F 1
           else s.finishReasm t w e)
      | _, _ => s)

-- ## What a commit of the tenant does

/-- Claims of failed messages are cleared (R137). -/
def State.clearClaims (s : State) (t : TenantId) : State :=
  let xs := s.tenants[t].weir.unclaim
  let s := forEach xs s (fun s x => s.modRound (Fin.ofNat 64 x.1) (fun r =>
    { r with slots := r.slots.map (fun h => if h.1 = x.2.1 then
        (h.1, { h.2 with claim := h.2.claim &&& ((2 ^ 16384 - 1) - 2 ^ x.2.2) }) else h) }))
  s.modWeir t (fun w => { w with unclaim := [] })

/-- A receive record (Table 11-8). -/
def receiveRecord (win : Nat) (w : WWin) (e : Reasm) : BitVec 256 :=
  completionData 0x78 0 0xFF 0 (win * 2 ^ 32 + w.records.toNat) e.len.toNat
    (BitVec.ofNat 128 (e.key.sender.toNat + e.key.seq.toNat * 2 ^ 16 + e.base.toNat * 2 ^ 64))

/-- Messages complete at this commit: their receive records, where the window asks for one and a staging entry is
free, and COMPLETE (R292, R301). -/
def State.commitReasm (s : State) (t : TenantId) : State × List (BitVec 4 × Rec) :=
  (s.tenants[t].weir.reasm.filter (fun e => e.complete && !e.committed)).foldl
    (fun (acc : State × List (BitVec 4 × Rec)) e =>
      let s := acc.1
      match sget? s.tenants[t].weir.windows e.window.toNat with
      | none => (s.dropReasm t e, acc.2)
      | some w =>
        let mark (s : State) : State :=
          (s.modReasm t e.key (fun e => { e with committed := true, sentComplete := true })).sendComplete e.hdr e.restart
        let count (s : State) : State := if w.pending.isSome then
          s.modWeir t (fun x => { x with windows := x.windows.map (fun p => if p.1 = e.window.toNat then
            (p.1, { p.2 with doneAfter := p.2.doneAfter + 1 }) else p) }) else s
        if !w.notify then (count (mark s), acc.2)
        else if 256 ≤ (s.cring t ⟨w.ring.toNat, by omega⟩).held.toNat then acc
        else
          let s := s.modCring (s.lowest t) ⟨w.ring.toNat, by omega⟩ (fun c => { c with held := c.held + 1 })
          let s := s.modWeir t (fun x => { x with windows := x.windows.map (fun p => if p.1 = e.window.toNat then
            (p.1, { p.2 with records := p.2.records + 1 }) else p) })
          (count (mark s), acc.2 ++ [(w.ring, { data := receiveRecord e.window.toNat w e })]))
    (s, [])

/-- Windows whose revocation is pending and of which no accepted packet remains unplaced are revoked now; their
unfinished messages fail, and WEIR_REVOKE completes (R291). -/
def State.settleRevokes (s : State) (t : TenantId) : State :=
  forEach (s.tenants[t].weir.windows.filter (fun w => w.2.pending.isSome)) s (fun s w =>
    let mine := s.tenants[t].weir.reasm.filter (fun e => e.window.toNat = w.1)
    if mine.any (fun e => !e.buffer.isEmpty) then s else
    let lost := mine.filter (fun e => !e.complete)
    let s := forEach lost s (fun s e => s.dropReasm t e)
    let failed := w.2.failed.toNat + lost.length
    let s := s.modWeir t (fun x => { x with windows := x.windows.map (fun p => if p.1 = w.1 then
      (p.1, { p.2 with pending := none, revoked := some s.net.epoch, failed := BitVec.ofNat 32 failed }) else p) })
    match w.2.pending with
    | some (ring, seq) => s.finishDesc t ring seq 0 (BitVec.ofNat 128 (w.2.doneAfter.toNat + failed * 2 ^ 32))
    | none => s)

/-- The completion bytes of WEIR_SEND (Table 11-7). [DEDUCED, unsafe: log 87] -/
def Send.body (m : Send) : Nat :=
  m.seq.toNat + m.epoch.toNat * 2 ^ 48 + m.code.toNat * 2 ^ 64 + m.sub.toNat * 2 ^ 72 + m.tries * 2 ^ 80 +
    m.restarts.toNat * 2 ^ 88

/-- The chain header of a round's release (Table 5-8). -/
def State.chainHeader (s : State) (r : Round) (x : Release) : List Byte :=
  bytesBE 4 0x53414C43 ++ bytesBE 4 x.chainId.toNat ++ bytesBE 2 x.hop.toNat ++ bytesBE 2 s.net.moduleId.toNat ++
    [BitVec.ofNat 8 (b2n r.ring64), 0, 0, 0] ++ bytesBE 4 r.vecLen.toNat ++ bytesBE 4 0 ++ bytesBE 8 r.nonce.toNat ++
    bytesBE 8 r.cumulative.1 ++ bytesBE 8 r.cumulative.2 ++ List.replicate 16 0

/-- A transfer of a release ended: the round is Released with its record, or Unmasking with the status that failed it;
an abort that waited for the transfer closes it (Table 5-2, R133). -/
def State.endRelease (s : State) (slot : Fin 64) (status : Byte) : State :=
  match s.rounds[slot] with
  | none => s
  | some r =>
    match r.release with
    | none => s
    | some x =>
      let s := s.modRound slot (fun r => { r with state := if status = 0 then .released else .unmasking, release := none })
      let s := s.failDesc r.tenant x.ring x.seq status r.releaseBody
      if r.aborts.isEmpty then s else s.closeRound slot

/-- Messages that have ended: their descriptors complete, or their round's release goes on (R297, R306). -/
def State.settleSends (s : State) (t : TenantId) : State :=
  -- a descriptor that has ended otherwise releases its entry (R294)
  let stray (m : Send) : Bool := m.round.isNone && !m.done && (match s.desc? t m.ring m.dseq with
    | some d => d.done
    | none => true)
  let s := s.modWeir t (fun w => { w with sends := w.sends.filter (fun m => !stray m) })
  forEach (s.tenants[t].weir.sends.filter (fun m => m.done)) s (fun s m =>
    let s := s.modWeir t (fun w => { w with sends := w.sends.filter (fun x => x.seq ≠ m.seq) })
    match m.round with
    | none => s.finishDesc t m.ring m.dseq m.status (BitVec.ofNat 128 m.body)
    | some slot =>
      match s.rounds[slot] with
      | none => s
      | some r =>
        if m.status ≠ 0 then
          let s := s.modWeir t (fun w => { w with sends := w.sends.filter (fun x => x.round ≠ some slot) })
          s.endRelease slot 0x2D
        else if !m.bytes.isEmpty then s.endRelease slot 0
        else match r.release with
          | none => s
          | some x => s.modRound slot (fun r => { r with release := some { x with sends := x.sends + 1 } }))

end Sys2Proof.Machine
end

