-- ==== Sys2Proof/Machine/Agg.lean ====
section
/-! DEFINITION. The aggregation descriptors: what their items do and what their commits make of them (R128 to R133,
R143, R144, R147, R148, R151, R154, R306, Table 5-10). -/

namespace Sys2Proof.Machine

-- ## AGG_OPEN (R128 to R131)

/-- The round that an AGG_OPEN describes. -/
def roundFrom (t : TenantId) (l : Line) (tag : W32) : Round :=
  let fl := dF l 0x2A 1
  { tenant := t, cls := dClass l, state := .collecting, id := BitVec.ofNat 32 (dF l 0x10 4),
    vecLen := BitVec.ofNat 32 (dF l 0x14 4), partLimit := BitVec.ofNat 32 (dF l 0x18 4),
    floor := BitVec.ofNat 32 (dF l 0x1C 4), nonce := BitVec.ofNat 64 (dF l 0x20 8),
    maxPairs := BitVec.ofNat 11 (dF l 0x28 2), ring64 := bitOf fl 0, selfMask := bitOf fl 1, noDrop := bitOf fl 2,
    chainIn := bitOf fl 4, maxUp := BitVec.ofNat 19 (dF l 0x2C 4), timeout := BitVec.ofNat 32 (dF l 0x30 4),
    seedLog := BitVec.ofNat 32 (dF l 0x34 4), taBase := BitVec.ofNat 32 (dF l 0x38 4),
    tbBase := BitVec.ofNat 32 (dF l 0x3C 4), window := 0, tag := tag, opening := true }

/-- The class has mills in every race of the tenant, equally many (R130). -/
def State.millsEqual (s : State) (t : TenantId) (c : ClassId) : Bool :=
  match (s.racesOf t).map (fun r => (s.races[r].classMills[c]).toNat) with
  | [] => false
  | n :: ns => n ≠ 0 && ns.all (· = n)

/-- Table 5-1 lies in the tenant's memory of every race and meets no structure of another round (R129, R131). -/
def State.layoutOk (s : State) (t : TenantId) (r : Round) : Bool :=
  s.millsEqual t r.cls && (s.roundSpans r).all (fun x =>
    decide (x.off + x.len ≤ (if x.tierB then tenantTb else 64 * gib)) && !s.sealed x)

/-- Rounds of a tenant that are not Closed. -/
def State.roundCount (s : State) (t : TenantId) : Nat :=
  ((List.finRange 64).filter (fun i => match s.rounds[i] with
    | some r => r.tenant = t
    | none => false)).length

/-- The lowest free round slot. -/
def State.freeRound (s : State) : Option (Fin 64) := (List.finRange 64).find? (fun i => (s.rounds[i]).isNone)

/-- Why AGG_OPEN is refused, if it is: the window registration is looked at before anything else (R128, R129, R351).
See R337. [DEDUCED, unsafe: log 51] -/
def State.aggOpenRefusal (s : State) (t : TenantId) (r : Round) : Option Byte :=
  match s.regRefusal t r.cls with
  | some st => some st
  | none =>
    if s.tenants[t].debugRaces ≠ 0 then some 0x23
    else if (s.tenants[t].ctxCount).toNat < r.maxUp.toNat then some 0x20
    else if !s.layoutOk t r then some 0x21
    else if s.freeRound.isNone || (s.tenants[t].rounds).toNat ≤ s.roundCount t || 16 ≤ s.roundCount t ||
       (s.roundOf t r.id.toNat).isSome then some 0x22
    else none

/-- The structures that AGG_OPEN zero-fills in the race of index `i` of `n` (R129). -/
def Round.openSpans (r : Round) (n i : Nat) (race : RaceId) : List Span :=
  let o := r.tbOffsets n i
  let tb (a b : Nat) : Span :=
    { race := race, tierB := true, off := (r.tbBase.toNat + o.getD a 0) * mib, len := (o.getD b 0 - o.getD a 0) * mib }
  let a := r.taRange n i
  [{ race := race, tierB := false, off := a.1, len := a.2 }, tb 0 1, tb 3 5, tb 6 7]

/-- Bytes `off` to `off + len - 1` of spans laid end to end. -/
def cutSpans : List Span → Nat → Nat → List Span
  | [], _, _ => []
  | x :: xs, off, len =>
    if x.len ≤ off then cutSpans xs (off - x.len) len
    else
      let n := min len (x.len - off)
      if len = 0 then [] else { x with off := x.off + off, len := n } :: cutSpans xs 0 (len - n)

/-- Zero-fills an item's part of a round's structures in every race. -/
def State.openFill (s : State) (r : Round) (first gran : Nat) : State :=
  let rs := s.racesOf r.tenant
  s.zeroSpans ((indexed rs).flatMap (fun p => cutSpans (r.openSpans rs.length p.1 p.2) (first * 4096) (gran * 4096)))

/-- AGG_OPEN: the first item checks and takes slot and window at its commit; every item zero-fills; with the last one
the round is open (R129). [DEDUCED, unsafe: log 51; DESIGN CHOICE, unsafe: log 52] -/
def execAggOpen (item : Nat) (s : State) : Host.Outcome State Fault Refusal :=
  .next (s.work item 0x40 (fun i s =>
    let id := BitVec.ofNat 32 (dF i.line 0x10 4)
    let ready : List Effect := if i.last then [.aggReady id] else []
    if i.index = 0 then
      match s.aggOpenRefusal i.tenant (roundFrom i.tenant i.line 0) with
      | some st => s.stopItem item st
      | none =>
        match State.drawTag i.tenant 65536 s with
        -- the item waits while the response queue is empty
        | (s, none) => s
        | (s, some tag) =>
          let r := roundFrom i.tenant i.line tag
          (s.openFill r i.first i.gran).endItem item 0 0 (.aggOpen r :: ready)
    else
      match s.roundOf i.tenant id.toNat with
      | some (_, r) => (s.openFill r i.first i.gran).endItem item 0 0 ready
      | none => s.endItem item 0 0 []))

/-- The commit of AGG_OPEN's first item. [DESIGN CHOICE, unsafe: log 52] -/
def State.commitAggOpen (s : State) (t : TenantId) (ring : Fin 64) (seq : W48) (r : Round) : State :=
  match s.aggOpenRefusal t r, s.freeRound, s.freeWindow t with
  | none, some slot, some w =>
    let r := { r with window := w }
    let win : WWin := { tag := r.tag, base := 0, length := 0, peer := 0, any := true, notify := false, ring := 0,
                        cls := r.cls, round := some slot }
    let s := (s.setRound slot (some r)).modWeir t (fun x => { x with windows := sset x.windows w.toNat win })
    s.setBody t ring seq 0 (r.tag.toNat + slot.val * 2 ^ 32 + r.nseg * 2 ^ 64)
  | some st, _, _ => s.failDesc t ring seq st 0
  | _, _, _ => s.failDesc t ring seq 0x22 0

/-- The commit of AGG_OPEN's last item. -/
def State.commitAggReady (s : State) (t : TenantId) (id : W32) : State :=
  match s.roundOf t id.toNat with
  | some (slot, _) => s.modRound slot (fun r => { r with opening := false })
  | none => s

-- ## The descriptors that name a round

/-- Runs `f` on the round of a ROUND_ID at a commit, or completes with NO_ROUND (R133). [DEDUCED, unsafe: log 49] -/
def State.withRound (s : State) (t : TenantId) (ring : Fin 64) (seq : W48) (id : W32)
    (f : Fin 64 → Round → State) : State :=
  match s.roundOf t id.toNat with
  | some (slot, r) => f slot r
  | none => s.failDesc t ring seq 0x22 0

/-- The round is in one of the states in which Table 5-3 accepts a descriptor. [DEDUCED, unsafe: log 49] -/
def Round.takes (r : Round) (sts : List RoundState) : Bool := !r.opening && sts.contains r.state

/-- AGG_SEEDS: the records take effect at the commit (R144). -/
def execAggSeeds (item : Nat) (host : List Byte) (s : State) : Host.Outcome State Fault Refusal :=
  .next (s.work item 0x41 (fun i s => s.endItem item 0 0
    [.aggSeeds (BitVec.ofNat 32 (dF i.line 0x10 4)) ((List.range (dF i.line 0x14 4)).map (fun k => bytesAt host (64 * k) 64))]))

/-- The commit of AGG_SEEDS. -/
def State.commitAggSeeds (s : State) (t : TenantId) (ring : Fin 64) (seq : W48) (id : W32) (recs : List (List Byte)) :
    State :=
  s.withRound t ring seq id (fun slot r =>
    if !r.takes [.collecting, .closing, .unmasking] then s.failDesc t ring seq r.stateStatus 0 else
    let out := r.takeSeeds recs
    (s.setRound slot (some out.1)).setBody t ring seq 0 out.2.body)

/-- AGG_DROP: the entries take effect at the commit (R144). -/
def execAggDrop (item : Nat) (host : List Byte) (s : State) : Host.Outcome State Fault Refusal :=
  .next (s.work item 0x42 (fun i s => s.endItem item 0 0
    [.aggDrop (BitVec.ofNat 32 (dF i.line 0x10 4))
      ((List.range (dF i.line 0x14 4)).map (fun k => BitVec.ofNat 32 (leAt host (4 * k) 4)))]))

/-- One entry of AGG_DROP: an Unseen participant becomes Dropped, an Uploading one is abandoned (R134, R140). -/
def State.dropPart (s : State) (slot : Fin 64) (r : Round) (p : Nat) : State :=
  if (r.part p).state = 0 then s.modRound slot (fun r => r.setPart p { state := 4 })
  else match (s.uploads slot).find? (fun u => u.2.part.toNat = p) with
    | some (c, _) => s.abandon slot c
    | none => s

/-- The commit of AGG_DROP. -/
def State.commitAggDrop (s : State) (t : TenantId) (ring : Fin 64) (seq : W48) (id : W32) (parts : List W32) : State :=
  s.withRound t ring seq id (fun slot r =>
    if !r.takes [.collecting] then s.failDesc t ring seq r.stateStatus 0 else
    let out := (indexed parts).foldl (fun (acc : State × Tally) p =>
      match acc.1.rounds[slot] with
      | none => acc
      | some r =>
        let n := p.2.toNat
        let st := (r.part n).state.toNat
        let why := if r.partLimit.toNat ≤ n then some 0x24 else if st ≠ 0 && st ≠ 1 then some 0x23 else none
        (if why.isSome then acc.1 else acc.1.dropPart slot r n, acc.2.count p.1 why)) (s, {})
    out.1.setBody t ring seq 0 out.2.body)

/-- AGG_CLOSE. -/
def execAggClose (item : Nat) (s : State) : Host.Outcome State Fault Refusal :=
  .next (s.work item 0x43 (fun i s => s.endItem item 0 0 [.aggClose (BitVec.ofNat 32 (dF i.line 0x10 4))]))

/-- The commit of AGG_CLOSE (R143): unseen participants are Dropped, incomplete uploads abandoned. -/
def State.commitAggClose (s : State) (t : TenantId) (ring : Fin 64) (seq : W48) (id : W32) : State :=
  s.withRound t ring seq id (fun slot r =>
    if !r.takes [.collecting] then s.failDesc t ring seq r.stateStatus 0 else
    -- a listed Unseen participant is written Dropped; an unlisted one reads so from now on
    let s := s.modRound slot (fun r =>
      { r with
        state := .closing, closed := true, closing := some (ring, seq)
        parts := r.parts.map (fun p => if p.2.state = 0 then (p.1, { p.2 with state := 4 }) else p) })
    let s := forEach ((s.uploads slot).filter (fun u => decide (u.2.landed < u.2.total))) s (fun s u => s.abandon slot u.1)
    s.waitDesc t ring seq)

-- ## AGG_RELEASE (R147, R148, R306)

/-- The release that a descriptor asks for. -/
def releaseOf (i : Item) : Release :=
  { ring := i.ring, seq := i.seq, dest := BitVec.ofNat 8 (dF i.line 0x14 1), hop := BitVec.ofNat 16 (dF i.line 0x16 2),
    addr := BitVec.ofNat 64 (dF i.line 0x18 8), chainId := BitVec.ofNat 32 (dF i.line 0x20 4),
    prev := BitVec.ofNat 16 (dF i.line 0x24 2), timeout := BitVec.ofNat 32 (dF i.line 0x28 4), start := 0 }

/-- Bytes `off` to `off + len - 1` of the accumulator in vector order; `fuel` bounds the segments. -/
def State.sumRead (r : Round) : Nat → Nat → Nat → List Byte → State → State × Access
  | 0, _, _, acc, s => (s, .ok acc)
  | fuel + 1, off, len, acc, s =>
    let g := off / mib
    let n := min len (r.segLen g - off % mib)
    if n = 0 then (s, .ok acc) else
    match s.readSpan { race := s.segRace r g, tierB := false, off := r.accOff (s.racesOf r.tenant).length g + off % mib,
                       len := n } false with
    | (s, .ok bs) => State.sumRead r fuel (off + n) (len - n) (acc ++ bs) s
    | (s, y) => (s, y)

/-- The message of a chain send: a segment, or the header, which is none. -/
def State.chainSend? (s : State) (t : TenantId) (slot : Fin 64) (g : Option Nat) : Option Send :=
  s.tenants[t].weir.sends.find? (fun m => m.round = some slot && (match g with
    | some g => m.bytes.isEmpty && m.src.toNat = g
    | none => !m.bytes.isEmpty))

/-- The send entry of a segment of a chain, or of its header, made where there is none (R306). -/
def State.chainEntry (s : State) (slot : Fin 64) (r : Round) (x : Release) (g : Option Nat) : Option (State × W48) :=
  match s.chainSend? r.tenant slot g with
  | some m => some (s, m.seq)
  | none =>
    let len := match g with
      | some g => r.segLen g
      | none => 64
    let m : Send :=
      { seq := 0, epoch := 0, ring := x.ring, dseq := x.seq, dest := BitVec.ofNat 16 (x.addr.toNat / 2 ^ 32),
        tag := BitVec.ofNat 32 x.addr.toNat,
        base := BitVec.ofNat 64 (match g with
          | some g => 2 ^ 63 + g * mib
          | none => 3 * 2 ^ 62),
        len := BitVec.ofNat 32 len, src := BitVec.ofNat 64 (g.getD 0),
        bytes := if g.isNone then s.chainHeader r x else [], packets := packetsOf len, round := some slot }
    (s.newSend r.tenant m).map (fun s' => (s', s.net.counter))

/-- Sends granules `first` to `first + gran - 1` of a chain: packets of the segments in vector order, then the header
once every segment message has completed. Answers whether all of them have left. -/
def State.chainPackets (slot : Fin 64) (r : Round) (x : Release) : List Nat → State → State × Access × Bool
  | [], s => (s, .ok [], true)
  | k :: ks, s =>
    let total := ceilDiv r.vbytes 4096
    let g : Option Nat := if k < total then some (k / 256) else none
    if g.isNone && x.sends ≠ r.nseg then (s, .ok [], false) else
    match s.chainEntry slot r x g with
    | none => (s, .ok [], false)
    | some (s, seq) =>
      match s.sendFirst r.tenant seq [if k < total then k % 256 else 0] with
      | (s, .ok _, true) => State.chainPackets slot r x ks s
      | (s, y, b) => (s, y, b)

/-- One transfer item of a release in force. -/
def State.releaseItem (s : State) (i : Item) (slot : Fin 64) (r : Round) (x : Release) : State :=
  let off := i.first * 4096
  let len := min (i.gran * 4096) (r.vbytes - off)
  let ended : List Effect := if i.last && x.dest ≠ 2 then [.released slot] else []
  if x.dest = 0 then
    s.endWith i.id (State.sumRead r (i.gran + 1) off len [] s) (fun s bs =>
      (s.hostWrite (x.addr.toNat + off) bs).endItem i.id 0 0 ended)
  else if x.dest = 1 then
    s.endWith i.id (State.sumRead r (i.gran + 1) off len [] s) (fun s bs =>
      match spansOf (x.addr.toNat + off) bs.length with
      | none => s.stopItem i.id 0x06
      | some xs => s.endWith i.id (s.writeSpans xs bs) (fun s _ => s.endItem i.id 0 0 ended))
  else if (s.net.peer? (BitVec.ofNat 16 (x.addr.toNat / 2 ^ 32))).isNone then s.stopItem i.id 0x2D
  else
    match State.chainPackets slot r x ((List.range i.gran).map (· + i.first)) s with
    | (s, .ok _, true) => s.endItem i.id 0 0 []
    | (s, .ok _, false) => s
    | (s, y, _) => s.accessFail i.id y

/-- The destination of a tier B release: the sum's range in the tenant's tier B of one race, free of sealed structures
(R148). [DEDUCED, unsafe: log 50] -/
def State.releaseDest (s : State) (t : TenantId) (r : Round) (x : Release) : Bool :=
  x.dest ≠ 1 || (match s.reach t x.addr.toNat r.vbytes with
    | some [sp] => sp.tierB
    | _ => false)

/-- AGG_RELEASE: its first item, of no granules, is decided at its commit; the others transfer the sum while the round
is Releasing for it (R147, R148). -/
def execAggRelease (item : Nat) (s : State) : Host.Outcome State Fault Refusal :=
  .next (s.work item 0x44 (fun i s =>
    let id := BitVec.ofNat 32 (dF i.line 0x10 4)
    if i.index = 0 then s.endItem item 0 0 [.aggRelease id (releaseOf i)] else
    match s.roundOf i.tenant id.toNat with
    | none => s.endItem item 0 0 []
    | some (slot, r) =>
      match r.release with
      | none => s.endItem item 0 0 []
      | some x => if r.state = .releasing && x.ring = i.ring && x.seq = i.seq then s.releaseItem i slot r x
                  else s.endItem item 0 0 []))

/-- The chain fields that the release reads are in range (R155, Table 5-10). -/
def Round.releaseFieldsOk (r : Round) (x : Release) : Bool :=
  !r.chainIn || (decide (1 ≤ x.timeout.toNat) && decide (x.timeout.toNat ≤ 2 ^ 24))

/-- The commit of AGG_RELEASE's first item. [DEDUCED, unsafe: log 50] -/
def State.commitAggRelease (s : State) (t : TenantId) (ring : Fin 64) (seq : W48) (id : W32) (x : Release) : State :=
  s.withRound t ring seq id (fun slot r =>
    if r.opening then s.failDesc t ring seq 0x23 0
    else if !r.releaseFieldsOk x then s.failDesc t ring seq 0x20 0
    else match r.releaseRefusal x with
      | some st => s.failDesc t ring seq st 0
      | none =>
        if !s.releaseDest t r x then s.failDesc t ring seq 0x06 0
        else (s.startRelease slot r x).waitDesc t ring seq)

-- ## AGG_FREE, AGG_ABORT, AGG_QUERY (R133, R151, R154)

/-- AGG_FREE. -/
def execAggFree (item : Nat) (s : State) : Host.Outcome State Fault Refusal :=
  .next (s.work item 0x45 (fun i s => s.endItem item 0 0 [.aggEnd (BitVec.ofNat 32 (dF i.line 0x10 4))]))

/-- AGG_ABORT. -/
def execAggAbort (item : Nat) (s : State) : Host.Outcome State Fault Refusal :=
  .next (s.work item 0x46 (fun i s => s.endItem item 0 0 [.aggEnd (BitVec.ofNat 32 (dF i.line 0x10 4))]))

/-- The commit of AGG_FREE or AGG_ABORT: an abort in Releasing waits for the transfer in progress. -/
def State.commitAggEnd (s : State) (t : TenantId) (ring : Fin 64) (seq : W48) (op : Nat) (id : W32) : State :=
  s.withRound t ring seq id (fun slot r =>
    if op = 0x45 then
      if r.takes [.released] then s.closeRound slot else s.failDesc t ring seq r.stateStatus 0
    else if s.transfers r then
      (s.modRound slot (fun r => { r with aborts := r.aborts ++ [(ring, seq)] })).waitDesc t ring seq
    else s.closeRound slot)

/-- The values that AGG_QUERY writes: state, participants in each state, chunks landed and absorbed, seed entries
accepted and applied, lowest segment cursor (R154). -/
def State.queryValues (s : State) (slot : Fin 64) (r : Round) : List Nat :=
  let code := match r.state with
    | .collecting => 1
    | .closing => 2
    | .unmasking => 3
    | .chainWait => 4
    | .releasing => 5
    | .released => 6
    | .ending => 7
    | .faulted => 8
  let ups := s.uploads slot
  let low := (List.range r.nseg).foldl (fun m g => min m (sget r.segs g {}).cursor) r.log.length
  [code, r.partLimit.toNat - r.listed 1 - r.contributors - r.dropped, r.listed 1, r.listed 2, r.listed 3, r.dropped,
   (ups.map (·.2.landed.toNat)).sum + r.contributors * r.nseg, (ups.map (·.2.absorbed.toNat)).sum + r.contributors * r.nseg,
   r.log.length, low, low]

/-- AGG_QUERY. [DESIGN CHOICE, safe: log 12] -/
def execAggQuery (item : Nat) (s : State) : Host.Outcome State Fault Refusal :=
  .next (s.work item 0x47 (fun i s =>
    match s.roundOf i.tenant (dF i.line 0x10 4) with
    | none => s.stopItem item 0x22
    | some (slot, r) =>
      (s.hostWrite (dF i.line 0x18 8) (padTo 256 (Config.queryLayout (s.queryValues slot r)))).endItem item 0 0 []))

end Sys2Proof.Machine
end

