-- ==== Sys2Proof/Machine/Rng.lean ====
section
/-! DEFINITION. Random numbers: the vanes and their block tests (R381 to R385), the tested-bit pool and the nine DRBG
instances (R387 to R389), raw test mode (R392) and the fatal alarm (R393). -/

namespace Sys2Proof.Machine

-- ## CTR_DRBG with the derivation function (NIST SP 800-90A)

/-- The chaining function BCC. -/
def bcc (key : List Byte) (blocks : List (List Byte)) : List Byte :=
  blocks.foldl (fun chain b => aesBlock key (xorBytes chain (padTo 16 b))) (List.replicate 16 0)

/-- Block_Cipher_df with 48 bytes of output. -/
def drbgDf (input : List Byte) : List Byte :=
  let k0 := (List.range 32).map (BitVec.ofNat 8)
  let body := pad16 (bytesBE 4 input.length ++ bytesBE 4 48 ++ input ++ [0x80])
  let temp := (List.range 3).flatMap (fun i => bcc k0 (chunks 16 (bytesBE 16 (i * 2 ^ 96) ++ body)))
  let k := temp.take 32
  let x1 := aesBlock k ((temp.drop 32).take 16)
  let x2 := aesBlock k x1
  x1 ++ x2 ++ aesBlock k x2

/-- Raw bits as bytes: bit j of the run is bit j mod 8 of byte j div 8 (R386, R7). [DEDUCED, unsafe: log 114] -/
def bitBytes (bs : List Bool) : List Byte :=
  (chunks 8 bs).map (fun c => BitVec.ofNat 8 ((indexed c).foldl (fun a p => a + b2n p.2 * 2 ^ p.1) 0))

/-- A DRBG with its key and V taken from update's result. -/
def Drbg.load (d : Drbg) (x : List Byte × Nat) : Drbg :=
  { d with key := BitVec.ofNat 256 (natLE x.1), v := BitVec.ofNat 128 x.2 }

/-- The key of an instance as bytes. -/
def Drbg.keyBytes (d : Drbg) : List Byte := bytesLE 32 d.key.toNat

/-- Instantiation from 1,024 raw bits of entropy, 512 of nonce and the personalisation string (Table 15-2). -/
def drbgInstantiate (raw : List Bool) (pers : List Byte) : Drbg :=
  ({ on := true } : Drbg).load (drbgUpdate (List.replicate 32 0) 0 (drbgDf (bitBytes raw ++ pers)))

/-- Reseed from 1,024 raw bits. -/
def Drbg.reseed (d : Drbg) (raw : List Bool) : Drbg :=
  { d.load (drbgUpdate d.keyBytes d.v.toNat (drbgDf (bitBytes raw))) with count := 0 }

/-- One generate request of `n` bytes. -/
def Drbg.generate (d : Drbg) (n : Nat) : List Byte × Drbg :=
  let g := drbgGenerate d.keyBytes d.v.toNat n
  (g.1, { d.load (g.2.1, g.2.2) with count := d.count + 1 })

/-- The copy of a persistent slot in force: the valid one with the higher GEN, A on a tie (R358). -/
def slotInForce (p : SlotCopy × SlotCopy) : Option SlotCopy :=
  if p.1.valid && (!p.2.valid || decide (p.2.gen.toNat ≤ p.1.gen.toNat)) then some p.1
  else if p.2.valid then some p.2 else none

/-- The copy in force of a slot; an unlisted slot is empty. -/
def Sec.slot (c : Sec) (i : Nat) : Option SlotCopy :=
  match sget? c.slots i with
  | some p => slotInForce p
  | none => some {}

/-- The identity modulus of the module, from slot 0 (R359, Table 14-3). -/
def State.identityModulus (s : State) : List Byte :=
  bytesAt (match s.sec.slot 0 with
    | some x => x.body
    | none => []) 0 512

/-- The personalisation string of an instance. -/
def State.personal (s : State) (i : Nat) : List Byte := BitVec.ofNat 8 i :: (sha512 s.identityModulus).take 16

-- ## The pool (R388)

/-- Takes bits from the pool, if it holds them. -/
def Rng.take (g : Rng) (n : Nat) : Option (List Bool × Rng) :=
  if n ≤ g.pool.length then some (g.pool.take n, { g with pool := g.pool.drop n }) else none

/-- Instantiates an instance that is off, when the pool holds its bits; instance 8 is first, and with it values and
READY come (R388, R391). -/
def State.instantiate (s : State) (i : Fin 9) : State :=
  if s.rng.fatal || s.rng.drbgs[i].on then s else
  match s.rng.take 1536 with
  | none => s
  | some (raw, g) =>
    let d := drbgInstantiate raw (s.personal i.val)
    let g := { g with drbgs := g.drbgs.set i d, ready := g.ready || i = 8 }
    { s with rng := g }

/-- The instances that are wanted and off, instance 8 before all others until it runs (R388). -/
def State.feedDrbgs (s : State) : State :=
  let s := s.instantiate 8
  if !s.rng.drbgs[8].on then s else
  forEach (allTenants.filter (fun t => s.serves t)) s (fun s t => s.instantiate ⟨t.val, by omega⟩)

/-- Draws `n` bytes from the device's instance; none while it cannot serve (R388, R391, R392). [DEDUCED, unsafe: log 116] -/
def State.drawDevice (s : State) (n : Nat) : State × Option (List Byte) :=
  let d := s.rng.drbgs[8]
  if s.rng.fatal || s.rng.rawActive || !d.on || 2 ^ 16 ≤ d.count then (s, none)
  else
    let g := d.generate n
    (s.modRng (fun r => { r with drbgs := r.drbgs.set 8 g.2 }), some g.1)

/-- DRBG_RESEED (R388). -/
def execDrbgReseed (i : Fin 9) (s : State) : Host.Outcome State Fault Refusal :=
  .next (let d := s.rng.drbgs[i]
    if !d.on || d.count < 2 ^ 16 then s else
    match s.rng.take 1024 with
    | none => s
    | some (raw, g) =>
      { s with rng := { g with drbgs := g.drbgs.set i (d.reseed raw), reseeds := satInc g.reseeds } })

/-- DRBG_FILL: one value into the tenant's response queue of 64 (R389). -/
def execDrbgFill (t : TenantId) (s : State) : Host.Outcome State Fault Refusal :=
  .next (let i : Fin 9 := ⟨t.val, by omega⟩
    let d := s.rng.drbgs[i]
    if s.rng.fatal || s.rng.rawActive || !d.on || 2 ^ 16 ≤ d.count || 64 ≤ s.tenants[t].values.length ||
       s.tick.owned 11 t = 0 then s
    else
      let g := d.generate 4
      (s.modRng (fun r => { r with drbgs := r.drbgs.set i g.2 })).modTenant t (fun x =>
        { x with values := x.values ++ [BitVec.ofNat 32 (natLE g.1)] }))

-- ## The vanes

/-- A vane restarts: trim at its middle, estimates at 0, settling (R381, R385). [DEDUCED, unsafe: log 115] -/
def Vane.restart (v : Vane) : Vane :=
  { v with state := 0, trim := 0x200, bias := 0, corr := 0, inLimits := true, started := 0, tailRun := 0, raw := [] }

/-- The device-wide fatal alarm (R393). -/
def State.rngFatal (s : State) : State :=
  let s := s.modRng (fun g => { g with fatal := true, pool := [], drbgs := Vector.replicate 9 {} })
  let s := forEach allTenants s (fun s t => s.modTenant t (fun x => { x with values := [] }))
  (s.modPwr (fun p => { p with fatalN := true })).logEvent 0xFF { cls := 0x41 }

/-- A failed test of a vane: it restarts, and the third failure in a row retires it (R383, R384). -/
def State.vaneFails (s : State) (v : Fin 4) : State :=
  let x := s.rng.vanes[v]
  if x.failRun = 2 then
    let s := s.modRng (fun g => { g with
      vanes := g.vanes.set v { x.restart with state := 3, failRun := 2 }, retireEvent := true })
    if s.rng.vanes.toList.all (fun y => y.state = 3) && !s.rng.fatal then s.rngFatal else s
  else s.modRng (fun g => { g with vanes := g.vanes.set v { x.restart with failRun := x.failRun + 1 } })

/-- The vane that feeds the pool: the lowest one in service, the vane under raw test left out (R383, R392).
[DEDUCED, unsafe: log 115] -/
def Rng.feeding (g : Rng) : Option (Fin 4) :=
  (List.finRange 4).find? (fun v => g.vanes[v].state = 2 && !(g.rawActive && g.rawVane.toNat = v.val))

/-- Longest run of equal bits, counting a run carried in: longest, last bit, its run so far. -/
def longestRun (bs : List Bool) (last : Bool) (run : Nat) : Nat × Bool × Nat :=
  bs.foldl (fun acc b =>
    let r := if b = acc.2.1 && 0 < acc.2.2 then acc.2.2 + 1 else 1
    (max acc.1 r, b, r)) (0, last, run)

/-- Pairs of equal neighbours. -/
def agreements (bs : List Bool) : Nat := ((bs.zip (bs.drop 1)).filter (fun p => p.1 = p.2)).length

/-- An estimate moved by a sixteenth of its distance to the sample (R385). -/
def estimate (old : W16) (sample : Int) : W16 := BitVec.ofInt 16 (old.toInt + (sample - old.toInt) / 16)

/-- The measures of a block and the estimates after it (Table 15-1, R385). -/
def Vane.measure (v : Vane) (bits : BitVec 1024) : Vane :=
  let bs := (List.range 1024).map bits.getLsbD
  let o := bs.countP id
  let a := agreements bs
  let r := longestRun bs v.tailBit v.tailRun
  let bias := estimate v.bias (((o : Int) - 512) * 16)
  let corr := estimate v.corr ((2 * (a : Int) - 1023) * 16)
  { v with
    ones := BitVec.ofNat 11 o, agree := BitVec.ofNat 11 a, run := BitVec.ofNat 6 (min 63 r.1)
    pass := decide (432 ≤ o) && decide (o ≤ 592) && decide (432 ≤ a) && decide (a ≤ 591) && decide (r.1 ≤ 40)
    bias := bias, corr := corr
    inLimits := (decide (bias.toInt.natAbs ≤ 512)) && (decide (corr.toInt.natAbs ≤ 1024))
    blocks := satInc v.blocks, tailBit := r.2.1, tailRun := r.2.2 }

/-- A block of the vane under raw test goes to the FIFO of four blocks (R392). [DEDUCED, unsafe: log 114] -/
def Rng.rawBlock (g : Rng) (bits : BitVec 1024) (pass : Bool) : Rng :=
  if 128 < g.fifo.length + 32 then { g with overflow := true }
  else { g with fifo := g.fifo ++ (List.range 32).map (fun k => (BitVec.ofNat 32 (fld bits.toNat (32 * k) 32), pass)) }

/-- A passed block: start-up counts four of them, service feeds the pool and the raw port (R383, R386, R388). See R394. -/
def State.vanePasses (s : State) (v : Fin 4) (bits : BitVec 1024) : State :=
  let x := s.rng.vanes[v]
  if x.state = 1 then
    let x' : Vane := if x.started + 1 = 4 then { x with state := 2, failRun := 0, started := 0 }
                     else { x with started := x.started + 1 }
    s.modRng (fun g => { g with vanes := g.vanes.set v x' })
  else
    let kept := (x.raw ++ [bits]).drop (x.raw.length - 1)
    let s := s.modRng (fun g => { g with vanes := g.vanes.set v { x with raw := kept } })
    if s.rng.feeding ≠ some v || s.rng.fatal then s else
    (s.modRng (fun g =>
      if 32 * 1024 < g.pool.length + 1024 then g
      else { g with pool := g.pool ++ (List.range 1024).map bits.getLsbD })).feedDrbgs

/-- VANE_BLOCK_END (R382 to R386, R392). -/
def execVaneBlockEnd (v : Fin 4) (bits : BitVec 1024) (s : State) : Host.Outcome State Fault Refusal :=
  .next (let raw := s.rng.rawActive && s.rng.rawVane.toNat = v.val
    let st := s.rng.vanes[v].state
    if !raw && (st = 0 || st = 3) then s else
    let x := s.rng.vanes[v].measure bits
    let x := if x.pass then x else { x with failCnt := satInc x.failCnt }
    let s := s.modRng (fun g => { g with vanes := g.vanes.set v x, blockFail := g.blockFail || !x.pass })
    if raw then s.modRng (fun g => g.rawBlock bits x.pass)
    else if x.pass then s.vanePasses v bits else s.vaneFails v)

/-- TRIM_STEP (R381): held in raw test mode with FB_FREEZE. -/
def execTrimStep (v : Fin 4) (ones : Fin 65) (s : State) : Host.Outcome State Fault Refusal :=
  .next (if s.rng.rawActive && s.rng.freeze && s.rng.rawVane.toNat = v.val then s else
    s.modRng (fun g =>
      let x := g.vanes[v]
      let t := x.trim
      let t' := if 36 < ones.val then (if t = 0 then t else t - 1)
                else if ones.val < 28 then (if t = BitVec.allOnes 10 then t else t + 1) else t
      { g with vanes := g.vanes.set v { x with trim := t' } }))

/-- VANE_SETTLED: the start-up test begins (R381, R383). -/
def execVaneSettled (v : Fin 4) (s : State) : Host.Outcome State Fault Refusal :=
  .next (s.modRng (fun g => if g.vanes[v].state = 0 then
    { g with vanes := g.vanes.set v { g.vanes[v] with state := 1, started := 0 } } else g))

-- ## Raw test mode (R392)

/-- A write of RAW_REQ: 1 requests the mode; 0 withdraws the request, or ends the mode at the next tick boundary. -/
def State.setRawReq (s : State) (on : Bool) : State :=
  s.modRng (fun g => { g with rawReq := on, rawPend := if on then g.rawPend || !g.rawActive else false })

/-- RAW_REQ. -/
def execRawReq (on : Bool) (s : State) : Host.Outcome State Fault Refusal := .next (s.setRawReq on)

/-- RAW_TEST_START: at the boundary after every race is held. -/
def execRawTestStart (s : State) : Host.Outcome State Fault Refusal :=
  .next (if s.rng.rawPend && s.boundary && s.allHeld then
    s.modRng (fun g => { g with rawActive := true, rawPend := false }) else s)

/-- The mode ends: the FIFO is discarded and the vane restarts, unless it is retired. -/
def State.endRaw (s : State) : State :=
  let v : Fin 4 := ⟨s.rng.rawVane.toNat, by omega⟩
  s.modRng (fun g => { g with
    rawActive := false, fifo := []
    vanes := if g.vanes[v].state = 3 then g.vanes else g.vanes.set v g.vanes[v].restart })

/-- The read of RNG_RAW_DATA: the value, and the state after it. -/
def State.readRaw (s : State) : State × W32 :=
  match s.rng.fifo with
  | [] => (s.modRng (fun g => { g with underrun := true }), 0)
  | (w, _) :: rest => (s.modRng (fun g => { g with fifo := rest }), w)

/-- RNG_RAW_DATA. -/
def execRngRawData (s : State) : Host.Outcome State Fault Refusal := .next s.readRaw.1

end Sys2Proof.Machine
end

