-- ==== Sys2Proof/Machine/Keys.lean ====
section
/-! DEFINITION. Keys: the records of the security MRAM in force (R357 to R362), derivations (R365, R366), blobs (R368),
generation cells (R369, R370), and the key, cipher, package and attestation descriptors (R371 to R377). -/

namespace Sys2Proof.Machine

-- ## Records in force (R358, R362)

/-- The life-cycle record in force. -/
def Sec.lc (c : Sec) : Option LcCopy :=
  if c.lcA.valid && (!c.lcB.valid || decide (c.lcB.gen.toNat ≤ c.lcA.gen.toNat)) then some c.lcA
  else if c.lcB.valid then some c.lcB else none

/-- The life-cycle state: Umber where no copy is valid. -/
def Sec.state (c : Sec) : Nat :=
  match c.lc with
  | some x => x.state.toNat
  | none => 3

/-- A transition is completing (R361). -/
def Sec.pending (c : Sec) : Bool :=
  match c.lc with
  | some x => x.wipe || x.rootPend || x.keygen
  | none => false

/-- The Indigo epoch. -/
def Sec.epoch (c : Sec) : W32 :=
  match c.lc with
  | some x => x.epoch
  | none => 0

/-- The root record in force. -/
def Sec.root (c : Sec) : Option RootCopy :=
  if c.rootA.valid && (!c.rootB.valid || decide (c.rootB.gen.toNat ≤ c.rootA.gen.toNat)) then some c.rootA
  else if c.rootB.valid then some c.rootB else none

/-- The copy in force of a generation cell; an unlisted cell is free at counter 0, and one with no valid copy is unusable. -/
def Sec.cell (c : Sec) (i : Nat) : CellCopy :=
  match sget? c.cells i with
  | some (a, b) => if a.valid && (!b.valid || decide (b.gen.toNat ≤ a.gen.toNat)) then a else if b.valid then b
    else { valid := false }
  | none => {}

/-- Writes the copy of a cell that is not in force (R358). -/
def Sec.writeCell (c : Sec) (i : Nat) (f : CellCopy → CellCopy) : Sec :=
  let now := c.cell i
  let new : CellCopy := { f now with gen := now.gen + 1, valid := true }
  let pair := match sget? c.cells i with
    | some p => if p.1 = now then (p.1, new) else (new, p.2)
    | none => (now, new)
  { c with cells := sset c.cells i pair }

-- ## Derivations (R365, R366)

/-- The key-derivation function of R365. -/
def kdf (key : List Byte) (label : String) (ctx : List Byte) : List Byte :=
  (hmac512 key (bytesBE 4 1 ++ (label.toList.map (fun c => BitVec.ofNat 8 c.toNat)) ++ [0] ++ ctx ++ bytesBE 4 256)).take 32

/-- The ASCII bytes of a text. -/
def ascii (x : String) : List Byte := x.toList.map (fun c => BitVec.ofNat 8 c.toNat)

/-- The test root. -/
def State.testRootKey (s : State) : List Byte := (sha512 (ascii "SARILABOR TEST ROOT" ++ s.identityModulus)).take 32

/-- The tenant derives from the test root: in Slate, or with a race under debug. -/
def State.testRoot (s : State) (t : TenantId) : Bool := s.sec.state = 2 || s.tenants[t].debugRaces ≠ 0

/-- The domain key of a tenant. -/
def State.domainKey (s : State) (t : TenantId) : List Byte :=
  let root := if s.testRoot t then s.testRootKey else bytesLE 32 (match s.sec.root with
    | some r => r.secret.toNat
    | none => 0)
  kdf root "SLBDOMN1" (bytesLE 4 s.sec.epoch.toNat ++ bytesLE 32 s.tenants[t].domain.toNat)

/-- The tenant derives from a root record that has no valid copy: the record is unusable (R358). -/
def State.rootGone (s : State) (t : TenantId) : Bool := !s.testRoot t && s.sec.root.isNone

/-- The domain tag that the tenant's cells bear (R369). -/
def State.cellTag (s : State) (t : TenantId) : W64 :=
  BitVec.ofNat 64 (natLE ((sha512 (bytesLE 32 s.tenants[t].domain.toNat)).take 8))

/-- Cells that bear a tag. -/
def State.cellsBearing (s : State) (tag : W64) : Nat :=
  (s.sec.cells.filter (fun c => (s.sec.cell c.1).tag = tag)).length

-- ## Blobs (Table 14-9)

/-- The 32 bytes of an ancestor list. -/
def ancestorBytes (xs : List (W16 × W32)) : List Byte :=
  padTo 32 (xs.flatMap (fun x => bytesLE 2 x.1.toNat ++ bytesLE 4 x.2.toNat ++ [0, 0]))

/-- The associated data of a blob: bytes 0x00 to 0x37. -/
def Key.aad (k : Key) : List Byte :=
  bytesLE 4 0x31424B57 ++ [1, k.attr, BitVec.ofNat 8 (b2n k.testRoot), k.depth] ++ bytesLE 4 k.epoch.toNat ++
    bytesLE 2 k.cell.toNat ++ [0, 0] ++ bytesLE 8 k.keyId.toNat ++ ancestorBytes k.ancestors

/-- A key sealed in a blob. -/
def Key.blob (k : Key) (sk nonce : List Byte) : List Byte :=
  let c := gcmSeal sk nonce k.aad (bytesLE 32 k.key.toNat)
  k.aad ++ padTo 12 nonce ++ c.1 ++ c.2 ++ List.replicate 12 0

/-- The attributes that a blob's clear bytes give its key, none where they are not of Table 14-9. -/
def blobShape (b : List Byte) : Option Key :=
  let depth := leAt b 7 1
  let anc := (List.range depth).map (fun i => (BitVec.ofNat 16 (leAt b (0x18 + 8 * i) 2), BitVec.ofNat 32 (leAt b (0x1A + 8 * i) 4)))
  let k : Key := { key := 0, attr := BitVec.ofNat 8 (leAt b 5 1), testRoot := leAt b 6 1 = 1, depth := BitVec.ofNat 8 depth,
                   epoch := BitVec.ofNat 32 (leAt b 8 4), cell := BitVec.ofNat 16 (leAt b 0xC 2),
                   keyId := BitVec.ofNat 64 (leAt b 0x10 8), ancestors := anc }
  if decide (depth ≤ 4) && decide (1 ≤ k.attr.toNat) && decide (k.attr.toNat ≤ 4) && decide (leAt b 6 1 < 2) &&
     bytesAt b 0 0x38 = k.aad && leAt b 0x74 12 = 0 then some k else none

/-- The key that a blob holds under a sealing key. -/
def openBlob (sk b : List Byte) : Option Key :=
  match blobShape b with
  | none => none
  | some k =>
    (gcmOpen sk (bytesAt b 0x38 12) (bytesAt b 0 0x38) (bytesAt b 0x44 32) (bytesAt b 0x64 16)).map (fun p =>
      { k with key := BitVec.ofNat 256 (natLE p) })

-- ## Whether an operation may run

/-- Every key operation is refused while locked, in Ochre and Umber, and while a transition completes (R355, R361,
Table 14-7). See R354. -/
def State.keyGate (s : State) : Option Byte :=
  if s.sec.locked then some 0x87
  else if s.sec.state = 0 || s.sec.state = 3 || s.sec.pending then some 0x85 else none

/-- Every ancestor's cell bears the tenant's tag at the recorded counter (R369). -/
def State.keyUsable (s : State) (t : TenantId) (k : Key) : Bool :=
  k.ancestors.all (fun a => a.1 = 0xFFFF ||
    (let c := s.sec.cell a.1.toNat
     c.valid && c.tag = s.cellTag t && c.counter = a.2))

/-- The loaded key of a slot, with the attribute that the operation asks for, or the status that refuses it (R366, R367,
R369). Attribute 0 stands for any. -/
def State.slotKey (s : State) (t : TenantId) (slot attr : Nat) : Except Byte Key :=
  if s.tenants[t].keySlots.toNat ≤ slot then .error 0x80 else
  match sget? s.tenants[t].keys slot with
  | none => .error 0x80
  | some k =>
    if k.testRoot != s.testRoot t then .error 0x86
    else if attr ≠ 0 && k.attr.toNat ≠ attr then .error 0x81
    else if !s.keyUsable t k then .error 0x83
    else .ok k

/-- The slot may be loaded: below KEY_SLOTS and free (R377). -/
def State.slotFree (s : State) (t : TenantId) (slot : Nat) : Bool :=
  decide (slot < s.tenants[t].keySlots.toNat) && (sget? s.tenants[t].keys slot).isNone

/-- The lowest free cell that no item of the tick has claimed, while the tenant's quota leaves one (R369). -/
def State.freeCell (s : State) (t : TenantId) : Option (Fin 1024) :=
  let claimed := s.tick.items.flatMap (fun i => i.effects.filterMap (fun e => match e with
    | .cellClaim c => some (i.tenant, c)
    | _ => none))
  let held := s.cellsBearing (s.cellTag t) +
    (claimed.filter (fun p => s.cellTag p.1 = s.cellTag t)).length
  if s.tenants[t].cells.toNat ≤ held then none else
  (List.finRange 1024).find? (fun c => (s.sec.cell c.val).valid && (s.sec.cell c.val).tag = 0 && !claimed.any (fun p => p.2 = c))

/-- Writes a blob at the descriptor's address, in host or device memory. -/
def State.putBlob (s : State) (i : Item) (b : List Byte) : State × Access :=
  if dF i.line 0x14 1 = 1 then (s.hostWrite (dF i.line 0x18 8) b, .ok []) else s.devWrite i.tenant (dF i.line 0x18 8) b

/-- Runs `f` on a key descriptor's item unless R355 or R361 refuses it. -/
def State.keyWork (s : State) (id op : Nat) (f : Item → State → State) : State :=
  s.work id op (fun i s => match s.keyGate with
    | some st => s.stopItem id st
    | none => f i s)

-- ## KEY_LOAD, KEY_UNLOAD

/-- The key that seals a blob: the domain key, or that of a wrap-only slot. -/
def State.sealKey (s : State) (t : TenantId) (wrap : Nat) : Except Byte (List Byte) :=
  if wrap = 0xFFFF then (if s.rootGone t then .error 0x82 else .ok (s.domainKey t)) else
  match s.slotKey t wrap 3 with
  | .ok k => .ok (bytesLE 32 k.key.toNat)
  | .error e => .error e

/-- A blob's key for a tenant, or the status of its load (R366, R368, R369). -/
def State.unwrap (s : State) (t : TenantId) (wrap : Nat) (b : List Byte) : Except Byte Key :=
  match s.sealKey t wrap, blobShape b with
  | .error e, _ => .error e
  | .ok _, none => .error 0x82
  | .ok sk, some k =>
    if k.testRoot && !s.testRoot t then .error 0x86
    else if k.testRoot != s.testRoot t || k.epoch ≠ s.sec.epoch then .error 0x82
    else match openBlob sk b with
      | none => .error 0x82
      | some k => if s.keyUsable t k then .ok k else .error 0x83

/-- KEY_LOAD; `host` is the blob where the descriptor names host memory. -/
def execKeyLoad (item : Nat) (host : List Byte) (s : State) : Host.Outcome State Fault Refusal :=
  .next (s.keyWork item 0x80 (fun i s =>
    let slot := dF i.line 0x10 2
    if !s.slotFree i.tenant slot then s.stopItem item 0x80 else
    let got : State × Access := if dF i.line 0x14 1 = 1 then (s, .ok (padTo 128 host))
                                else s.devRead i.tenant (dF i.line 0x18 8) 128
    s.endWith item got (fun s b =>
      match s.unwrap i.tenant (dF i.line 0x12 2) b with
      | .error st => s.stopItem item st
      | .ok k => s.endItem item 0 k.keyId.toNat [.key slot (some k)])))

/-- KEY_UNLOAD; like every operation that names the slot it is refused under R366 and R370. [DEDUCED, unsafe: log 105] -/
def execKeyUnload (item : Nat) (s : State) : Host.Outcome State Fault Refusal :=
  .next (s.keyWork item 0x81 (fun i s =>
    let slot := dF i.line 0x10 2
    match s.slotKey i.tenant slot 0 with
    | .error st => s.stopItem item st
    | .ok _ => s.endItem item 0 0 [.key slot none]))

/-- The commit of a load or an unload; a slot that another load of the tick filled first is refused. -/
def State.commitKey (s : State) (t : TenantId) (ring : Fin 64) (seq : W48) (slot : Nat) (k : Option Key) : State :=
  match k with
  | none => s.modTenant t (fun x => { x with keys := sdel x.keys slot })
  | some k => if s.slotFree t slot then s.modTenant t (fun x => { x with keys := sset x.keys slot k })
              else s.failDesc t ring seq 0x80 0

-- ## KEY_GENERATE, KEY_DERIVE, KEY_WRAP

/-- Claims a cell where the descriptor asks for one. -/
def State.cellFor (s : State) (i : Item) : Except Byte (Option (Fin 1024)) :=
  if !bitOf (dF i.line 0x13 1) 0 then .ok none else
  match s.freeCell i.tenant with
  | some c => .ok (some c)
  | none => .error 0x84

/-- The cell's number in a blob or a completion. -/
def cellWord (c : Option (Fin 1024)) : Nat :=
  match c with
  | some c => c.val
  | none => 0xFFFF

/-- Ends an item that made a key: the blob is written, slot and cell take effect at the commit. -/
def State.madeKey (s : State) (item : Nat) (i : Item) (c : Option (Fin 1024)) (k : Key) (nonce : List Byte) : State :=
  s.endWith item (s.putBlob i (k.blob (s.domainKey i.tenant) nonce)) (fun s _ =>
    s.endItem item 0 (k.keyId.toNat + cellWord c * 2 ^ 64)
      (.key (dF i.line 0x10 2) (some k) :: (c.toList.map Effect.cellClaim)))

/-- KEY_GENERATE (R369); it waits while the device's DRBG cannot serve. -/
def execKeyGenerate (item : Nat) (s : State) : Host.Outcome State Fault Refusal :=
  .next (s.keyWork item 0x82 (fun i s =>
    if s.rng.fatal then s.stopItem item 0x13
    else if s.rootGone i.tenant then s.stopItem item 0x82
    else if !s.slotFree i.tenant (dF i.line 0x10 2) then s.stopItem item 0x80
    else match s.cellFor i with
      | .error st => s.stopItem item st
      | .ok c =>
        match s.drawDevice 52 with
        | (s, none) => s
        | (s, some r) =>
          s.madeKey item i c
            { key := BitVec.ofNat 256 (natLE (r.take 32)), attr := BitVec.ofNat 8 (dF i.line 0x12 1),
              testRoot := s.testRoot i.tenant, depth := 0, epoch := s.sec.epoch, cell := BitVec.ofNat 16 (cellWord c),
              keyId := BitVec.ofNat 64 (leAt r 32 8), ancestors := [] } (r.drop 40)))

/-- The ancestor list of a child: the parent's cell and counter, then the parent's list without its fourth entry. -/
def State.childAncestors (s : State) (k : Key) : List (W16 × W32) :=
  ((k.cell, if k.cell = 0xFFFF then 0 else (s.sec.cell k.cell.toNat).counter) :: k.ancestors).take 4

/-- The parent's list is full (DEPTH). -/
def Key.full (k : Key) : Bool :=
  match k.ancestors[3]? with
  | some a => a.1 ≠ 0xFFFF
  | none => false

/-- KEY_DERIVE (R365, R368). -/
def execKeyDerive (item : Nat) (s : State) : Host.Outcome State Fault Refusal :=
  .next (s.keyWork item 0x83 (fun i s =>
    if s.rng.fatal then s.stopItem item 0x13
    else if s.rootGone i.tenant then s.stopItem item 0x82
    else if !s.slotFree i.tenant (dF i.line 0x10 2) then s.stopItem item 0x80
    else match s.slotKey i.tenant (dF i.line 0x16 2) 4 with
      | .error st => s.stopItem item st
      | .ok p =>
        if p.full then s.stopItem item 0x89 else
        match s.cellFor i with
        | .error st => s.stopItem item st
        | .ok c =>
          match s.drawDevice 12 with
          | (s, none) => s
          | (s, some nonce) =>
            let anc := s.childAncestors p
            let attr := BitVec.ofNat 8 (dF i.line 0x12 1)
            let key := kdf (bytesLE 32 p.key.toNat) "SLBCHLD1" (bytesLE 32 (dF i.line 0x20 32) ++ [attr] ++ ancestorBytes anc)
            s.madeKey item i c
              { key := BitVec.ofNat 256 (natLE key), attr := attr, testRoot := s.testRoot i.tenant,
                depth := BitVec.ofNat 8 anc.length, epoch := s.sec.epoch, cell := BitVec.ofNat 16 (cellWord c),
                keyId := BitVec.ofNat 64 (natLE ((hmac512 key (ascii "KEYID")).take 8)), ancestors := anc } nonce))

/-- KEY_WRAP (R368): the loaded key sealed under a wrap-only key. -/
def execKeyWrap (item : Nat) (s : State) : Host.Outcome State Fault Refusal :=
  .next (s.keyWork item 0x84 (fun i s =>
    if s.rng.fatal then s.stopItem item 0x13 else
    match s.slotKey i.tenant (dF i.line 0x10 2) 0, s.slotKey i.tenant (dF i.line 0x12 2) 3 with
    | .error st, _ => s.stopItem item st
    | _, .error st => s.stopItem item st
    | .ok k, .ok w =>
      match s.drawDevice 12 with
      | (s, none) => s
      | (s, some nonce) =>
        s.endWith item (s.putBlob i (k.blob (bytesLE 32 w.key.toNat) nonce)) (fun s _ => s.endItem item 0 0 [])))

-- ## KEY_INVALIDATE, KEY_CELL_FREE (R370)

/-- KEY_INVALIDATE: the cell's counter rises at the commit. [DEDUCED, unsafe: log 105] -/
def execKeyInvalidate (item : Nat) (s : State) : Host.Outcome State Fault Refusal :=
  .next (s.keyWork item 0x85 (fun i s =>
    match s.slotKey i.tenant (dF i.line 0x10 2) 0 with
    | .error st => s.stopItem item st
    | .ok k => if k.cell = 0xFFFF then s.stopItem item 0x84
               else s.endItem item 0 0 [.cellBump (Fin.ofNat 1024 k.cell.toNat)]))

/-- KEY_CELL_FREE. [DEDUCED, unsafe: log 105] -/
def execKeyCellFree (item : Nat) (s : State) : Host.Outcome State Fault Refusal :=
  .next (s.keyWork item 0x86 (fun i s =>
    let c := dF i.line 0x10 2
    if 1024 ≤ c || !(s.sec.cell c).valid || (s.sec.cell c).tag ≠ s.cellTag i.tenant then s.stopItem item 0x84
    else s.endItem item 0 0 [.cellFree (Fin.ofNat 1024 c)]))

/-- The commit of an invalidation: the counter rises, and the loaded children are purged at the commit after. -/
def State.commitBump (s : State) (t : TenantId) (ring : Fin 64) (seq : W48) (c : Fin 1024) (free : Bool) : State :=
  let s := s.modSec (fun x => x.writeCell c.val (fun k =>
    { k with counter := k.counter + 1, tag := if free then 0 else k.tag }))
  let s := s.modTenant t (fun x => { x with purge := x.purge ++ [(c.val, false)] })
  if free then s else s.setBody t ring seq 0 ((s.sec.cell c.val).counter.toNat + c.val * 2 ^ 32)

/-- The loaded keys that descend from a cell leave their slots, in every tenant that holds one, with event 0x31. -/
def State.purgeChildren (s : State) (t : TenantId) (c : Nat) : State :=
  forEach allTenants s (fun s u =>
    let hit (k : Key) : Bool := k.ancestors.any (fun a => a.1.toNat = c && a.2 ≠ (s.sec.cell c).counter)
    if u = t || s.tenants[u].keys.any (fun k => hit k.2) then
      (s.modTenant u (fun x => { x with keys := x.keys.filter (fun k => !hit k.2) })).raise u
        { cls := 0x31, detail := BitVec.ofNat 64 c }
    else s)

/-- At a commit: purges asked for at the one before, and those of this one made due. -/
def State.settlePurges (s : State) (t : TenantId) : State :=
  let due := s.tenants[t].purge
  let s := forEach (due.filter (·.2)) s (fun s p => s.purgeChildren t p.1)
  s.modTenant t (fun x => { x with purge := (x.purge.filter (fun p => !p.2)).map (fun p => (p.1, true)) })

-- ## CRYPT (R371)

/-- The key that an engine holds for a descriptor. -/
def State.engineJob? (s : State) (r : RaceId) (ring : Fin 64) (seq : W48) : Option EngineJob :=
  s.races[r].engine.find? (fun e => e.ring = ring && e.seq = seq)

/-- Ciphertext that this tick's items add for a descriptor, not yet committed. -/
def State.engineTail (s : State) (i : Item) : List Byte :=
  (s.tick.items.filter (fun j => j.id ≠ i.id && j.tenant = i.tenant && j.ring = i.ring && j.seq = i.seq)).flatMap (fun j =>
    j.effects.flatMap (fun e => match e with
      | .engine _ _ ct => ct
      | _ => []))

/-- The commit of an item's ciphertext: the engine keeps the key until the descriptor completes. -/
def State.commitEngine (s : State) (ring : Fin 64) (seq : W48) (r : RaceId) (key : BitVec 256) (ct : List Byte) : State :=
  s.modRace r (fun x =>
    if x.engine.any (fun e => e.ring = ring && e.seq = seq) then
      { x with engine := x.engine.map (fun e => if e.ring = ring && e.seq = seq then { e with run := e.run ++ ct } else e) }
    else { x with engine := x.engine ++ [{ ring := ring, seq := seq, key := key, run := ct }] })

/-- GCM keystream applied to a text that starts at byte `off` of the message, a multiple of 16. -/
def gcmCtrAt (key iv : List Byte) (off : Nat) (text : List Byte) : List Byte :=
  xorBytes text (aesCtr key (fun i => padTo 12 iv ++ bytesBE 4 ((i + 2 + off / 16) % 2 ^ 32)) (ceilDiv text.length 16))

/-- A destination range that a failed check left is zero-filled by the same items again. -/
def State.zeroItem (s : State) (i : Item) (dst len : Nat) : State :=
  let rg := i.range len
  s.endWith i.id (s.devWrite i.tenant (dst + rg.1) (List.replicate rg.2 0)) (fun s _ => s.endItem i.id 0 0 [])

/-- The race of a device address. -/
def raceOfAddr (a : Nat) : RaceId :=
  match devAddr a with
  | some (r, _, _) => r
  | none => 0

/-- The descriptor's items now zero-fill its destination. [DEDUCED, unsafe: log 107] -/
def State.isZeroing (s : State) (i : Item) : Bool :=
  match s.desc? i.tenant i.ring i.seq with
  | some d => d.zeroing
  | none => false

/-- The commit of a failed check: the items run once more, to zero-fill what was written, and the descriptor completes
with AUTH_FAIL. [DEDUCED, unsafe: log 107] -/
def State.commitAuthFail (s : State) (t : TenantId) (ring : Fin 64) (seq : W48) : State :=
  s.modDesc t ring seq (fun d => { d with
    status := 0x82, zeroing := true, todo := d.split, nextGran := 0, done := false, items := d.items + d.split.length })

/-- One item of a CRYPT with its key. [DEDUCED, unsafe: log 104] -/
def State.cryptItem (s : State) (i : Item) (r : RaceId) (key : BitVec 256) : State :=
  let src := dF i.line 0x18 8
  let dst := dF i.line 0x20 8
  let len := dF i.line 0x28 8
  let dec := dF i.line 0x12 1 = 1
  let iv := bytesLE 12 (dF i.line 0x30 12)
  let kb := bytesLE 32 key.toNat
  let rg := i.range len
  s.endWith i.id (s.devRead i.tenant (src + rg.1) rg.2) (fun s x =>
    let y := gcmCtrAt kb iv rg.1 x
    let ct := if dec then x else y
    s.endWith i.id (s.devWrite i.tenant (dst + rg.1) y) (fun s _ =>
      if !i.last then s.endItem i.id 0 0 [.engine r key ct] else
      let before := match s.engineJob? r i.ring i.seq with
        | some e => e.run
        | none => []
      let tag := gcmTag kb iv [] (before ++ s.engineTail i ++ ct)
      if dec then
        s.endWith i.id (s.devRead i.tenant (src + len) 16) (fun s want =>
          s.endItem i.id 0 0 (if want = tag then [.engine r key ct] else [.engine r key ct, .authFail]))
      else
        s.endWith i.id (s.devWrite i.tenant (dst + len) tag) (fun s _ => s.endItem i.id 0 0 [.engine r key ct])))

/-- CRYPT: item 0 loads the slot's key into the engine of the destination's race; the others find it there.
[DEDUCED, unsafe: log 104] -/
def execCrypt (item : Nat) (s : State) : Host.Outcome State Fault Refusal :=
  .next (s.work item 0x87 (fun i s =>
    let dst := dF i.line 0x20 8
    let r := raceOfAddr dst
    if s.isZeroing i then s.zeroItem i dst (dF i.line 0x28 8)
    else match s.engineJob? r i.ring i.seq with
      | some e => s.cryptItem i r e.key
      | none =>
        match s.keyGate with
        | some st => s.stopItem item st
        | none =>
          if i.index ≠ 0 then
            -- item 0 ran in this tick and is not yet committed
            match (s.tick.items.filter (fun j => j.tenant = i.tenant && j.ring = i.ring && j.seq = i.seq)).findSome? (fun j =>
                j.effects.findSome? (fun e => match e with
                  | .engine _ k _ => some k
                  | _ => none)) with
            | some k => s.cryptItem i r k
            | none => s.stopItem item 0x87
          else match s.slotKey i.tenant (dF i.line 0x10 2) (if dF i.line 0x12 1 = 1 then 2 else 1) with
            | .error st => s.stopItem item st
            | .ok k => s.cryptItem i r k.key))

-- ## PKG_OPEN (R372 to R374)

/-- Header bytes of a package with `n` recipients. -/
def pkgHeaderLen (n : Nat) : Nat := 0x500 + 528 * n

/-- A package's signature verifies (R372). -/
def pkgSigned (h : List Byte) (n : Nat) : Bool :=
  pssVerify (natBE (bytesAt h (0x100 + 528 * n) 512)) 65537 (bytesAt h 0 (0x300 + 528 * n)) (bytesAt h (0x300 + 528 * n) 512)

/-- The first 16 bytes of the signer's digest. -/
def pkgSigner (h : List Byte) (n : Nat) : List Byte := (sha512 (bytesAt h (0x100 + 528 * n) 512)).take 16

/-- The member ID of a key body: the first 16 bytes of SHA-512 over its modulus. -/
def memberId (body : List Byte) : List Byte := (sha512 (bytesAt body 0 512)).take 16

/-- The wrapped content key of a member. -/
def pkgRecipient (h : List Byte) (n : Nat) (id : List Byte) : Option (List Byte) :=
  ((List.range n).find? (fun k => bytesAt h (0x100 + 528 * k) 16 = id)).map (fun k => bytesAt h (0x110 + 528 * k) 512)

/-- What stage 1 finds: the content key, or the status that ends the descriptor. [DEDUCED, unsafe: log 106] -/
def State.pkgCheck (s : State) (l : Line) (h : List Byte) : Except Byte (BitVec 256) :=
  let n := leAt h 0xC 2
  let f := dF l 0x10 1
  if leAt h 0 4 ≠ 0x4B474B50 || leAt h 4 2 ≠ 1 || leAt h 6 1 ≠ 1 || n = 0 || 4096 < n || !pkgSigned h n then .error 0x82
  else if bitOf (dF l 0x11 1) 0 && pkgSigner h n ≠ bytesLE 16 (dF l 0x30 16) then .error 0x8A
  else match s.sec.slot (8 + f) with
    | none => .error 0x82
    | some x =>
      if x.cls ≠ 3 then .error 0x88
      else if leAt h 0x10 8 ≠ x.label.toNat then .error 0x88
      else match pkgRecipient h n (memberId x.body) with
        | none => .error 0x88
        | some w =>
          match Config.oaepOpen x.body w with
          | none => .error 0x82
          | some k => if dF l 0x28 8 < leAt h 0x18 8 then .error 0x0E else .ok k

/-- The status with which PKG_OPEN is refused at its start, if it is: gate, flock, state of its slot (R358, R373).
[DEDUCED, unsafe: log 106] -/
def State.pkgRefusal (s : State) (t : TenantId) (f : Nat) : Option Byte :=
  match s.keyGate with
  | some st => some st
  | none =>
    if !s.tenants[t].flocks.getLsbD f then some 0x88
    else if (s.sec.slot (8 + f)).isNone then some 0x82 else none

/-- A later item of PKG_OPEN: decrypts its part and passes the ciphertext through the digest; the last one compares. -/
def State.pkgItem (s : State) (i : Item) (aux : List Nat) (e : EngineJob) : State :=
  let src := dF i.line 0x18 8
  let dst := dF i.line 0x20 8
  let len := aux.getD 0 0
  let kb := bytesLE 32 e.key.toNat
  let r := raceOfAddr dst
  let rg := i.range len
  s.endWith i.id (s.devRead i.tenant src 0x80) (fun s h =>
    s.endWith i.id (s.devRead i.tenant (src + aux.getD 1 0 + rg.1) rg.2) (fun s ct =>
      s.endWith i.id (s.devWrite i.tenant (dst + rg.1) (gcmCtrAt kb (bytesAt h 0x20 12) rg.1 ct)) (fun s _ =>
        if !i.last then s.endItem i.id 0 0 [.engine r e.key ct] else
        let whole := e.run ++ s.engineTail i ++ ct
        if sha512 whole = bytesAt h 0x40 64 && gcmTag kb (bytesAt h 0x20 12) [] whole = bytesAt h 0x30 16 then
          s.endItem i.id 0 (len + aux.getD 2 0 % 2 ^ 64 * 2 ^ 64) [.engine r e.key ct,
            .pkgDone (bytesLE 64 (aux.getD 2 0) ++ bytesLE 16 (aux.getD 3 0) ++ bytesAt h 0x10 8 ++ bytesLE 8 dst)]
        else s.endItem i.id 0 0 [.engine r e.key ct, .authFail])))

/-- PKG_OPEN: item 0 is the RTP's job; the items after it decrypt (R373). -/
def execPkgOpen (item : Nat) (s : State) : Host.Outcome State Fault Refusal :=
  .next (s.work item 0x88 (fun i s =>
    let aux := match s.desc? i.tenant i.ring i.seq with
      | some d => d.aux
      | none => []
    if i.index = 0 then
      match s.pkgRefusal i.tenant (dF i.line 0x10 1) with
      | some st =>
        -- the flock slot has no valid copy (R358, Table 14-14)
        let s := if st = 0x82 then s.raise i.tenant { cls := 0x34, detail := BitVec.ofNat 64 (8 + dF i.line 0x10 1) } else s
        s.stopItem item st
      | none => s.endItem item 0 0 [.pkgJob]
    else if s.isZeroing i then s.zeroItem i (dF i.line 0x20 8) (aux.getD 0 0)
    else match s.engineJob? (raceOfAddr (dF i.line 0x20 8)) i.ring i.seq with
      | some e => s.pkgItem i aux e
      -- a lock or a retirement has purged the engine
      | none => s.stopItem item (s.keyGate.getD 0x87)))

/-- A package that opened joins the tenant's list. -/
def State.commitPkgDone (s : State) (t : TenantId) (entry : List Byte) : State :=
  s.modTenant t (fun x => { x with packages := x.packages ++ [entry] })

-- ## ATTEST (R376)

/-- MGT_DEVICE_ID (Table 0-1). -/
def deviceId : W32 := BitVec.ofNat 32 (0x5A091000 + Config.minorStepping.toNat % 16 * 2 ^ 8)

/-- The distinct images of a tenant's mills in ascending race and logical order: file, races, mills. -/
def State.imagesOf (s : State) (t : TenantId) : List (List Byte × Nat × Nat) :=
  ((s.racesOf t).flatMap (fun r => (List.finRange 24).filterMap (fun k => (s.races[r].mills[k].image).map (fun f => (r, f))))).foldl
    (fun acc p =>
      if acc.any (fun a => a.1 = p.2) then
        acc.map (fun a => if a.1 = p.2 then (a.1, a.2.1 ||| 2 ^ p.1.val, a.2.2 + 1) else a)
      else acc ++ [(p.2, 2 ^ p.1.val, 1)]) []

/-- A certificate of a report: its length, its bytes, padded to 8. -/
def certSection (b : List Byte) : List Byte :=
  let x := bytesLE 2 b.length ++ b
  padTo (8 * ceilDiv x.length 8) x

/-- A report over a nonce: the bytes that the signature covers (Table 14-11). -/
def State.report (s : State) (t : TenantId) (nonce : BitVec 512) : List Byte :=
  let imgs := s.imagesOf t
  let pkgs := s.tenants[t].packages
  let certs := [4, 1, 2].filterMap (fun i => (s.sec.slot i).bind (fun x => if x.cls = 0 then none else some x.body))
  let x := s.tenants[t]
  let csum := ((s.racesOf t).map (fun r =>
    (b2n s.races[r].intEn + 2 * b2n s.races[r].floatEn) * 4 ^ r.val)).sum
  let body := ((imgs.take 32).flatMap (fun p =>
      sha512 p.1 ++ [BitVec.ofNat 8 p.2.1, 0] ++ bytesLE 2 p.2.2 ++ List.replicate 12 0)) ++
    ((pkgs.drop (pkgs.length - 16)).flatMap (padTo 96)) ++ certs.flatMap certSection
  let fw := (List.finRange 4).flatMap (fun i =>
    bytesLE 4 i.val ++ bytesLE 4 (s.sec.fw[i]).svn.toNat ++ bytesLE 64 (s.sec.fw[i]).digest.toNat)
  bytesLE 4 0x52545441 ++ bytesLE 2 1 ++ bytesLE 2 (b2n (decide (32 < imgs.length)) + 2 * b2n (decide (16 < pkgs.length))) ++
    bytesLE 4 (512 + body.length) ++ [BitVec.ofNat 8 s.sec.state, BitVec.ofNat 8 t.val, x.races, x.debugRaces] ++
    bytesLE 4 s.sec.epoch.toNat ++ bytesLE 2 csum ++ [0, 0] ++ bytesLE 4 deviceId.toNat ++ bytesLE 4 0 ++
    bytesLE 8 s.tick.count.toNat ++ bytesLE 2 (min 32 imgs.length) ++ bytesLE 2 (min 16 pkgs.length) ++
    bytesLE 2 certs.length ++ List.replicate 18 0 ++ bytesLE 64 nonce.toNat ++ fw ++ List.replicate 96 0 ++ body

/-- ATTEST; `nonce` is what the item reads at NONCE_ADDR. -/
def execAttest (item : Nat) (nonce : BitVec 512) (s : State) : Host.Outcome State Fault Refusal :=
  .next (s.keyWork item 0x89 (fun _ s =>
    if s.rng.fatal then s.stopItem item 0x13 else s.endItem item 0 0 [.attestJob nonce]))

/-- The commit that accepts a job: it begins now (R374, R376). -/
def State.startJob (s : State) (t : TenantId) (ring : Fin 64) (seq : W48) (report : List Byte) : State :=
  (s.modTenant t (fun x => { x with job := some { ring := ring, seq := seq, tick := s.tick.count, report := report } })).waitDesc
    t ring seq

/-- The commit of ATTEST's item: the report is built and signed under the attestation key. -/
def State.commitAttest (s : State) (t : TenantId) (ring : Fin 64) (seq : W48) (nonce : BitVec 512) : State :=
  let body := s.report t nonce
  match s.sec.slot 3 with
  | none => s.failDesc t ring seq 0x82 0
  | some k =>
    let sig := Config.signature s.sec.draws k.body body
    (s.modSec (fun c => { c with draws := c.draws + 1 })).startJob t ring seq (body ++ bytesBE 512 sig.toNat)

/-- Stage 1 of PKG_OPEN ends well: the key is in the engine and the items of the body are planned (R373). -/
def State.pkgPlan (s : State) (t : TenantId) (ring : Fin 64) (seq : W48) (l : Line) (h : List Byte) (key : BitVec 256) :
    State :=
  let n := leAt h 0xC 2
  let len := leAt h 0x18 8
  let off := ceilDiv (pkgHeaderLen n) 4096 * 4096
  let dst := dF l 0x20 8
  match admitCopy s t (dF l 0x18 8 + off) dst len [] with
  | .refuse st => s.failDesc t ring seq st 0
  | .go x =>
    match x.items none (s.budget t (dClass l)) with
    | none => s.failDesc t ring seq 0x01 0
    | some items =>
      let gs := items.map (·.1)
      (s.commitEngine ring seq (raceOfAddr dst) key []).modDesc t ring seq (fun d => { d with
        waits := false, todo := gs, split := gs, nextGran := 0, items := 1 + gs.length, shape := (x.per, x.fixed, [])
        aux := [len, off, natLE (sha512 (bytesAt h 0 (pkgHeaderLen n))), natLE (pkgSigner h n)] })

/-- RTP_JOB_DONE: at the first commit 200 ms after acceptance the tenant's job ends, LATE where the RTP restarted under
it (R355, R373, R374, R376). [DEDUCED, unsafe: log 113] -/
def execRtpJobDone (t : TenantId) (s : State) : Host.Outcome State Fault Refusal :=
  .next (match s.tenants[t].job with
    | none => s
    | some j =>
      if (s.tick.count - j.tick).toNat * s.tick.period.toNat < 200000 then s else
      let s := s.modTenant t (fun x => { x with job := none })
      if j.late then s.failDesc t j.ring j.seq 0x0C 0
      else match s.keyGate with
        | some st => s.failDesc t j.ring j.seq st 0
        | none =>
          match s.desc? t j.ring j.seq with
          | none => s
          | some d =>
            if dOp d.line = 0x89 then
              (s.hostWrite (dF d.line 0x10 8) j.report).failDesc t j.ring j.seq 0 (j.report.length - 512)
            else
              match s.devRead t (dF d.line 0x18 8) 0x500 with
              | (s, .ok h0) =>
                (match s.devRead t (dF d.line 0x18 8) (pkgHeaderLen (min 4096 (leAt h0 0xC 2))) with
                 | (s, .ok h) =>
                   (match s.pkgCheck d.line h with
                    | .ok key => s.pkgPlan t j.ring j.seq d.line h key
                    | .error st => s.failDesc t j.ring j.seq st 0)
                 | (s, .status st) => s.failDesc t j.ring j.seq st 0
                 | (s, _) => s.failDesc t j.ring j.seq 0x0B 0)
              | (s, .status st) => s.failDesc t j.ring j.seq st 0
              | (s, _) => s.failDesc t j.ring j.seq 0x0B 0)

/-- KEY_LOAD_LATE: the RTP has not finished a key load by the end of its window; the item fails with LATE (R68, R356). -/
def execKeyLoadLate (t : TenantId) (s : State) : Host.Outcome State Fault Refusal :=
  .next (match s.tick.items.find? (fun i => i.live && i.tenant = t && i.kind = .desc && 0 < sget i.price 82 0) with
    | some i => s.stopItem i.id 0x0C
    | none => s)

end Sys2Proof.Machine
end

