-- ==== Sys2Proof/Machine/Boundary.lean ====
section
/-! DEFINITION. What tick boundaries and recoveries share: the boundary itself, descriptors given back to their rings
(R42, R64), items of a whole tenant cut (R199, R318), and reassembly entries restarted (R303). -/

namespace Sys2Proof.Machine

/-- The tenant is held with HELD set; a number with no tenant counts as held (R64, R201). -/
def State.tenantHeld (s : State) (t : TenantId) : Bool :=
  !s.tenants[t].state.owns || ((s.racesOf t).all (fun r => s.races[r].held))

/-- Descriptors fetched and not accepted go back to their rings: their staging entries are free, each ring's next
fetch is its oldest unaccepted sequence, and their items leave the tick (R42, R64). -/
def State.giveBack (s : State) (t : TenantId) : State :=
  let mine := s.tenants[t].descs.filter (fun d => !d.accepted)
  let s := forEach mine s (fun s d =>
    let s := s.freeStaging t (s.wring t d.ring).cring
    s.ringStatus (s.lowest t) d.ring (fun w => { w with next := if seqBefore d.seq w.next then d.seq else w.next }))
  let s := s.modTick (fun k => { k with items := k.items.filter (fun i =>
    !(i.tenant = t && i.kind = .desc && mine.any (fun d => d.ring = i.ring && d.seq = i.seq))) })
  s.modTenant t (fun x => { x with descs := x.descs.filter (·.accepted) })

/-- Cuts every item of a tenant in the tick, also those that have ended or stopped: none of them commits (R199, R318). -/
def State.cutTenant (s : State) (t : TenantId) : State :=
  forEach (s.tick.items.filter (fun i => i.tenant = t && i.state ≠ .cut && !(i.state = .stopped && i.status = 0x04))) s
    (fun s i => (s.modItem i.id (fun i => { i with state := .running })).cutItem i.id)

/-- Accepted packets that were not placed are discarded: their entries start again with the restart count raised, and
their senders receive RESTART (R303). -/
def State.restartEntries (s : State) (t : TenantId) : State :=
  forEach (s.tenants[t].weir.reasm.filter (fun e => !e.buffer.isEmpty)) s (fun s e =>
    let n : BitVec 4 := satInc e.restart
    (s.status e.hdr n 0x44 0).modReasm t e.key (fun e =>
      { e with restart := n, cum := 0, got := [], unreported := 0, placed := 0, buffer := [] }))

end Sys2Proof.Machine
end

