-- ==== Sys2Proof/Machine/Tree.lean ====
section
/-! DEFINITION. The speculative tree: node entries (Table 6-6), their validity (R170), the attention mask (R172) and
the acceptance walk (R173). -/

namespace Sys2Proof.Machine

/-- A node entry (Table 6-6). -/
structure Node where
  token  : W32
  parent : Nat
  depth  : Nat
  valid  : Bool
  rsv    : Nat
deriving DecidableEq, Repr

/-- The 64 node entries of 512 bytes. -/
def nodesOf (bs : List Byte) : List Node :=
  (List.range 64).map (fun i =>
    let w := leAt bs (8 * i) 8
    { token := BitVec.ofNat 32 w, parent := fld w 32 6, depth := fld w 38 6, valid := bitOf w 44, rsv := fld w 45 19 })

/-- The 8 bytes of a node entry. -/
def Node.bytes (n : Node) : List Byte :=
  bytesLE 8 (n.token.toNat + n.parent * 2 ^ 32 + n.depth * 2 ^ 38 + b2n n.valid * 2 ^ 44 + n.rsv * 2 ^ 45)

/-- Node 0 is valid, its token equal to the root where one is given (R170, R172). -/
def rootValid (n : Node) (root : Option W32) : Bool :=
  n.valid && n.parent = 0 && n.depth = 0 && n.rsv = 0 && (match root with
    | some t => n.token = t
    | none => true)

/-- Node `i` > 0 is valid, every node below it being so (R170). -/
def nodeValid (ns : List Node) (i : Nat) (n : Node) : Bool :=
  n.valid && n.rsv = 0 && decide (n.parent < i) &&
    (match ns[n.parent]? with
     | some p => n.depth = p.depth + 1
     | none => false)

/-- Nodes counted valid from index `i` on, all below it being valid. -/
def countValid (ns : List Node) : Nat → List Node → Nat
  | i, n :: rest => if nodeValid ns i n then countValid ns (i + 1) rest else i
  | i, [] => i

/-- N, the number of valid nodes (R170). -/
def treeCount (ns : List Node) (root : Option W32) : Nat :=
  match ns with
  | [] => 0
  | n :: rest => if rootValid n root then countValid ns 1 rest else 0

/-- `j` is `i` or an ancestor of `i`; `fuel` bounds the depth. -/
def isAncestor (ns : List Node) (j : Nat) : Nat → Nat → Bool
  | _, 0 => false
  | i, fuel + 1 => if i = j then true else if i = 0 then false else
    match ns[i]? with
    | some n => isAncestor ns j n.parent fuel
    | none => false

/-- The mask keeps column `j` in row `i` (R172). -/
def maskKeeps (ns : List Node) (count i j : Nat) : Bool :=
  if i < count then decide (j < count) && isAncestor ns j i 64 else i = j

/-- The child that the walk takes at node `cur`: the first whose token is the verdict's (R169, R173). -/
def childOf (ns : List Node) (count : Nat) (verdict : List W32) (cur : Nat) : Option Nat :=
  (List.range count).find? (fun i => decide (0 < i) && (match ns[i]? with
    | some n => n.parent = cur && n.token = verdict.getD cur 0
    | none => false))

/-- The path of the walk after node `cur`. -/
def walkFrom (ns : List Node) (count : Nat) (verdict : List W32) : Nat → Nat → List Nat
  | _, 0 => []
  | cur, fuel + 1 =>
    match childOf ns count verdict cur with
    | some c => c :: walkFrom ns count verdict c fuel
    | none => []

/-- The path of committed candidates, node 0 first. -/
def walkPath (ns : List Node) (count : Nat) (verdict : List W32) : List Nat := 0 :: walkFrom ns count verdict 0 64

/-- The tokens that the walk would emit: each path node's, then the verdict after the last one. -/
def walkEmit (ns : List Node) (count : Nat) (verdict : List W32) : List W32 :=
  let path := walkPath ns count verdict
  (path.drop 1).map (fun i => ((ns[i]?).map (·.token)).getD 0) ++ [verdict.getD (path.getLast?.getD 0) 0]

/-- The emitted tokens cut at REMAIN and at the stop token (R173); STOP_TOKEN 0xFFFF_FFFF is none (Table 6-1). -/
def truncateEmit (emit : List W32) (remain : Nat) (stop : W32) : List W32 :=
  let cut := emit.take remain
  if stop = 0xFFFFFFFF#32 then cut else
  match cut.findIdx? (· = stop) with
  | some j => cut.take (j + 1)
  | none => cut

end Sys2Proof.Machine
end

