-- ==== Sys2Proof/Machine/Passes.lean ====
section
/-! DEFINITION. Token generation: models, sessions, runs and passes; their items; and what the commit makes of them
(chapter 6). -/

namespace Sys2Proof.Machine

/-- SLICES. -/
def Model.slices (m : Model) : Nat := m.f 0x12 2
/-- TARGET_ENTRY. -/
def Model.target (m : Model) : Nat := m.f 0x14 1
/-- DRAFT_ENTRY, none for 0xFF. -/
def Model.draft (m : Model) : Option Nat := if m.f 0x15 1 = 0xFF then none else some (m.f 0x15 1)

-- ## Models (R157, R158)

/-- The model that a DEC_MODEL describes. -/
def modelOf (l : Line) : Model := { fields := bytesLE 64 l.toNat, cls := dClass l }

/-- The regions of a model in one race: weights in tier A, master copy, frame pool, hot pool. -/
def Model.regions (m : Model) (r : RaceId) : List Span :=
  [{ race := r, tierB := false, off := m.f 0x18 4 * mib, len := m.f 0x20 4 * mib },
   { race := r, tierB := true, off := m.f 0x1C 4 * mib, len := m.f 0x20 4 * mib },
   { race := r, tierB := true, off := m.f 0x24 4 * mib, len := m.f 0x28 4 * m.frameBytes },
   { race := r, tierB := false, off := m.f 0x2C 4 * mib, len := m.hotOff (m.f 0x30 4) - m.f 0x2C 4 * mib }]

/-- A span lies in the tenant's part of its tier and meets no sealed structure. -/
def State.spanOk (s : State) (x : Span) : Bool :=
  decide (x.off + x.len ≤ (if x.tierB then tenantTb else 64 * gib)) && !s.sealed x

/-- The checks of R158 and R131 hold for a DEC_MODEL. -/
def State.modelOk (s : State) (t : TenantId) (l : Line) : Bool :=
  let m := modelOf l
  let rs := s.racesOf t
  let draft : Span := { race := s.lowest t, tierB := true, off := m.f 0x34 4 * mib, len := m.f 0x3C 4 * 1024 }
  rs.all (fun r => (m.regions r).all s.spanOk) && s.spanOk draft &&
    !overlaps (m.f 0x18 4 * mib) (m.f 0x20 4 * mib) (m.f 0x2C 4 * mib) (m.hotOff (m.f 0x30 4) - m.f 0x2C 4 * mib) &&
    decide ((m.f 0x38 4 + m.f 0x3C 4) * 1024 ≤ s.tenants[t].draftSize.toNat * mib) &&
    (match s.setImage (s.tenantMills t (dClass l)) with
     | none => false
     | some f => (m.target :: m.draft.toList).all (fun e =>
         decide (e < imgEntries f) && bitOf (imgClasses f e) (dClass l).val))

/-- An open session of the tenant uses the model slot. -/
def State.modelUsed (s : State) (t : TenantId) (slot : Nat) : Bool :=
  s.ctxs.any (fun c => match c.2 with
    | .session x => x.tenant = t && x.model.val = slot
    | .part _ => false)

/-- Copies bytes from one span to another of the same length. -/
def State.copySpan (s : State) (a b : Span) : State × Access :=
  match s.readSpan a false with
  | (s, .ok bs) => s.writeAt b.race b.tierB b.off bs
  | (s, y) => (s, y)

/-- The part of both copies of a DEC_MODEL that an item's granules make: weights in every race, and the draft. -/
def State.modelCopy (s : State) (t : TenantId) (l : Line) (first gran : Nat) : State × Access :=
  let m := modelOf l
  let cut (len : Nat) : Nat × Nat := (first * 4096, min (gran * 4096) (len - first * 4096))
  let w := cut (m.f 0x20 4 * mib)
  let got := (s.racesOf t).foldl (fun (acc : State × Access) r => match acc.2 with
    | .ok _ => acc.1.copySpan { race := r, tierB := true, off := m.f 0x1C 4 * mib + w.1, len := w.2 }
                              { race := r, tierB := false, off := m.f 0x18 4 * mib + w.1, len := w.2 }
    | _ => acc) (s, .ok [])
  let d := cut (m.f 0x3C 4 * 1024)
  match got with
  | (s, .ok _) =>
    (match s.readSpan { race := s.lowest t, tierB := true, off := m.f 0x34 4 * mib + d.1, len := d.2 } false with
     | (s, .ok bs) =>
       ({ s with mem := memPuts s.mem (draftAddr (s.tenants[t].draftBase.toNat * mib + m.f 0x38 4 * 1024 + d.1)) bs },
        .ok [])
     | (s, y) => (s, y))
  | (s, y) => (s, y)

/-- DEC_MODEL: its items make both copies; with the last one the model takes its slot (R157, R158). -/
def execDecModel (item : Nat) (s : State) : Host.Outcome State Fault Refusal :=
  .next (s.work item 0x50 (fun i s =>
    let slot := dF i.line 0x10 1
    let unload := dF i.line 0x11 1 = 1
    if s.modelUsed i.tenant slot then s.stopItem item 0x33
    else if unload then s.endItem item 0 0 [.model (Fin.ofNat 16 slot) none]
    else if !s.modelOk i.tenant i.line then s.stopItem item 0x31
    else s.endWith item (s.modelCopy i.tenant i.line i.first i.gran) (fun s _ =>
      s.endItem item 0 0 (if i.last then [.model (Fin.ofNat 16 slot) (some (modelOf i.line))] else []))))

-- ## Sessions (R160 to R163, R179)

/-- The session block may lie at this tier B offset. [DEDUCED, unsafe: log 55] -/
def State.blockOk (s : State) (t : TenantId) (kib : Nat) : Bool :=
  (s.racesOf t).all (fun r => s.spanOk { race := r, tierB := true, off := kib * 1024, len := 16384 })

/-- Why a DEC_OPEN is refused, if it is. -/
def State.openRefusal (s : State) (t : TenantId) (l : Line) : Option Byte :=
  let c := dF l 0x10 4
  let x := s.tenants[t]
  if c < x.ctxBase.toNat || x.ctxBase.toNat + x.ctxCount.toNat ≤ c || (sget? s.ctxs c).isSome then some 0x32
  else if (s.model? t (dF l 0x14 1)).isNone then some 0x31
  else if !s.blockOk t (dF l 0x20 4) then some 0x06
  else if dF l 0x15 1 = 1 && s.rng.fatal then some 0x39 else none

/-- The session that a DEC_OPEN opens. -/
def sessionOf (t : TenantId) (l : Line) (seed : W64) : Session :=
  { tenant := t, state := .idle, seedDrbg := dF l 0x15 1 = 1, model := Fin.ofNat 16 (dF l 0x14 1), seed := seed,
    blockOff := BitVec.ofNat 32 (dF l 0x20 4), stopToken := BitVec.ofNat 32 (dF l 0x24 4),
    outAddr := BitVec.ofNat 64 (dF l 0x28 8), outTokens := BitVec.ofNat 32 (dF l 0x30 4),
    compRing := BitVec.ofNat 4 (dF l 0x16 1) }

/-- DEC_OPEN (R160, R179); with SEED_DRBG it takes two values, and waits while the queue does not hold them.
[DEDUCED, unsafe: log 55] -/
def execDecOpen (item : Nat) (host : List Byte) (s : State) : Host.Outcome State Fault Refusal :=
  .next (s.work item 0x51 (fun i s =>
    match s.openRefusal i.tenant i.line with
    | some st => s.stopItem item st
    | none =>
      let done (s : State) (seed : W64) : State :=
        s.endItem item 0 0 [.decOpen (BitVec.ofNat 18 (dF i.line 0x10 4)) (sessionOf i.tenant i.line seed)
          (bytesAt host 0 256)]
      if dF i.line 0x15 1 = 0 then done s (BitVec.ofNat 64 (dF i.line 0x18 8)) else
      match s.tenants[i.tenant].values with
      | a :: b :: rest =>
        done (s.modTenant i.tenant (fun x => { x with values := rest })) (BitVec.ofNat 64 (a.toNat + b.toNat * 2 ^ 32))
      | _ => s))

/-- The session of a descriptor's CONTEXT, if the tenant holds one there. -/
def State.ownSession (s : State) (t : TenantId) (c : Nat) : Option Session :=
  match sget? s.ctxs c with
  | some (.session x) => if x.tenant = t then some x else none
  | _ => none

/-- DEC_PAGES (R163): the entries reach the block at the commit. -/
def execDecPages (item : Nat) (host : List Byte) (s : State) : Host.Outcome State Fault Refusal :=
  .next (s.work item 0x52 (fun i s =>
    let c := dF i.line 0x10 4
    let first := dF i.line 0x14 4
    let n := dF i.line 0x18 4
    match s.ownSession i.tenant c with
    | none => s.stopItem item 0x32
    | some x =>
      if x.state ≠ .idle && decide (first ≤ x.position.toNat / 64 + 4) then s.stopItem item 0x33
      else s.endItem item 0 0 [.decPages (BitVec.ofNat 18 c) (BitVec.ofNat 32 first)
        ((List.range n).map (fun k => BitVec.ofNat 32 (leAt host (4 * k) 4)))]))

/-- DEC_RUN (R185): decided at its commit; `host` holds the one prompt token that needs no prefill pass. -/
def execDecRun (item : Nat) (host : List Byte) (s : State) : Host.Outcome State Fault Refusal :=
  .next (s.work item 0x53 (fun i s =>
    s.endItem item 0 0 [.decRun (BitVec.ofNat 18 (dF i.line 0x10 4)) (BitVec.ofNat 32 (dF i.line 0x14 4))
      (BitVec.ofNat 64 (dF i.line 0x18 8)) (BitVec.ofNat 32 (dF i.line 0x20 4)) (BitVec.ofNat 32 (leAt host 0 4))]))

/-- DEC_STOP (R181). -/
def execDecStop (item : Nat) (s : State) : Host.Outcome State Fault Refusal :=
  .next (s.work item 0x54 (fun i s => s.endItem item 0 0 [.decStop (BitVec.ofNat 18 (dF i.line 0x10 4))]))

/-- DEC_CLOSE (R183). -/
def execDecClose (item : Nat) (s : State) : Host.Outcome State Fault Refusal :=
  .next (s.work item 0x55 (fun i s => s.endItem item 0 0 [.decClose (BitVec.ofNat 18 (dF i.line 0x10 4))]))

-- ## Runs

/-- Row of Table 6-8 that a run's final status belongs to. -/
def runRow (st : Byte) : Nat := [0, 0x37, 0x38, 0x35, 0x36, 0x03, 0x05, 0x04].idxOf st.toNat

/-- The status with which a run is to end: of two events before one commit, the earlier row of Table 6-8 (R181). -/
def Session.endAs (x : Session) (st : Byte) : Option Byte :=
  match x.ending with
  | some e => if runRow st < runRow e then some st else some e
  | none => some st

/-- A status that gives the pass in progress up at once (Table 6-8, R165). -/
def givesUp (st : Byte) : Bool := st = 0x03 || st = 0x01 || st = 0x31

/-- Frees the hot frames of a context in every race of its model (R177). -/
def State.freeFrames (s : State) (t : TenantId) (slot ctx : Nat) : State :=
  s.modModel t slot (fun m => { m with hot := m.hot.map (fun fs => fs.filter (fun f => f.2.1 ≠ ctx)) })

/-- The staging areas of a model in the tenant's races. -/
def State.stagingSpans (s : State) (t : TenantId) (m : Model) : List Span :=
  (s.racesOf t).map (fun r => { race := r, tierB := false, off := m.stagingOff, len := m.stagingBytes })

/-- Zero-fills the staging rows of a session's model. -/
def State.zeroStaging (s : State) (x : Session) : State :=
  match s.model? x.tenant x.model.val with
  | some m => s.zeroSpans (s.stagingSpans x.tenant m)
  | none => s

/-- Drops the items of a session's pass. -/
def State.dropPassItems (s : State) (c : BitVec 18) : State :=
  s.modTick (fun k => { k with items := k.items.filter (fun i => !(match i.kind with
    | .promotion d => d = c
    | .draft d => d = c
    | .slice d => d = c
    | .accept d => d = c
    | _ => false)) })

/-- Ends a session's run with a status (Table 6-8): the session is Idle at its last committed pass. -/
def State.endRun (s : State) (c : BitVec 18) (status : Byte) : State :=
  match s.session? c with
  | none => s
  | some x =>
    let s := if x.pass.isSome then s.zeroStaging x else s
    let s := (s.freeFrames x.tenant x.model.val c.toNat).dropPassItems c
    let s := match x.run with
      | some (ring, seq) => s.failDesc x.tenant ring seq status
          (x.position.toNat + x.emitted.toNat * 2 ^ 32 + x.runPasses.toNat * 2 ^ 64)
      | none => s
    s.modSession c (fun x => { x with state := .idle, pass := none, run := none, ending := none })

/-- Positions that a session can use: 64u (R162). -/
def State.room (s : State) (x : Session) : Nat := 64 * presentPages s x (s.lowest x.tenant) 3584 0

/-- The length of the next prefill chain and how many prompt tokens it takes: the pending root and prompt tokens,
never the last one (R173, R168). -/
def Session.chainFit (x : Session) (room : Nat) : Nat :=
  min (min 256 (b2n x.rootValid + (x.promptLeft.toNat - 1))) (room - x.position.toNat)

/-- The pass that a Running session starts next, none where R168 finds no room. [DEDUCED, unsafe: log 30] -/
def State.nextPass (s : State) (x : Session) : Option Pass :=
  let room := s.room x
  if 0 < x.promptLeft.toNat then
    let b := x.chainFit room
    let tok := b - b2n x.rootValid
    let all := tok + 1 = x.promptLeft.toNat
    if b = 0 then none else some { prefill := true, nodes := b, fetched := tok + b2n all }
  else if x.position.toNat + 64 ≤ room then some { prefill := false, nodes := 64 } else none

/-- B of R165. -/
def Pass.width (p : Pass) : Nat := if p.prefill then p.nodes else 64

/-- Hot frames of a model in a race that promotions in the tick, not yet committed, are filling. -/
def State.promoting (s : State) (t : TenantId) (slot : Fin 16) (r : RaceId) : List Nat :=
  s.tick.items.filterMap (fun i => match i.kind with
    | .promotion c => if i.tenant = t && (s.session? c).any (fun x => x.model = slot) && i.args.headD 0 = BitVec.ofNat 32 r.val
        then some (i.args.getD 2 0).toNat else none
    | _ => none)

/-- The first `n` pages of a session that have no hot frame in a race, with the lowest free frames for them; `busy`
are frames being filled. -/
def promotionsOf (m : Model) (ctx : Nat) (r : RaceId) (busy : List Nat) (n : Nat) : List (Nat × Nat) :=
  let need := (List.range n).filter (fun p => (m.hotFrame r ctx p).isNone)
  let free := (List.range (min (m.f 0x30 4) (need.length + m.hot[r].length + busy.length))).filter (fun i =>
    !(m.hot[r].any (fun f => f.1 = i)) && !busy.contains i)
  need.zip free

/-- Price of a decode entry of the loaded image: the components of Table 3-19 with arg1, arg2 and g (R165). See R48. -/
def State.entryPrice (s : State) (t : TenantId) (f : List Byte) (e a1 a2 g : Nat) : List (Nat × Nat) :=
  let v (c : Nat) : Nat := match entryComp f e c a1 a2 0 g with
    | some x => x.1 + x.2 * g
    | none => 2 ^ 64
  let rs := s.racesOf t
  priceAdd [] ([(0, v 0 + 2500 * v 1), (81, v 1)] ++ rs.map (fun r => (cTa r, v 2)) ++ rs.map (fun r => (cTbR r, v 3)) ++
    rs.map (fun r => (cTbW r, v 4)))

/-- Component of the cycles of one mill, for the device's own work on it. -/
def cMill (m : MillName) : Nat := 1000 + 24 * m.race.val + m.mill.val

/-- Cycles on the mills of an item, component by component. -/
def expandPrice (p : List (Nat × Nat)) (mills : List MillName) : List (Nat × Nat) :=
  p.flatMap (fun x => if x.1 = 0 then mills.map (fun m => (cMill m, x.2)) else [x])

/-- Price of a draft item, on every class mill of every race of the tenant (Table 6-4, R165). -/
def State.draftPrice (s : State) (x : Session) (m : Model) (p : Pass) (f : List Byte) : List (Nat × Nat) :=
  let pg := ceilDiv x.position.toNat 64
  let own := match m.draft with
    | some e => expandPrice (s.entryPrice x.tenant f e pg 0 0) (s.tenantMills x.tenant x.cls)
    | none => (s.tenantMills x.tenant x.cls).map (fun k => (cMill k, 2000))
  if p.prefill && 0 < p.fetched then priceAdd own (hostReadSlots (4 * p.fetched)) else own

/-- Price of an accept item, on every class mill of every race of the tenant (Table 6-4, R165). -/
def State.acceptPrice (s : State) (x : Session) (m : Model) (p : Pass) : List (Nat × Nat) :=
  let n := p.width * 64 * m.kvb
  let tb := ceilDiv n 1792 * 1792
  let rs := s.racesOf x.tenant
  rs.map (fun r => (cTa r, 3 * n)) ++ rs.map (fun r => (cTbW r, tb)) ++
    (s.tenantMills x.tenant x.cls).map (fun k => (cMill k, 500 + ceilDiv tb 240))

-- ## Items of a pass

/-- A pass after its draft item: the node count, the chain and the last prompt token (R171, R173). -/
def Pass.drafted (p : Pass) (nodes : Nat) (fixed : Bool) (chain : List W32) (last : Option W32) : Pass :=
  { p with nodes := nodes, treeFixed := fixed, chain := chain, lastTok := last, stage := 2 }

/-- The pass as the draft item of this tick, not yet committed, leaves it. -/
def State.passNow (s : State) (c : BitVec 18) (p : Pass) : Pass :=
  ((s.tick.items.flatMap (·.effects)).find? (fun e => match e with
    | .drafted d _ _ _ _ => d = c
    | _ => false)).elim p (fun e => match e with
      | .drafted _ n f ch l => p.drafted n f ch l
      | _ => p)

/-- The session of a pass item. -/
def Item.session (i : Item) : Option (BitVec 18) :=
  match i.kind with
  | .promotion c => some c
  | .draft c => some c
  | .slice c => some c
  | .accept c => some c
  | _ => none

/-- Every earlier item of the item's session in the tick has ended: a pass's items run in the order of Table 6-4. -/
def State.passTurn (s : State) (i : Item) : Bool :=
  (s.tick.items.takeWhile (fun j => j.id ≠ i.id)).all (fun j => j.session.isNone || j.session ≠ i.session || j.state = .ended)

/-- Runs `f` for a live item of this kind whose turn it is, its session, model and pass. -/
def State.passWork (s : State) (id : Nat) (k : ItemKind → Option (BitVec 18))
    (f : Item → BitVec 18 → Session → Model → Pass → State) : State :=
  match s.item? id with
  | none => s
  | some i =>
    match k i.kind with
    | none => s
    | some c =>
      match s.session? c with
      | none => s
      | some x =>
        match s.model? x.tenant x.model.val, x.pass with
        | some m, some p => if i.live && s.passTurn i then f i c x m (s.passNow c p) else s
        | _, _ => s

/-- PROMOTION: a page, or granules of it, from tier B to a hot frame of one race (R166, R177). The item's arguments
are race, page, hot frame, first granule and granules. -/
def execPromotion (item : Nat) (s : State) : Host.Outcome State Fault Refusal :=
  .next (s.passWork item (fun k => match k with
      | .promotion c => some c
      | _ => none) (fun i c x m _ =>
    let a (n : Nat) : Nat := (i.args.getD n 0).toNat
    let r : RaceId := Fin.ofNat 8 (a 0)
    match s.pageFrame x r (a 1) with
    | none => s.endItem item 0 0 []
    | some fr =>
      if m.f 0x28 4 ≤ fr then s.stopItem item 0x36 else
      let off := a 3 * 4096
      s.endWith item (s.copySpan { race := r, tierB := true, off := m.frameOff fr + off, len := a 4 * 4096 }
                                 { race := r, tierB := false, off := m.hotOff (a 2) + off, len := a 4 * 4096 })
        (fun s _ => s.endItem item 0 0 (if i.last then [.promoted c r (a 2) (a 1)] else []))))

/-- Node 0 as the device writes it (Table 6-4). -/
def rootNode (token : W32) : Node := { token := token, parent := 0, depth := 0, valid := true, rsv := 0 }

/-- The tree after R171, its node count, and TREE_FIXED. -/
def fixTree (ns : List Node) (root : W32) : List Node × Nat × Bool :=
  let bad := !(match ns with
    | n :: _ => rootValid n (some root)
    | [] => false)
  let ns := if bad then rootNode root :: ns.drop 1 else ns
  let count := if bad then 1 else treeCount ns (some root)
  let extra := (ns.drop count).any (·.valid)
  ((indexed ns).map (fun p => if p.1 < count then p.2 else { p.2 with valid := false }), count, bad || extra)

/-- Writes bytes into a session's block in the given races. -/
def State.blockWrite (s : State) (x : Session) (rs : List RaceId) (off : Nat) (bs : List Byte) : State × Access :=
  rs.foldl (fun (acc : State × Access) r => match acc.2 with
    | .ok _ => acc.1.writeAt r true (x.block r off bs.length).off bs
    | _ => acc) (s, .ok [])

/-- The tree with node 0 written and no other node valid, over the nodes `ns`. -/
def clearTree (ns : List Node) (root : W32) : List Node :=
  rootNode root :: (ns.drop 1).map (fun n => { n with valid := false })

/-- The device's part of a generation draft before the draft entry runs: node 0 and 63 invalid nodes (Table 6-4). -/
def State.draftStart (s : State) (x : Session) : State × Access :=
  let r := s.lowest x.tenant
  match s.readSpan (x.block r 0x100 512) false with
  | (s, .ok bs) => s.blockWrite x [r] 0x100 ((clearTree (nodesOf bs) x.root).flatMap Node.bytes)
  | (s, y) => (s, y)

/-- Every mill of the item has ended its part and its tags are idle (R77). -/
def State.millsDone (s : State) (i : Item) : Bool :=
  i.mills.all (fun m => (s.mill m).item = some i.id && (s.mill m).ended && (s.mill m).tags.toList.all (·.isNone))

/-- DRAFT: a prefill pass's chain, or the checked tree of a generation pass (R171, R173, R185). -/
def execDraft (item : Nat) (host : List Byte) (s : State) : Host.Outcome State Fault Refusal :=
  .next (s.passWork item (fun k => match k with
      | .draft c => some c
      | _ => none) (fun i c x m p =>
    let rs := s.racesOf x.tenant
    if p.prefill then
      let toks := (List.range p.fetched).map (fun k => BitVec.ofNat 32 (leAt host (4 * k) 4))
      let chain := (if x.rootValid then [x.root] else []) ++ toks
      s.endWith item (s.blockWrite x rs 0x400 ((chain.take p.nodes).flatMap (fun t => bytesLE 4 t.toNat))) (fun s _ =>
        s.endItem item 0 0 [.drafted c p.nodes false (chain.take p.nodes) (chain.drop p.nodes).head?])
    else if m.draft.isSome && !s.millsDone i then s
    else
      let s0 : State × Access := if m.draft.isSome then (s, .ok []) else s.draftStart x
      s.endWith item s0 (fun s _ =>
        s.endWith item (s.readSpan (x.block (s.lowest x.tenant) 0x100 512) false) (fun s bs =>
          let t := fixTree (nodesOf bs) x.root
          s.endWith item (s.blockWrite x rs 0x100 (t.1.flatMap Node.bytes)) (fun s _ =>
            s.endItem item 0 0 [.drafted c t.2.1 t.2.2 [] none])))))

/-- SLICE: one slice of the weights is streamed once every mill has ended (Table 6-4). -/
def execSlice (item : Nat) (s : State) : Host.Outcome State Fault Refusal :=
  .next (s.passWork item (fun k => match k with
      | .slice c => some c
      | _ => none) (fun i c _ _ _ => if s.millsDone i then s.endItem item 0 0 [.sliced c] else s))

/-- The staging rows of the given nodes in every race, with the position each is committed at (R175). -/
def State.stagingRows (s : State) (x : Session) (m : Model) (nodes : List (Nat × Nat)) :
    State × Access × List (RaceId × Nat × List Byte) :=
  ((s.racesOf x.tenant).flatMap (fun r => nodes.map (fun n => (r, n)))).foldl
    (fun (acc : State × Access × List (RaceId × Nat × List Byte)) q => match acc.2.1 with
      | .ok _ =>
        (match acc.1.readSpan { race := q.1, tierB := false, off := m.stagingOff + q.2.1 * (64 * m.kvb),
                                len := 64 * m.kvb } false with
         | (s, .ok bs) => (s, .ok [], acc.2.2 ++ [(q.1, q.2.2, bs)])
         | (s, y) => (s, y, acc.2.2))
      | _ => acc) (s, .ok [], [])

/-- ACCEPT: the walk of R173 and the rows that the commit makes KV (R175); a prefill pass commits its whole chain. See R180.
-/
def execAccept (item : Nat) (s : State) : Host.Outcome State Fault Refusal :=
  .next (s.passWork item (fun k => match k with
      | .accept c => some c
      | _ => none) (fun _ c x m p =>
    let finish (s : State) (nodes : List (Nat × Nat)) (emit : List W32) : State :=
      -- the page of a committed position has no frame of the pool (R163)
      if (s.racesOf x.tenant).any (fun r => nodes.any (fun n => (s.kvSpan m x c.toNat r n.2 0).isNone)) then
        s.stopItem item 0x36
      else
      match s.stagingRows x m nodes with
      | (s, .ok _, rows) => s.endItem item 0 0 [.accepted c emit rows]
      | (s, y, _) => s.accessFail item y
    if p.prefill then finish s ((List.range p.nodes).map (fun k => (k, x.position.toNat + k))) []
    else
      let r := s.lowest x.tenant
      s.endWith item (s.readSpan (x.block r 0x100 768) false) (fun s bs =>
        let ns := nodesOf bs
        let verdict := (List.range 64).map (fun k => BitVec.ofNat 32 (leAt bs (512 + 4 * k) 4))
        let emit := truncateEmit (walkEmit ns p.nodes verdict) x.remain.toNat x.stopToken
        let path := (walkPath ns p.nodes verdict).take emit.length
        finish s ((indexed path).map (fun q => (q.2, x.position.toNat + q.1))) emit)))

-- ## What a commit does

/-- Writes a committed position's KV to its page: the hot frame where the page has one, and always the tier B frame
(R175). -/
def State.writeKv (s : State) (x : Session) (m : Model) (ctx : Nat) (q : RaceId × Nat × List Byte) : State :=
  let page := q.2.1 / 64
  let inPage := q.2.1 % 64 * (64 * m.kvb)
  match s.pageFrame x q.1 page with
  | none => s
  | some fr =>
    if m.f 0x28 4 ≤ fr then s else
    let s := match m.hotFrame q.1 ctx page with
      | some h => (s.writeAt q.1 false (m.hotOff h + inPage) q.2.2).1
      | none => s
    (s.writeAt q.1 true (m.frameOff fr + inPage) q.2.2).1

/-- A pass record (Table 6-10). -/
def passRecord (ring : Fin 64) (seq : W48) (cookie ctx firstPos e n flags pass : Nat) : BitVec 256 :=
  completionData 0x58 0 ring.val 0 seq.toNat cookie
    (BitVec.ofNat 128 (ctx + firstPos * 2 ^ 32 + e * 2 ^ 64 + n * 2 ^ 72 + flags * 2 ^ 80 + pass * 2 ^ 96))

/-- Stages a record on a completion ring of a tenant. -/
def State.stage (s : State) (t : TenantId) (c : BitVec 4) (r : Rec) : State :=
  s.modCring (s.lowest t) ⟨c.toNat, by omega⟩ (fun x => { x with staged := x.staged ++ [r] })

/-- Writes emitted tokens to the token buffer (R176). -/
def State.writeTokens (s : State) (x : Session) (emit : List W32) : State :=
  forEach (indexed emit) s (fun s p =>
    s.hostWrite (x.outAddr.toNat + 4 * ((x.position.toNat + p.1 + 1) % max 1 x.outTokens.toNat)) (bytesLE 4 p.2.toNat))

/-- The commit of an accept item (R173 to R176); answers the pass record of a generation pass and its ring. See R32. -/
def State.commitAccept (s : State) (c : BitVec 18) (emit : List W32) (rows : List (RaceId × Nat × List Byte)) :
    State × Option (BitVec 4 × Rec) :=
  match s.session? c with
  | none => (s, none)
  | some x =>
    match s.model? x.tenant x.model.val, x.pass with
    | some m, some p =>
      let s := forEach rows s (fun s q => s.writeKv x m c.toNat q)
      let s := s.zeroSpans (s.stagingSpans x.tenant m)
      let t := s.tenants[x.tenant]
      let s := s.modTenant x.tenant (fun y => { y with nextOrder := y.nextOrder + 1 })
      if p.prefill then
        let s := s.modSession c (fun x => { x with
          position := x.position + BitVec.ofNat 32 p.nodes, promptLeft := x.promptLeft - BitVec.ofNat 32 p.fetched
          promptAddr := x.promptAddr + BitVec.ofNat 64 (4 * p.fetched)
          rootValid := p.lastTok.isSome, root := p.lastTok.getD x.root, pass := none, order := t.nextOrder })
        (if p.lastTok.isSome && x.remain = 0 then s.endRun c 0 else s, none)
      else
        let stopped := x.stopToken ≠ 0xFFFFFFFF#32 && emit.getLast? = some x.stopToken
        let runOver := stopped || emit.length = x.remain.toNat
        let s := s.writeTokens x emit
        let cookie (q : Fin 64 × W48) : Nat := ((s.desc? x.tenant q.1 q.2).map (fun d => dCookie d.line)).getD 0
        let rec' : Option (BitVec 4 × Rec) := x.run.map (fun q => (x.compRing, Rec.mk
          (passRecord q.1 q.2 (cookie q) c.toNat (x.position.toNat + 1) emit.length p.nodes
            (b2n p.treeFixed + 2 * b2n stopped + 4 * b2n (runOver || x.ending.isSome)) (x.passes.toNat + 1)) none))
        let s := s.modSession c (fun x => { x with
          position := x.position + BitVec.ofNat 32 emit.length, root := (emit.getLast?).getD x.root
          rootValid := true, remain := x.remain - BitVec.ofNat 32 emit.length, passes := x.passes + 1
          emitted := x.emitted + BitVec.ofNat 32 emit.length, runPasses := x.runPasses + 1, pass := none
          order := t.nextOrder })
        (if runOver then s.endRun c 0 else s, rec')
    | _, _ => (s, none)

/-- The commit of a DEC_OPEN (R160): record, parameter block in every race, every page absent. -/
def State.commitOpen (s : State) (c : BitVec 18) (x : Session) (params : List Byte) : State :=
  let rs := s.racesOf x.tenant
  let s := (s.blockWrite x rs 0 params).1
  let s := (s.blockWrite x rs 0x800 (List.replicate 14336 0xFF)).1
  { s with ctxs := sset s.ctxs c.toNat (.session x) }

/-- The commit of a DEC_RUN (R185, R174). -/
def State.commitRun (s : State) (t : TenantId) (ring : Fin 64) (seq : W48) (cls : ClassId) (c : BitVec 18)
    (count : W32) (addr : W64) (maxNew first : W32) : State :=
  match s.ownSession t c.toNat with
  | none => s.setBody t ring seq 0x32 0
  | some x =>
    if x.state ≠ .idle then s.setBody t ring seq 0x33 0
    else if count = 0 && maxNew = 0 then s.setBody t ring seq 0x30 0
    else if count = 0 && !x.rootValid then s.setBody t ring seq 0x34 0
    else if (s.model? t x.model.val).isNone then s.setBody t ring seq 0x31 0
    else
      let single := count = 1 && !x.rootValid
      let y := s.tenants[t]
      let s := s.modTenant t (fun y => { y with nextOrder := y.nextOrder + 1 })
      let s := (s.waitDesc t ring seq).modSession c (fun x => { x with
        state := .running, remain := maxNew, promptLeft := if single then 0 else count, promptAddr := addr
        rootValid := x.rootValid || single, root := if single then first else x.root
        run := some (ring, seq), cls := cls, order := y.nextOrder, emitted := 0, runPasses := 0
        pass := none, ending := none })
      if single && maxNew = 0 then s.endRun c 0 else s

/-- The commit of a DEC_STOP (R181). -/
def State.commitStop (s : State) (t : TenantId) (ring : Fin 64) (seq : W48) (c : BitVec 18) : State :=
  match s.ownSession t c.toNat with
  | none => s.setBody t ring seq 0x32 0
  | some x =>
    if x.state = .idle then s else s.modSession c (fun x => { x with
      ending := x.endAs 0x37, state := if x.pass.isSome then .stopping else x.state })

/-- The commit of a DEC_CLOSE (R183). -/
def State.commitClose (s : State) (t : TenantId) (ring : Fin 64) (seq : W48) (c : BitVec 18) : State :=
  match s.ownSession t c.toNat with
  | none => s.setBody t ring seq 0x32 0
  | some x =>
    if x.state ≠ .idle then s.setBody t ring seq 0x33 0 else
    let s := s.zeroSpans ((s.racesOf t).map (fun r => x.block r 0 16384))
    { s with ctxs := sdel s.ctxs c.toNat }

/-- At a commit of the tenant: a session that is to end and has no pass in progress ends its run (Table 6-8). -/
def State.settleSessions (s : State) (t : TenantId) : State :=
  forEach (s.ctxs.filterMap (fun c => match c.2 with
    | .session x => if x.tenant = t then some (c.1, x) else none
    | .part _ => none)) s (fun s c =>
      match c.2.ending with
      | none => s
      | some st => if c.2.pass.isNone || givesUp st then s.endRun (BitVec.ofNat 18 c.1) st
                   else s.modSession (BitVec.ofNat 18 c.1) (fun x => { x with state := .stopping }))

end Sys2Proof.Machine
end

