-- ==== Sys2Proof/Machine/Memory.lean ====
section
/-! DEFINITION. The memory tiers in service: lost channels, the fallback of tier A, the rebuild of tier B, refresh, the
leak of the error buckets, scrubs and the armed flip (R213 to R223, R236 to R250). -/

namespace Sys2Proof.Machine

-- ## Lost channels (R213, R215, R220)

/-- Index of a channel of a tier, none past the tier's channels. -/
def tierChannel (tier : Tier) (ch : Fin 32) : Option (Fin 46) :=
  match tier with
  | .a => some ⟨ch.val, by omega⟩
  | .b => if h : ch.val < 14 then some ⟨32 + ch.val, by omega⟩ else none

/-- CHANNEL_LOST (R213). -/
def execChannelLost (r : RaceId) (tier : Tier) (ch : Fin 32) (s : State) : Host.Outcome State Fault Refusal :=
  .next (match tierChannel tier ch with
    | some c => s.loseChannel r c false
    | none => s)

/-- Restores into the fallback region what a copy in tier B holds of a region's words on the lost channel `ch`; unlisted
rows of the copy hold zeros, as the filled region does. [DEDUCED, unsafe: log 63] -/
def State.restoreRegion (s : State) (r : RaceId) (ch src dst len : Nat) : State :=
  if len = 0 then s else
  forEach (s.listedRows r (src / 1792) ((src + len - 1) / 1792)) s (fun s row =>
    forEach (List.range 56) s (fun s i =>
      let o := row * 1792 + 32 * i
      let a := dst + (o - src)
      if src ≤ o && o < src + len && (taLoc a).1.val = ch then
        match s.readTb r o false with
        | (s, .ok bs) => (State.writeTb r 2 (fallbackOff + taLocal a) bs s).1
        | (s, _) => s
      else s))

/-- The copies of Table 8-5 in a race: source in tier B, destination in tier A, length. -/
def State.copies (s : State) (r : RaceId) : List (Nat × Nat × Nat) :=
  match s.owner r with
  | none => []
  | some t =>
    let rs := s.racesOf t
    s.tenants[t].models.map (fun m => (m.2.f 0x1C 4 * mib, m.2.f 0x18 4 * mib, m.2.f 0x20 4 * mib)) ++
      (List.finRange 64).flatMap (fun k => match s.rounds[k] with
        | some x =>
          if x.tenant ≠ t then [] else
          ((List.range x.nseg).filter (fun g => s.segRace x g = r)).map (fun g =>
            (x.bankOff rs.length g (sget x.segs g {}).bank, x.accOff rs.length g, x.segLen g))
        | none => [])

/-- TA_FALLBACK (R218): the region is zero-filled, the copies of Table 8-5 restored into it, and the race's tier A serves
again. [DEDUCED, unsafe: log 62] -/
def execTaFallback (r : RaceId) (s : State) : Host.Outcome State Fault Refusal :=
  .next (
    let m := s.races[r].mem
    match (List.range 32).find? (fun c => m.taLost.getLsbD c) with
    | none => s
    | some ch =>
      if m.fbActive then s else
      let s := s.zeroSpan { race := r, tierB := true, off := fallbackOff, len := 2 * gib }
      let s := s.modMem r (fun m => { m with fbActive := true, fbChannel := BitVec.ofNat 5 ch })
      let s := forEach (s.copies r) s (fun s c => s.restoreRegion r ch c.1 c.2.1 c.2.2)
      s.modMem r (fun m => { m with fbRestored := true }))

-- ## Rebuild of a tier B channel (R216, R217)

/-- REBUILD_REQ: `MEM_TB_CTRL` names a channel; a request for a lost one stays pending. -/
def State.rebuildReq (s : State) (r : RaceId) (ch : BitVec 4) : State :=
  s.modMem r (fun m => { m with tbChannel := ch, tbPending := m.tbLost.getLsbD ch.toNat })

/-- REBUILD_REQ. -/
def execRebuildReq (r : RaceId) (ch : BitVec 4) (s : State) : Host.Outcome State Fault Refusal := .next (s.rebuildReq r ch)

/-- REBUILD_START: at a boundary with the race's tenant held, the channel retrains and the rewrite begins.
[DEDUCED, unsafe: log 64] -/
def execRebuildStart (r : RaceId) (trained : Bool) (s : State) : Host.Outcome State Fault Refusal :=
  .next (
    let m := s.races[r].mem
    if m.tbPending && s.raceHeld r && s.boundary then
      s.modMem r (fun m =>
        if h : m.tbChannel.toNat < 14 then
          if trained then { m with tbPending := false, rebuilding := some ⟨m.tbChannel.toNat, h⟩, slots := 0 }
          else { m with tbPending := false, retrainFail := true }
        else { m with tbPending := false })
    else s)

/-- Rewrites one block word of a row from the other seven blocks; answers whether they could be read. -/
def State.rebuildBlock (s : State) (r : RaceId) (row k c : Nat) : State × Bool :=
  let b := tbBlock row k c
  match s.rebuildWord r row k c false with
  | (s, some bs) =>
    (({ s with mem := memPuts s.mem (burstAddr r b.1 b.2) bs } : State).modMem r (fun m => m.setErr b.1 b.2 0), true)
  | (s, none) => ((s.tbFailedRead r (row * 1792) b.1 b.2).1, false)

/-- Rewrites a channel's block in every row that holds a listed byte; the others are zeros. -/
def State.rebuildRows (s : State) (r : RaceId) (ch : Nat) : State × Bool :=
  (s.listedRows r 0 (2 ^ 38)).foldl (fun acc row =>
    match (List.range 8).find? (fun k => (tbBlock row k 0).1.val = ch) with
    | none => acc
    | some k => (List.range 8).foldl (fun (acc : State × Bool) c =>
        if acc.2 then acc.1.rebuildBlock r row k c else acc) acc) (s, true)

/-- REBUILD_DONE: every slot of the channel holds the XOR of its row's other blocks, and the stripes are healthy.
[DEDUCED, unsafe: log 64] -/
def execRebuildDone (r : RaceId) (s : State) : Host.Outcome State Fault Refusal :=
  .next (match s.races[r].mem.rebuilding with
    | none => s
    | some ch =>
      match s.rebuildRows r (32 + ch.val) with
      | (s, true) => s.modMem r (fun m => { m with
          tbLost := m.tbLost &&& ~~~(1#14 <<< ch.val), rebuilding := none, rebuildDone := true, slots := BitVec.ofNat 27 (2 ^ 26) })
      | (s, false) => s)

-- ## Refresh and the buckets (R222, R223, R239)

/-- REFRESH: it moves no state that the specification names. -/
def execRefresh (r : RaceId) (tier : Tier) (s : State) : Host.Outcome State Fault Refusal :=
  let _ := r
  let _ := tier
  .next s

/-- REFRESH_RATE_READ: the rate of a channel, 0 base, 1 double, 2 derated; code 3 is none of Table 8-9's. -/
def execRefreshRateRead (r : RaceId) (ch : Fin 46) (rate : BitVec 2) (s : State) : Host.Outcome State Fault Refusal :=
  .next (if rate = 3 then s else
    (s.modChan r ch (fun c => { c with rate := rate })).modMem r (fun m =>
      { m with derateSeen := m.derateSeen || rate = 2 }))

/-- BUCKET_LEAK: every bucket of the race falls by 1, down to 0. -/
def execBucketLeak (r : RaceId) (s : State) : Host.Outcome State Fault Refusal :=
  .next (s.modMem r (fun m => { m with chans := m.chans.map (fun c => { c with level := if c.level = 0 then 0 else c.level - 1 }) }))

-- ## Scrub (R244 to R247)

/-- Counts of Table 9-6, and the first unrepaired uncorrectable word. -/
structure ScrubSum where
  words     : Nat := 0
  corr1     : Nat := 0
  corr2     : Nat := 0
  uncorr    : Nat := 0
  rebuilt   : Nat := 0
  rewritten : Nat := 0
  parityBad : Nat := 0
  skipped   : Nat := 0
  remapNew  : Nat := 0
  /-- device address, and whether the word is of the parity block -/
  first     : Option (Nat × Bool) := none
deriving DecidableEq, Repr

/-- Counts one corrected word. -/
def ScrubSum.corr (x : ScrubSum) (n : Nat) (rewrite : Bool) : ScrubSum :=
  { x with corr1 := x.corr1 + (if n = 1 then 1 else 0), corr2 := x.corr2 + (if n = 2 then 1 else 0)
           rewritten := x.rewritten + b2n rewrite }

/-- Counts an uncorrectable word: rebuilt, or left and named. -/
def ScrubSum.bad (x : ScrubSum) (fixed : Bool) (addr : Nat) (parity : Bool) : ScrubSum :=
  { x with uncorr := x.uncorr + 1, rebuilt := x.rebuilt + b2n fixed
           first := if fixed then x.first else x.first.or (some (addr, parity)) }

/-- Device address of a race offset. -/
def deviceAddr (r : RaceId) (tierB : Bool) (o : Nat) : Nat :=
  if tierB then 2 ^ 44 + r.val * 2 ^ 38 + o else r.val * (64 * gib) + o

/-- One code word found correctable: it is counted, remapped where R236 asks, and rewritten where the scrub does. -/
def State.scrubCorr (s : State) (r : RaceId) (ch : Fin 46) (burst : Nat) (got : List Byte) (rewrite : Bool) : State :=
  let s := (s.readBurst r ch burst true).1
  if rewrite then s.storeWord r ch burst got else s

/-- What the scrub finds of one stored word: nothing, a correction, or an uncorrectable word. -/
def State.scrubLook (s : State) (r : RaceId) (ch : Fin 46) (burst : Nat) : RsOut × List Byte :=
  let d := s.races[r].mem.err ch burst
  let bs := s.stored r ch burst
  match rsDecode d with
  | .good => (.good, xorBytes bs (bytesLE 32 d.toNat))
  | .corr n fix => (.corr n fix, xorBytes bs (bytesLE 32 (d ^^^ fix).toNat))
  | .bad => (.bad, bs)

/-- One word of a tier B row. Answers the word as delivered, none where it could not be checked. -/
def State.scrubBlock (s : State) (r : RaceId) (row k c addr : Nat) (rewrite : Bool) (x : ScrubSum) :
    State × ScrubSum × Option (List Byte) :=
  let b := tbBlock row k c
  if s.races[r].mem.lost b.1 then (s, x, none) else
  match s.scrubLook r b.1 b.2 with
  | (.good, bs) => (s, x, some bs)
  | (.corr n _, bs) => (s.scrubCorr r b.1 b.2 bs rewrite, x.corr n rewrite, some bs)
  | (.bad, _) =>
    let s := s.countUncorr r b.1 b.2
    if s.races[r].mem.degraded then (s.uncorrEvent r b.1 b.2, x.bad false addr (k = 7), none) else
    match s.rebuildWord r row k c true with
    | (s, some bs) => (s.remapWord r b.1 b.2 bs, x.bad true addr (k = 7), none)
    | (s, none) => (s.uncorrEvent r b.1 b.2, x.bad false addr (k = 7), none)

/-- One row of tier B with its parity block. -/
def State.scrubRow (s : State) (r : RaceId) (row : Nat) (rewrite : Bool) (x : ScrubSum) : State × ScrubSum :=
  let got := (List.range 64).foldl (fun (acc : State × ScrubSum × List (Option (List Byte))) i =>
    let addr := deviceAddr r true (row * 1792 + (if i < 56 then 32 * i else 0))
    let g := acc.1.scrubBlock r row (i / 8) (i % 8) addr rewrite acc.2.1
    (g.1, g.2.1, acc.2.2 ++ [g.2.2])) (s, x, [])
  let ws := got.2.2
  if ws.any (·.isNone) then (got.1, got.2.1) else
  let word (k c : Nat) : List Byte := (ws.getD (8 * k + c) none).getD []
  let par (c : Nat) : List Byte := (List.range 7).foldl (fun p k => xorBytes p (word k c)) (List.replicate 32 0)
  if (List.range 8).all (fun c => par c = word 7 c) then (got.1, got.2.1) else
  let y := { got.2.1 with parityBad := got.2.1.parityBad + 1 }
  if !rewrite then (got.1, y) else
  ((List.range 8).foldl (fun s c =>
     let b := tbBlock row 7 c
     s.storeWord r b.1 b.2 (par c)) got.1, { y with rewritten := y.rewritten + 8 })

/-- Lost blocks among the rows `lo` to `hi - 1`, in words; the layout repeats every 14 rows (R210). -/
def RaceMem.lostWords (m : RaceMem) (lo hi : Nat) : Nat :=
  ((List.range 14).map (fun j =>
    let rows := (hi + 13 - j) / 14 - (lo + 13 - j) / 14
    8 * rows * ((List.range 8).filter (fun k => m.lost (tbBlock j k 0).1)).length)).sum

/-- An item reads a region of tier A that the scrub repairs (R246). [DEDUCED, unsafe: log 66] -/
def Item.readsRegion (i : Item) (r : RaceId) (g : Region) : Bool :=
  match g, i.kind with
  | .weights _, .slice _ => true
  | .weights _, .draft _ => true
  | .accum _, .segment _ _ => true
  | .accum _, .desc => dOp i.line = 0x44
  | _, .desc => dOp i.line ≠ 0x60 && i.uses r false
  | _, _ => false

/-- One code word of tier A (R246, R247). -/
def State.scrubTa (s : State) (t : TenantId) (r : RaceId) (o : Nat) (rewrite : Bool) (x : ScrubSum) : State × ScrubSum :=
  let l := taLoc o
  let addr := deviceAddr r false o
  let m := s.races[r].mem
  if m.lost l.1 then
    if m.fbActive && m.fbChannel.toNat = l.1.val then
      (let f := fallbackOff + taLocal o
       let g := s.scrubBlock r (f / 1792) (f % 1792 / 256) (f % 256 / 32) addr rewrite x
       (g.1, g.2.1))
    else (s, x)
  else
    match s.scrubLook r l.1 l.2 with
    | (.good, _) => (s, x)
    | (.corr n _, bs) => (s.scrubCorr r l.1 l.2 bs rewrite, x.corr n rewrite)
    | (.bad, _) =>
      let s := s.countUncorr r l.1 l.2
      if s.races[r].mem.lost l.1 then (s, x.bad true addr false) else
      let g := s.region r o
      match s.repairTa r o l.1 l.2 true with
      | (s, .cut) => (s.cutWhere (fun i => i.tenant = t && i.readsRegion r g), x.bad true addr false)
      | (s, _) => (s, x.bad false addr false)

/-- Offsets of the tier A words of a range whose stored word, there or in the fallback region, differs from its code
word, in rising order. -/
def State.errTa (s : State) (r : RaceId) (a b : Nat) : List Nat :=
  let m := s.races[r].mem
  let own := m.errs.filterMap (fun e =>
    if e.1 / 2 ^ 29 < 32 then some (taOffset (e.1 / 2 ^ 29) (e.1 % 2 ^ 29 * 32)) else none)
  let fb := if m.fbActive then fallbackOffs s r ++ (s.listedRows r (fallbackOff / 1792) ((fallbackOff + 2 * gib) / 1792)).flatMap
      (fun row => (List.range 56).filterMap (fun i =>
        let o := row * 1792 + 32 * i
        if fallbackOff ≤ o && o < fallbackOff + 2 * gib then some (taOffset m.fbChannel.toNat (o - fallbackOff)) else none))
    else []
  (((own ++ fb).map (fun o => o / 32 * 32)).filter (fun o => a ≤ o && o < b)).dedup.insertionSort (· ≤ ·)

/-- Remap entries of a race. -/
def RaceMem.remaps (m : RaceMem) : Nat := (m.chans.toList.map (fun c => c.remap.length)).sum

/-- The part of a scrub from race offset `a` to `b` of a range that begins at `start`: a row belongs to the part that
holds its first byte in the range. [DEDUCED, unsafe: log 65] -/
def State.scrubPart (s : State) (t : TenantId) (r : RaceId) (tierB : Bool) (start a b : Nat) (rewrite : Bool) :
    State × ScrubSum :=
  let before := s.races[r].mem.remaps
  let out :=
    if tierB then
      let lo := if a = start then a / 1792 else ceilDiv a 1792
      let hi := (b - 1) / 1792 + 1
      let skip := s.races[r].mem.lostWords lo hi
      (s.listedRows r lo (hi - 1)).foldl (fun acc row => acc.1.scrubRow r row rewrite acc.2)
        (s, { words := 64 * (hi - lo) - skip, skipped := skip : ScrubSum })
    else (s.errTa r a b).foldl (fun acc o => acc.1.scrubTa t r o rewrite acc.2) (s, { words := (b - a) / 32 : ScrubSum })
  (out.1, { out.2 with remapNew := out.1.races[r].mem.remaps - before })

/-- The counts that an item's commit adds to its descriptor's. -/
def ScrubSum.counts (x : ScrubSum) : List Nat :=
  [x.words, x.corr1, x.corr2, x.uncorr, x.rebuilt, x.rewritten, x.parityBad, x.skipped, x.remapNew] ++
    (match x.first with
     | some (a, p) => [a + 1, b2n p]
     | none => [0, 0])

/-- SCRUB: one item checks its part of the range; its counts join the descriptor's at the commit.
[DEDUCED, unsafe: log 65; DEDUCED, unsafe: log 66] -/
def execScrub (item : Nat) (s : State) : Host.Outcome State Fault Refusal :=
  .next (s.work item 0x60 (fun i s =>
    match devAddr (dF i.line 0x10 8) with
    | none => s.stopItem item 0x06
    | some (r, tierB, start) =>
      let rg := i.range (dF i.line 0x18 8)
      let out := s.scrubPart i.tenant r tierB start (start + rg.1) (start + rg.1 + rg.2) (bitOf (dF i.line 0x20 1) 0)
      -- an item that the scrub has cut, by declaring a channel failing (R213), stays cut
      out.1.endItem item 0 0 [.scrub out.2.counts]))

/-- The summary record (Table 9-6). -/
def scrubRecord (l : Line) (x : List Nat) : List Byte :=
  let n (i : Nat) : Nat := x.getD i 0
  bytesLE 8 (dF l 0x10 8) ++ bytesLE 8 (dF l 0x18 8) ++ bytesLE 8 (n 0) ++
    ((List.range 7).flatMap (fun i => bytesLE 4 (n (i + 1)))) ++ bytesLE 2 (n 8) ++
    bytesLE 2 (b2n (n 9 ≠ 0) + 2 * n 10) ++ bytesLE 8 (if n 9 = 0 then 2 ^ 64 - 1 else n 9 - 1)

/-- The commit of a SCRUB item; after the last one the summary goes to host memory (R247). -/
def State.commitScrub (s : State) (t : TenantId) (ring : Fin 64) (seq : W48) (counts : List Nat) (last : Bool) : State :=
  let add (d : Desc) : List Nat :=
    (List.range 9).map (fun i => d.aux.getD i 0 + counts.getD i 0) ++
      (if d.aux.getD 9 0 ≠ 0 then [d.aux.getD 9 0, d.aux.getD 10 0] else [counts.getD 9 0, counts.getD 10 0])
  let s := s.modDesc t ring seq (fun d => { d with aux := add d })
  match s.desc? t ring seq with
  | some d => if last then s.hostWrite (dF d.line 0x28 8) (scrubRecord d.line d.aux) else s
  | none => s

-- ## The armed flip (R248, R249)

/-- The race span that a burst of a channel lies in: tier A bytes, or the whole row of tier B. -/
def burstSpan (r : RaceId) (ch burst : Nat) : Span :=
  if ch < 32 then { race := r, tierB := false, off := taOffset ch (burst * 32), len := 32 }
  else { race := r, tierB := true, off := tbRowOf ch (burst / 8) * 1792, len := 1792 }

/-- ARM may be set: the tenant held or none, the address neither in the device's range nor sealed. -/
def State.armOk (s : State) (r : RaceId) (ch : BitVec 6) : Bool :=
  let x := burstSpan r ch.toNat (s.races[r].mem.flipBurst).toNat
  s.raceHeld r && !(x.tierB && decide (tenantTb ≤ x.off)) && !s.sealed x

/-- A write of `SCB_FLIP_CTRL`. -/
def State.writeArm (s : State) (r : RaceId) (on : Bool) (ch : BitVec 6) : State :=
  let s := s.modMem r (fun m => { m with flipCh := ch })
  if !on then s.modMem r (fun m => { m with arm := false })
  else if s.armOk r ch then s.modMem r (fun m => { m with arm := true })
  else (s.modMem r (fun m => { m with arm := false, refused := true })).writeErr (raceReg r 0xA08)

/-- ARM. -/
def execArm (r : RaceId) (on : Bool) (ch : BitVec 6) (s : State) : Host.Outcome State Fault Refusal :=
  .next (s.writeArm r on ch)

end Sys2Proof.Machine
end

