-- ==== Sys2Proof/Machine/Frame.lean ====
section
/-! DEFINITION. The Ethernet frame in which a queued Weir packet stands on the wire (R282, R283, R285, R287). -/

namespace Sys2Proof.Machine

/-- The sum of the 16-bit big-endian words of a byte string, an odd last byte padded with 0. -/
def wordSum : List Byte → Nat
  | a :: b :: bs => a.toNat * 256 + b.toNat + wordSum bs
  | [a] => a.toNat * 256
  | [] => 0

/-- A sum folded to 16 bits with end-around carry. -/
def foldSum (x : Nat) : Nat :=
  let y := x % 65536 + x / 65536
  y % 65536 + y / 65536

/-- The Internet checksum of a byte string. -/
def inetSum (bs : List Byte) : Nat := 65535 - foldSum (wordSum bs)

/-- A Weir packet's bytes: header, body, big-endian trailer (R287). -/
def weirBytes (p : WeirPkt) : List Byte := weirHdrBytes p.hdr ++ p.body ++ bytesBE 4 p.crc.toNat

/-- The UDP header with its checksum field, and the payload. -/
def udpBytes (src dst sum : Nat) (load : List Byte) : List Byte :=
  bytesBE 2 src ++ bytesBE 2 dst ++ bytesBE 2 (8 + load.length) ++ bytesBE 2 sum ++ load

/-- The IPv4 header: no options, DSCP, DF, TTL 64, UDP (R282). -/
def ip4Header (dscp : BitVec 6) (len sum : Nat) (src dst : W32) : List Byte :=
  [0x45, BitVec.ofNat 8 (dscp.toNat * 4)] ++ bytesBE 2 (20 + len) ++ [0, 0, 0x40, 0, 64, 17] ++ bytesBE 2 sum ++
    bytesBE 4 src.toNat ++ bytesBE 4 dst.toNat

/-- The IPv6 header: DSCP, hop limit 64, UDP (R282). -/
def ip6Header (dscp : BitVec 6) (len : Nat) (src dst : BitVec 128) : List Byte :=
  bytesBE 4 (0x60000000 + dscp.toNat * 2 ^ 22) ++ bytesBE 2 len ++ [17, 64] ++ bytesBE 16 src.toNat ++ bytesBE 16 dst.toNat

/-- The IPv6 pseudo-header of the UDP checksum. -/
def pseudo6 (len : Nat) (src dst : BitVec 128) : List Byte :=
  bytesBE 16 src.toNat ++ bytesBE 16 dst.toNat ++ bytesBE 4 len ++ [0, 0, 0, 17]

/-- The module's IPv6 address, or a group in the same order of words. -/
def wide6 (x : Vector W32 4) : BitVec 128 := BitVec.ofNat 128 ((List.finRange 4).foldl (fun a i => a * 2 ^ 32 + (x[i]).toNat) 0)

/-- An IPv4 packet: UDP checksum 0 (R282). [PRESUMED, unsafe: log 82] -/
def Net.packet4 (n : Net) (sport : Nat) (dst : W32) (load : List Byte) : List Byte :=
  let u := udpBytes sport n.dstPort.toNat 0 load
  ip4Header n.dscp u.length (inetSum (ip4Header n.dscp u.length 0 n.addr4 dst)) n.addr4 dst ++ u

/-- An IPv6 packet: the UDP checksum computed, 0 sent as all ones (R282). [PRESUMED, unsafe: log 82] -/
def Net.packet6 (n : Net) (sport : Nat) (dst : BitVec 128) (load : List Byte) : List Byte :=
  let src := wide6 n.addr6
  let sum := inetSum (pseudo6 (8 + load.length) src dst ++ udpBytes sport n.dstPort.toNat 0 load)
  ip6Header n.dscp (8 + load.length) src dst ++ udpBytes sport n.dstPort.toNat (if sum = 0 then 65535 else sum) load

/-- The Ethernet header of a port: next hop, `NET_MAC` + port, the 802.1Q tag where the port has one (R283, Table 11-13).
[PRESUMED, unsafe: log 82] -/
def Net.ethHeader (n : Net) (port : PortId) (v6 : Bool) : List Byte :=
  let q := n.ports[port]
  bytesBE 6 q.nhMac.toNat ++ bytesBE 6 (n.mac + BitVec.ofNat 48 port.val).toNat ++
    (if q.vlanEn then [0x81, 0x00] ++ bytesBE 2 q.vlanId.toNat else []) ++ (if v6 then [0x86, 0xDD] else [0x08, 0x00])

/-- A packet to a peer entry, in the IP version of its `V6` bit; an IPv4 address is the entry's first word (Table 11-16). -/
def Net.toPeer (n : Net) (port : PortId) (path : Nat) (p : Peer) (w : WeirPkt) : List Byte :=
  let sport := (n.srcBase.toNat + path) % 65536
  n.ethHeader port p.v6 ++ (if p.v6 then n.packet6 sport p.addr (weirBytes w)
    else n.packet4 sport (BitVec.ofNat 32 (p.addr.toNat / 2 ^ 96)) (weirBytes w))

/-- The frame of a queued packet: to the peer's address, or a beacon to the discovery group, IPv4 where `NET_DISC4` is set
and IPv6 otherwise, on path 0. An address reply has the form of its own standard and is not given here.
[PRESUMED, unsafe: log 82; DEDUCED, unsafe: log 83] -/
def Net.frame (n : Net) (o : NetOut) : Option (List Byte) :=
  match o with
  | .weir port path dest w => (n.peer? dest).map (fun x => n.toPeer port path.toNat x.2 w)
  | .beacon port (some e) w => (sget? n.peers e).map (fun p => n.toPeer port 0 p w)
  | .beacon port none w =>
    some (if n.disc4 = 0 then n.ethHeader port true ++ n.packet6 n.srcBase.toNat (wide6 n.disc6) (weirBytes w)
      else n.ethHeader port false ++ n.packet4 n.srcBase.toNat n.disc4 (weirBytes w))
  | .address _ _ _ _ => none

end Sys2Proof.Machine
end

