-- ==== Sys2Proof/Machine/Weir.lean ====
section
/-! DEFINITION. Weir: its descriptors (R289, R291, R293, R298), received packets (R297, R299 to R303), timers (R295,
R296, R301, R302), discovery (R307, R308), probes (R286), ports and time (R309, R448). -/

namespace Sys2Proof.Machine

-- ## Descriptors

/-- The send entry of a WEIR_SEND. -/
def State.descSend? (s : State) (t : TenantId) (ring : Fin 64) (seq : W48) : Option Send :=
  s.tenants[t].weir.sends.find? (fun m => m.ring = ring && m.dseq = seq && m.round.isNone)

/-- The message that a WEIR_SEND asks for. -/
def sendOf (i : Item) : Send :=
  let len := dF i.line 0x18 4
  { seq := 0, epoch := 0, ring := i.ring, dseq := i.seq, dest := BitVec.ofNat 16 (dF i.line 0x1E 2),
    tag := BitVec.ofNat 32 (dF i.line 0x20 4), base := BitVec.ofNat 64 (dF i.line 0x28 8), len := BitVec.ofNat 32 len,
    src := BitVec.ofNat 64 (dF i.line 0x10 8), fromHost := dF i.line 0x1C 1 = 1, packets := packetsOf len }

/-- The send entry of an item of WEIR_SEND, made where there is none; none while all 512 are in use (R294). -/
def State.sendEntry (s : State) (i : Item) : Option (State × W48) :=
  match s.descSend? i.tenant i.ring i.seq with
  | some m => some (s, m.seq)
  | none => (s.newSend i.tenant (sendOf i)).map (fun s' => (s', s.net.counter))

/-- WEIR_SEND: the item's packets leave for the first time, as far as the window of R294 lets them; it ends when all of
them have (R293, R298). `host` is what it reads of its host source. [DEDUCED, unsafe: log 95] -/
def execWeirSend (item : Nat) (host : List Byte) (s : State) : Host.Outcome State Fault Refusal :=
  .next (s.work item 0x70 (fun i s =>
    let dest := BitVec.ofNat 16 (dF i.line 0x1E 2)
    let rg := i.range (dF i.line 0x18 4)
    let gone := match s.desc? i.tenant i.ring i.seq with
      | some d => d.done
      | none => true
    if gone then s.endItem item 0 0 []
    else if (s.net.peer? dest).isNone || dest = s.net.moduleId then s.stopItem item 0x4A
    else if dF i.line 0x1C 1 = 0 && (s.reach i.tenant (dF i.line 0x10 8 + rg.1) rg.2).isNone then s.stopItem item 0x06
    else match s.sendEntry i with
      | none => s
      | some (s, seq) =>
        let s := s.modSend i.tenant seq (fun m =>
          if m.fromHost then { m with bytes := putBytes m.bytes rg.1 (padTo rg.2 host) } else m)
        match s.send? i.tenant seq with
        | none => s
        | some m =>
          if m.done then s.endItem item 0 0 [.weirSend seq] else
          match s.sendFirst i.tenant seq ((List.range i.gran).map (· + i.first)) with
          | (s, .ok _, true) => s.endItem item 0 0 [.weirSend seq]
          | (s, .ok _, false) => s
          | (s, y, _) => s.accessFail item y))

/-- The commit of an item of WEIR_SEND: the descriptor waits for the message's end. -/
def State.commitWeirSend (s : State) (t : TenantId) (ring : Fin 64) (seq mseq : W48) : State :=
  (s.modSend t mseq (fun m => { m with committed := true })).waitDesc t ring seq

/-- WEIR_REG (R289). -/
def execWeirReg (item : Nat) (s : State) : Host.Outcome State Fault Refusal :=
  .next (s.work item 0x71 (fun i s =>
    let base := dF i.line 0x10 8
    let len := dF i.line 0x18 8
    let fl := dF i.line 0x22 1
    match s.regRefusal i.tenant i.cls with
    | some st => s.stopItem item st
    | none =>
      if (s.reach i.tenant base len).isNone then s.stopItem item 0x06 else
      match State.drawTag i.tenant 65536 s with
      | (s, none) => s
      | (s, some tag) => s.endItem item 0 0 [.window tag (BitVec.ofNat 64 base) (BitVec.ofNat 64 len)
          (BitVec.ofNat 16 (dF i.line 0x20 2)) (bitOf fl 0) (bitOf fl 1) (BitVec.ofNat 4 (dF i.line 0x23 1)) i.cls]))

/-- The commit of WEIR_REG: the lowest free window. -/
def State.commitWindow (s : State) (t : TenantId) (ring : Fin 64) (seq : W48) (w : WWin) : State :=
  match s.regRefusal t w.cls, s.freeWindow t with
  | none, some i =>
    (s.modWeir t (fun x => { x with windows := sset x.windows i.toNat w })).setBody t ring seq 0
      (w.tag.toNat + i.toNat * 2 ^ 32)
  | some st, _ => s.failDesc t ring seq st 0
  | none, none => s.failDesc t ring seq 0x4C 0

/-- WEIR_REVOKE (R291). -/
def execWeirRevoke (item : Nat) (s : State) : Host.Outcome State Fault Refusal :=
  .next (s.work item 0x72 (fun i s => s.endItem item 0 0 [.revoke (BitVec.ofNat 32 (dF i.line 0x10 4))]))

/-- From the first cycle of the commit phase the window accepts no further packet (R291). -/
def State.beginRevoke (s : State) (t : TenantId) (ring : Fin 64) (seq : W48) (tag : W32) : State :=
  s.modWeir t (fun x => { x with windows := x.windows.map (fun w =>
    if w.2.tag = tag && w.2.round.isNone && w.2.revoked.isNone && w.2.pending.isNone then
      (w.1, { w.2 with pending := some (ring, seq), doneAfter := 0, failed := 0 }) else w) })

/-- The tick that asked for a revocation is abandoned: the window goes on. -/
def State.dropRevoke (s : State) (t : TenantId) (ring : Fin 64) (seq : W48) : State :=
  s.modWeir t (fun x => { x with windows := x.windows.map (fun w =>
    if w.2.pending = some (ring, seq) then (w.1, { w.2 with pending := none }) else w) })

/-- The commit of WEIR_REVOKE: its completion waits for the window's accepted packets; a tag that could not be revoked
gives NO_TAG. -/
def State.commitRevoke (s : State) (t : TenantId) (ring : Fin 64) (seq : W48) : State :=
  if s.tenants[t].weir.windows.any (fun w => w.2.pending = some (ring, seq)) then s.waitDesc t ring seq
  else s.failDesc t ring seq 0x4E 0

-- ## Received packets

/-- The port runs: Weir is enabled, and the port exists in the mode, is enabled and is up. -/
def Net.portOn (n : Net) (q : PortId) : Bool :=
  n.enable && decide (q.val < n.portCount) && n.portEn.getLsbD q.val && n.ports[q].up

/-- Takes a well-formed packet of a type from a port that runs; a malformed one is counted (R287).
[DESIGN CHOICE, unsafe: log 84] -/
def State.receive (s : State) (port : PortId) (p : WeirPkt) (ty : Nat) (f : State → WeirHdr → State) : State :=
  if !s.net.portOn port then s
  else if !pktOk p then s.modNet (fun n => { n with malformed := satInc n.malformed })
  else if pktType p ≠ ty then s else f s p.hdr

/-- The reassembly entry of a key, with its tenant number. -/
def State.entryOf (s : State) (k : MsgKey) : Option (TenantId × Reasm) :=
  allTenants.findSome? (fun t => (s.reasm? t k).map (fun e => (t, e)))

/-- The message must be answered STALE for its epoch (R299 step 5, R304). -/
def State.stale (s : State) (t : TenantId) (h : WeirHdr) : Bool :=
  let a := s.net.age h.epoch
  a < -4 || 8 < a || (match s.tenants[t].weir.resetEpoch with
    | some e => s.net.age e < 13 && (h.epoch - (e + 5)).toInt < 0
    | none => false)

/-- A packet that reaches its entry (R300, R301). [DEDUCED, unsafe: log 85] -/
def State.packetToEntry (s : State) (t : TenantId) (e : Reasm) (h : WeirHdr) (body : List Byte) : State :=
  let i := h.pktIndex.toNat
  let r := BitVec.ofNat 4 h.restart.toNat
  if e.sentComplete then s.sendComplete h e.restart
  else if e.complete then s.sendAck e
  else if r < e.restart then s
  else
    let reset (e : Reasm) : Reasm :=
      if e.restart < r then
        { e with restart := r, cum := 0, got := [], unreported := 0, placed := 0, buffer := [] } else e
    let s := s.modReasm t e.key reset
    let e := reset e
    if e.cum + 256 ≤ i then s
    else if e.has i then (s.sendAck e).modReasm t e.key (fun e => { e with unreported := 0 })
    else if 2 ^ 21 < s.tenants[t].weir.buffered + body.length then
      s.modWeir t (fun w => { w with bufFull := satInc w.bufFull })
    else
      let e := e.accept i body
      let s := s.modReasm t e.key (fun _ => e)
      if 32 ≤ e.unreported then (s.sendAck e).modReasm t e.key (fun e => { e with unreported := 0 }) else s

/-- The duplicate window of a tenant number holds 8,192 records, none of which has expired (R299, R301). -/
def State.dupsFull (s : State) (t : TenantId) : Bool :=
  decide (8192 ≤ (s.tenants[t].weir.dups.filter (fun k => decide (s.net.age k.epoch < 9))).length)

/-- The steps of R299 for a DATA packet. See R56. [DEDUCED, unsafe: log 91] -/
def State.dataPacket (s : State) (h : WeirHdr) (port : PortId) (body : List Byte) : State :=
  let k := pktKey h
  let rs := BitVec.ofNat 4 h.restart.toNat
  match s.tagWindow h.tag with
  | none => s.modNet (fun n => { n with unknownTag := satInc n.unknownTag })
  | some (t, ix, w) =>
    if w.revoked.isSome || w.pending.isSome then s.status h rs 0x40 0
    else if !w.any && w.peer ≠ h.sender then s.status h rs 0x42 0
    else match s.reasm? t k with
      | some e => s.packetToEntry t e h body
      | none =>
        if s.tenants[t].weir.dups.contains k && decide (s.net.age k.epoch < 9) then s.sendComplete h rs
        else if s.stale t h then s.status h rs 0x43 0
        else if !bitOf h.flags.toNat 0 then s.status h (BitVec.ofNat 4 (min 15 (h.restart.toNat + 1))) 0x44 0
        else
          let bad : Option (Nat × Nat) := match w.round with
            | some slot =>
              (match s.rounds[slot] with
               | some r => r.refuses s slot h
               | none => some (0x40, 0))
            | none => if w.length.toNat < h.msgBase.toNat + h.msgLen.toNat then some (0x41, 0) else none
          match bad with
          | some (c, sub) => s.status h rs c sub
          | none =>
            if 2 ^ 21 < s.tenants[t].weir.buffered + body.length then
              s.modWeir t (fun w => { w with bufFull := satInc w.bufFull })
            else if 512 ≤ s.tenants[t].weir.reasm.length || s.dupsFull t then
              s.modWeir t (fun w => { w with entryFull := satInc w.entryFull })
            else
              let e : Reasm := { key := k, port := port, window := BitVec.ofNat 13 ix, len := h.msgLen, base := h.msgBase,
                                 tag := h.tag, restart := rs }
              let s := s.modWeir t (fun w => { w with reasm := w.reasm ++ [e] })
              s.packetToEntry t e h body

/-- DATA (R299). -/
def execData (port : PortId) (p : WeirPkt) (s : State) : Host.Outcome State Fault Refusal :=
  .next (s.receive port p 0 (fun s h => s.dataPacket h port p.body))

/-- ACK_DUE (R300). -/
def execAckDue (t : TenantId) (key : MsgKey) (s : State) : Host.Outcome State Fault Refusal :=
  .next (match s.reasm? t key with
    | none => s
    | some e => if e.unreported = 0 || e.sentComplete then s
                else (s.sendAck e).modReasm t key (fun e => { e with unreported := 0 }))

/-- The send entry that a control packet concerns: all its message values agree, and it comes from the destination. -/
def State.sendFor (s : State) (h : WeirHdr) (responder : Nat) : Option (TenantId × Send) :=
  if h.sender ≠ s.net.moduleId then none else
  allTenants.findSome? (fun t => (s.tenants[t].weir.sends.find? (fun m =>
    m.seq = h.msgSeq && m.epoch = h.epoch && m.tag = h.tag && m.len = h.msgLen && m.base = h.msgBase &&
      m.dest.toNat = responder && !m.done)).map (fun m => (t, m)))

/-- A send entry after an ACK: what it shows accepted, and whether it is progress (R294 to R296). -/
def Send.ack (m : Send) (cum : Nat) (bits : List Byte) (all : Bool) (tickUs : W32) : Send :=
  let shown := (List.range 256).filter (fun j => bitOf (bits.getD (j / 8) 0).toNat (j % 8))
  let acked := (m.acked ++ shown.map (· + cum)).dedup
  let cum' := max m.cum cum
  let acked := acked.filter (fun i => decide (cum' ≤ i) && decide (i < m.packets))
  let m' : Send := { m with cum := cum', acked := acked, acks := true, fresh := false }
  let progress := (List.range m.packets).any (fun i => m'.isAcked i && !m.isAcked i)
  let m' := if progress then { m' with tries := 1 } else m'
  if all then { m' with all := true, tickUs := tickUs } else m'

/-- ACK (R295, R296). -/
def execAck (port : PortId) (p : WeirPkt) (s : State) : Host.Outcome State Fault Refusal :=
  .next (s.receive port p 1 (fun s h =>
    match s.sendFor h (natBE (bytesAt p.body 0 2)) with
    | none => s
    | some (t, m) =>
      if h.restart.toNat ≠ m.restarts.toNat then s else
      let f (m : Send) : Send := m.ack (natBE (bytesAt p.body 4 4)) (bytesAt p.body 12 32)
        (bitOf (natBE (bytesAt p.body 2 1)) 0) (BitVec.ofNat 32 (natBE (bytesAt p.body 8 4)))
      (s.modSend t m.seq f).sendAgain t m.seq (min m.again (m.cum + 256)) (min m.again ((f m).cum + 256))))

/-- COMPLETE: CLOSE goes out once and the message has ended well (R297). -/
def execComplete (port : PortId) (p : WeirPkt) (s : State) : Host.Outcome State Fault Refusal :=
  .next (s.receive port p 2 (fun s h =>
    match s.sendFor h (natBE (bytesAt p.body 0 2)) with
    | none => s
    | some (t, m) => (s.sendCtl m.dest (s.sendHdr m 3) []).endSend t m 0 0 0 false))

/-- STATUS: a refusal ends the message, RESTART sends it again, at restart count 15 it fails (R297, R303).
[DEDUCED, unsafe: log 89] -/
def execStatus (port : PortId) (p : WeirPkt) (s : State) : Host.Outcome State Fault Refusal :=
  .next (s.receive port p 4 (fun s h =>
    match s.sendFor h (natBE (bytesAt p.body 0 2)) with
    | none => s
    | some (t, m) =>
      let code := BitVec.ofNat 8 (natBE (bytesAt p.body 2 1))
      let sub := BitVec.ofNat 8 (natBE (bytesAt p.body 3 1))
      if code = 0x44 then
        if m.restarts = 15 then s.endSend t m 0x4B 0 0 false
        else if h.restart.toNat ≤ m.restarts.toNat then s
        else s.restartSend t m (BitVec.ofNat 4 h.restart.toNat)
      else if [0x23, 0x24, 0x2E, 0x2F, 0x40, 0x41, 0x42, 0x43, 0x45].contains code.toNat then
        s.endSend t m 0x49 code sub true
      else s))

/-- Frees a completed entry; its key goes into the duplicate window while its epoch is young enough (R301). -/
def State.freeEntry (s : State) (t : TenantId) (e : Reasm) : State :=
  s.modWeir t (fun w => { w with reasm := w.reasm.filter (fun x => x.key ≠ e.key),
                                 dups := if s.net.age e.key.epoch ≤ 8 then w.dups ++ [e.key] else w.dups })

/-- CLOSE (R301). -/
def execClose (port : PortId) (p : WeirPkt) (s : State) : Host.Outcome State Fault Refusal :=
  .next (s.receive port p 3 (fun s h =>
    match s.entryOf (pktKey h) with
    | some (t, e) => if e.sentComplete then s.freeEntry t e else s
    | none => s))

/-- ABORT: an entry with a packet still missing is abandoned (R302). -/
def execAbort (port : PortId) (p : WeirPkt) (s : State) : Host.Outcome State Fault Refusal :=
  .next (s.receive port p 5 (fun s h =>
    match s.entryOf (pktKey h) with
    | some (t, e) => if e.all || e.complete then s else s.dropReasm t e
    | none => s))

-- ## Timers

/-- RETRANSMIT_TIMEOUT (R295, Table 11-4). -/
def execRetransmitTimeout (t : TenantId) (seq : W48) (s : State) : Host.Outcome State Fault Refusal :=
  .next (match s.send? t seq with
    | none => s
    | some m =>
      if m.done || m.all || m.missing.isEmpty then s
      else if 8 ≤ m.tries then s.endSend t m 0x48 0 0 true
      else (s.modSend t seq (fun m => { m with tries := m.tries + 1 })).resend t seq m.missing)

/-- COMPLETE_WAIT_TIMEOUT (R296). -/
def execCompleteWaitTimeout (t : TenantId) (seq : W48) (s : State) : Host.Outcome State Fault Refusal :=
  .next (match s.send? t seq with
    | none => s
    | some m =>
      if m.done || !m.all then s
      else if 8 ≤ m.waits + 1 then s.endSend t m 0x48 0 0 true
      else (s.modSend t seq (fun m => { m with waits := m.waits + 1 })).resend t seq [m.packets - 1])

/-- REASSEMBLY_TIMEOUT: a completed entry is freed, an unfinished one abandoned (R301, R302). -/
def execReassemblyTimeout (t : TenantId) (key : MsgKey) (s : State) : Host.Outcome State Fault Refusal :=
  .next (match s.reasm? t key with
    | none => s
    | some e => if e.sentComplete then s.freeEntry t e else if e.complete then s else s.dropReasm t e)

/-- DUPLICATE_WINDOW_EXPIRE (R301). -/
def execDuplicateWindowExpire (t : TenantId) (s : State) : Host.Outcome State Fault Refusal :=
  .next (s.modWeir t (fun w => { w with dups := w.dups.filter (fun k => s.net.age k.epoch < 9) }))

/-- WINDOW_FREE (R291). -/
def execWindowFree (t : TenantId) (index : BitVec 13) (s : State) : Host.Outcome State Fault Refusal :=
  .next (match sget? s.tenants[t].weir.windows index.toNat with
    | some w =>
      (match w.revoked with
       | some e => if 16 ≤ s.net.age e then s.modWeir t (fun x => { x with windows := sdel x.windows index.toNat }) else s
       | none => s)
    | none => s)

-- ## Probes, discovery (R286, R307, R308)

/-- Every peer entry of the site has a path up; with that the site chain is formed (R308). -/
def State.noteFormed (s : State) : State :=
  let ps := s.net.peers.filter (fun p => p.2.valid)
  if !ps.isEmpty && ps.all (fun p => !p.2.up.isEmpty) then s.modNet (fun n => { n with formed := true }) else s

/-- Applies `f` to a peer entry. -/
def State.modPeer (s : State) (e : Nat) (f : Peer → Peer) : State :=
  s.modNet (fun n => match sget? n.peers e with
    | some p => { n with peers := sset n.peers e (f p) }
    | none => n)

/-- A control packet to a module on a given path. -/
def State.netCtl (s : State) (port : PortId) (path : Nat) (dest : W16) (ty : Nat) (body : List Byte) : State :=
  s.netSend (.weir port (BitVec.ofNat 4 path) dest (weirPacket (msgHdr ty 0 0 s.net.moduleId 0 0 0 0 0 0) body))

/-- PROBE: echoed to its sender. -/
def execProbe (port : PortId) (p : WeirPkt) (s : State) : Host.Outcome State Fault Refusal :=
  .next (s.receive port p 7 (fun s h => s.netCtl port (natBE (bytesAt p.body 0 1)) h.sender 8 p.body))

/-- PROBE_REPLY: the path whose cookie it echoes is up. -/
def execProbeReply (port : PortId) (p : WeirPkt) (s : State) : Host.Outcome State Fault Refusal :=
  .next (s.receive port p 8 (fun s h =>
    let c := BitVec.ofNat 32 (natBE (bytesAt p.body 4 4))
    match s.net.peers.find? (fun q => q.2.valid && q.2.id = h.sender && q.2.probes.any (fun x => x.2 = c)) with
    | none => s
    | some (e, q) =>
      match q.probes.find? (fun x => x.2 = c) with
      | none => s
      | some (path, _) =>
        (s.modPeer e (fun q => { q with
          probes := q.probes.filter (fun x => x.2 ≠ c), missed := sdel q.missed path
          down := q.down.filter (· ≠ path), up := if q.up.contains path then q.up else q.up ++ [path] })).noteFormed))

/-- PROBE_TIMEOUT: the third in a row marks the path down, with an event to every tenant in service (R286). -/
def execProbeTimeout (peer : Fin 256) (port : PortId) (path : Fin 16) (s : State) : Host.Outcome State Fault Refusal :=
  .next (match sget? s.net.peers peer.val with
    | none => s
    | some q =>
      let x := port.val * 16 + path.val
      if !(q.probes.any (fun y => y.1 = x)) then s else
      let k := sget q.missed x 0 + 1
      let s := s.modPeer peer.val (fun q => { q with
        probes := q.probes.filter (fun y => y.1 ≠ x), missed := sset q.missed x k })
      if k < 3 || q.down.contains x then s else
      (s.modPeer peer.val (fun q => { q with down := q.down ++ [x], up := q.up.filter (· ≠ x) })).raiseDevice
        { cls := 0x0A, part := 4, index := BitVec.ofNat 16 port.val })

/-- PATH_PROBE: a path marked down is probed. -/
def execPathProbe (peer : Fin 256) (port : PortId) (path : Fin 16) (s : State) : Host.Outcome State Fault Refusal :=
  .next (match sget? s.net.peers peer.val with
    | none => s
    | some q => if q.down.contains (port.val * 16 + path.val) && s.net.portOn port then
                  s.probe peer.val (port.val * 16 + path.val) else s)

/-- The body of a beacon (Table 11-3). -/
def Net.beaconBody (n : Net) (boot : W32) (port : PortId) (reply : Bool) : List Byte :=
  bytesBE 4 n.site.toNat ++ bytesBE 4 boot.toNat ++ [BitVec.ofNat 8 port.val, BitVec.ofNat 8 (b2n reply)] ++
    List.replicate 6 0

/-- BEACON_TIMER (R307). [DEDUCED, unsafe: log 83] -/
def execBeaconTimer (port : PortId) (s : State) : Host.Outcome State Fault Refusal :=
  .next (match s.net.boot with
    | none => s
    | some b =>
      if !s.net.portOn port then s else
      let s := s.modNet (fun n => { n with beacons := n.beacons.set port (min 5 (n.beacons[port] + 1)) })
      s.netSend (.beacon port none (weirPacket (msgHdr 6 0 0 s.net.moduleId 0 0 0 0 0 0) (s.net.beaconBody b port false))))

/-- Every path to a peer: the ports of the module, all path indices. -/
def Net.allPaths (n : Net) (p : Peer) : List Nat :=
  ((List.finRange 8).filter (fun q => n.portOn q && p.mask.getLsbD q.val)).flatMap (fun q =>
    (List.range (n.pathsM1.toNat + 1)).map (fun i => q.val * 16 + i))

/-- Discovery of a module that no entry holds (R307). [DEDUCED, unsafe: log 92] -/
def State.discover (s : State) (port : PortId) (p : Peer) : State :=
  let n := s.net
  if 64 ≤ (n.peers.filter (fun q => q.2.valid && q.2.disc)).length then s.modNet (fun n => { n with peerFull := true })
  else match (List.range 256).find? (fun e => match sget? n.peers e with
      | some q => !q.valid
      | none => true) with
    | none => s.modNet (fun n => { n with peerFull := true })
    | some e =>
      let s := s.modNet (fun n => { n with peers := sset n.peers e p })
      let s := match n.boot with
        | some b => s.netSend (.beacon port (some e)
            (weirPacket (msgHdr 6 0 0 n.moduleId 0 0 0 0 0 0) (n.beaconBody b port true)))
        | none => s
      forEach (s.net.allPaths p) s (fun s x => s.probe e x)

/-- BEACON (R307, R308); `src` is the IP source, an IPv4 address in its low 32 bits. The entry keeps an IPv4 address in its
first word (Table 11-16). -/
def execBeacon (port : PortId) (p : WeirPkt) (v6 : Bool) (src : BitVec 128) (s : State) :
    Host.Outcome State Fault Refusal :=
  .next (s.receive port p 6 (fun s h =>
    let site := BitVec.ofNat 32 (natBE (bytesAt p.body 0 4))
    let boot := BitVec.ofNat 32 (natBE (bytesAt p.body 4 4))
    if site ≠ s.net.site then s
    else if h.sender = s.net.moduleId then
      if s.net.boot = some boot then s
      else (s.modNet (fun n => { n with idConflict := true })).logEvent 0xFF { cls := 0x0A, part := 4 }
    else match s.net.peer? h.sender with
      | some (e, _) => s.modPeer e (fun q => { q with site := site, boot := boot, stale := false })
      | none => s.discover port
          { valid := true, v6 := v6, disc := true, mask := BitVec.ofNat 8 (2 ^ s.net.portCount - 1), id := h.sender,
            addr := if v6 then src else src <<< 96, site := site, boot := boot, reply := true }))

/-- STALE (R307). -/
def execStale (peer : Fin 256) (s : State) : Host.Outcome State Fault Refusal :=
  .next (s.modPeer peer.val (fun q => if q.valid && q.disc then { q with stale := true } else q))

-- ## Ports and time

/-- The path lists that take effect at a tick boundary (R286). [DEDUCED, unsafe: log 92] -/
def Net.newLists (n : Net) : Net :=
  { n with lists := (n.peers.filter (fun p => p.2.valid)).map (fun p => (p.1, n.paths p.2)) }

/-- PORT_LINK_CHANGE (R285, Table 12-6). -/
def execPortLinkChange (port : PortId) (up : Bool) (s : State) : Host.Outcome State Fault Refusal :=
  .next (let was := s.net.ports[port].up
    if was = up || s.net.portCount ≤ port.val then s else
    let s := s.modNet (fun n => { n with ports := n.ports.set port { n.ports[port] with up := up },
                                         beacons := if up then n.beacons.set port 0 else n.beacons })
    if up then s else s.raiseDevice { cls := 0x0A, part := 4, index := BitVec.ofNat 16 port.val })

/-- Magnitude of a signed nanosecond value. -/
def magnitude (x : W32) : Nat := x.toInt.natAbs

/-- PTP_EVENT_MESSAGE: a Sync on the clock's port feeds the servo (R309). With TIME_SRC 1 the Weir time follows it.
[DEDUCED, unsafe: log 93] -/
def execPtpEventMessage (port : PortId) (sync : Bool) (offsetNs : W32) (s : State) : Host.Outcome State Fault Refusal :=
  .next ((s.modNet (fun n =>
    if !n.ptpEn || port.val ≠ n.ptpPort.toNat || !sync then n else
    let good := if magnitude offsetNs < 100 then n.ptpGood + 1 else 0
    let bad := if 1000 < magnitude offsetNs then n.ptpBad + 1 else 0
    { n with
      ptpOffset := offsetNs, ptpGood := min good 16, ptpBad := min bad 4
      ptpLocked := if 16 ≤ good then true else if 4 ≤ bad then false else n.ptpLocked
      time := if n.timeSrc then n.time - offsetNs.signExtend 64 else n.time })).servoLost s.net.ptpLocked)

/-- A write of NET_TIME_LO: it sets the time, with the high word held by the write before it (R448). -/
def State.writeNetTime (s : State) (value : W32) : State :=
  if s.net.timeSrc then s.writeErr 0x6208 else s.modNet (fun n =>
    let hi := n.timeHi.getD (BitVec.ofNat 32 (n.time.toNat / 2 ^ 32))
    { n with time := BitVec.ofNat 64 (value.toNat + hi.toNat * 2 ^ 32), timeHi := none })

/-- NET_TIME_WRITE. [DEDUCED, unsafe: log 93] -/
def execNetTimeWrite (value : W32) (s : State) : Host.Outcome State Fault Refusal := .next (s.writeNetTime value)

/-- The module's network address of a family. -/
def Net.address (n : Net) (v6 : Bool) : BitVec 128 :=
  if v6 then wide6 n.addr6 else n.addr4.setWidth 128

/-- ARP_REQUEST: answered for the module's own address on every port, and on the management port, whose addresses are
obtained outside the model (R281, R283, R415). [DEDUCED, unsafe: log 94] -/
def execArpRequest (port : PortId) (management v6 : Bool) (target : BitVec 128) (s : State) :
    Host.Outcome State Fault Refusal :=
  .next (if management then s.netSend (.address port true v6 (s.net.mac + 8))
    else if s.net.ports[port].up && target = s.net.address v6 then
      s.netSend (.address port false v6 (s.net.mac + BitVec.ofNat 48 port.val))
    else s)

end Sys2Proof.Machine
end

