-- ==== Sys2Proof/Machine/Journal.lean ====
section
/-! DEFINITION. The journal of a tenant: entries, blocks and markers as bytes (Tables 12-2 to 12-4), what a commit
journals, and the log's tail (R314 to R321). -/

namespace Sys2Proof.Machine

-- ## Images of records

/-- The 64 bytes of a context record; a free context is zeros (Tables 5-6, 6-1). -/
def ctxImage : Option Ctx → List Byte
  | none => List.replicate 64 0
  | some (.session x) => x.record true
  | some (.part p) =>
    [2, BitVec.ofNat 8 p.round.val, 0, 0] ++ bytesLE 4 p.part.toNat ++ bytesLE 4 p.slot.toNat ++ bytesLE 4 p.total.toNat ++
      bytesLE 4 p.landed.toNat ++ bytesLE 4 p.absorbed.toNat ++ bytesLE 8 p.placed.toNat ++ bytesLE 8 p.lastTick.toNat ++
      [BitVec.ofNat 8 (b2n p.abandoning)] ++ List.replicate 23 0

/-- The 8-byte participant entry (Table 5-5). -/
def Part.word (p : Part) : W64 :=
  BitVec.ofNat 64 (p.state.toNat + p.pairs.toNat * 2 ^ 4 + p.lastN.toNat * 2 ^ 16 + p.context.toNat * 2 ^ 40)

/-- Codes of Table 5-15. -/
def RoundState.code : RoundState → Nat
  | .collecting => 1
  | .closing => 2
  | .unmasking => 3
  | .chainWait => 4
  | .releasing => 5
  | .released => 6
  | .ending => 7
  | .faulted => 8

-- ## Entries as bytes (R316, Table 12-3)

/-- An entry: type, ring, class, sequence, item index, and body filled to whole units of 16 bytes. -/
def entryBytes (ty : Nat) (ring cls : Nat) (seq item : Nat) (body : List Byte) : List Byte :=
  let n := 1 + ceilDiv body.length 16
  [BitVec.ofNat 8 ty, BitVec.ofNat 8 n, BitVec.ofNat 8 ring, BitVec.ofNat 8 cls] ++ bytesLE 6 seq ++ [0, 0] ++
    bytesLE 4 item ++ padTo (16 * (n - 1)) body

/-- The bytes of an entry. -/
def JEntry.bytes : JEntry → List Byte
  | .consume ring cls seq items st => entryBytes 1 ring.val cls.val seq.toNat 0 (padTo 16 (bytesLE 4 items.toNat ++ [st]))
  | .item ring cls seq index fl => entryBytes 2 ring.val cls.val seq.toNat index.toNat (padTo 16 [fl])
  | .complete c r =>
    entryBytes 3 (match r.desc with
      | some d => d.1.val
      | none => 0) 0 (match r.desc with
      | some d => d.2.toNat
      | none => 0) 0 (padTo 16 [c] ++ bytesLE 32 r.data.toNat)
  | .context id image => entryBytes 4 0 0 0 0 (padTo 16 (bytesLE 4 id.toNat) ++ padTo 64 image)
  | .segment k bank g cur ws =>
    entryBytes 5 0 0 0 0 ([BitVec.ofNat 8 k.val, BitVec.ofNat 8 (b2n bank)] ++ bytesLE 2 g.toNat ++ bytesLE 8 cur.toNat ++
      bytesLE 4 ws.length ++ ws.flatMap (fun w => bytesLE 4 w.toNat))
  | .participant k p e => entryBytes 6 0 0 0 0 ([BitVec.ofNat 8 k.val, 0, 0, 0] ++ bytesLE 4 p.toNat ++ bytesLE 8 e.toNat)
  | .round k st a b c d ch =>
    entryBytes 7 0 0 0 0 (padTo 32 ([BitVec.ofNat 8 k.val, st, 0, 0] ++ bytesLE 4 a.toNat ++ bytesLE 4 b.toNat ++
      bytesLE 4 c.toNat ++ bytesLE 4 d.toNat ++ [BitVec.ofNat 8 (b2n ch)]))
  | .weirSend seq e => entryBytes 8 0 0 0 0 (padTo 16 (bytesLE 6 seq.toNat ++ bytesLE 2 e.toNat))
  | .window i st fl tag base len peer ring =>
    entryBytes 9 0 0 0 0 (padTo 32 (bytesLE 2 i.toNat ++ [st, fl] ++ bytesLE 4 tag.toNat ++ bytesLE 8 base.toNat ++
      bytesLE 8 len.toNat ++ bytesLE 2 peer.toNat ++ [ring]))
  | .model fs => entryBytes 0xA 0 0 0 0 (padTo 64 fs)
  | .pages id first es =>
    entryBytes 0xB 0 0 0 0 (bytesLE 4 id.toNat ++ bytesLE 4 first.toNat ++ bytesLE 4 es.length ++ [0, 0, 0, 0] ++
      es.flatMap (fun e => bytesLE 4 e.toNat))
  | .millMap r k p => entryBytes 0xC 0 0 0 0 (padTo 16 [BitVec.ofNat 8 r.val, BitVec.ofNat 8 k.val, BitVec.ofNat 8 p.val])
  | .event r => entryBytes 0xD 0 0 0 0 (bytesLE 32 r.data.toNat)

/-- Entries packed into block bodies of at most 1,760 bytes; none crosses a block (R316). -/
def packEntries : List (List Byte) → List Byte → List (List Byte)
  | [], cur => if cur.isEmpty then [] else [cur]
  | e :: es, cur =>
    if cur.length + e.length ≤ 1760 then packEntries es (cur ++ e)
    else cur :: packEntries es e

/-- A block of 1,792 bytes with its header and CRC (Table 12-2). -/
def blockBytes (t : TenantId) (kind index : Nat) (tick seq : Nat) (body : List Byte) : List Byte :=
  let head := bytesLE 4 0x4A4E4C31 ++ [BitVec.ofNat 8 t.val, BitVec.ofNat 8 kind] ++ bytesLE 2 index ++ bytesLE 8 tick ++
    bytesLE 8 seq
  let body := padTo 1760 body
  head ++ bytesLE 4 (crc32c (head ++ body)).toNat ++ [0, 0, 0, 0] ++ body

/-- Log blocks of a tenant. [DEDUCED, unsafe: log 35] -/
def logBlocks : Nat := 290229

/-- Race offset of the log block of a block sequence (R314, R315). -/
def logOff (seq : Nat) : Nat := tenantTb + 2048 + seq % logBlocks * 1792

/-- Race offset of a context's image. -/
def ctxImageOff (id : Nat) : Nat := tenantTb + 496 * mib + 64 * id

/-- The oldest block still needed (R320). [DEDUCED, unsafe: log 36] -/
def Jnl.tail (j : Jnl) : W64 :=
  match j.log.dropWhile (fun x => x.applied && x.unwritten = 0) with
  | [] => j.nextSeq
  | x :: _ => x.firstSeq

/-- The body of a commit marker (Table 12-4). [DEDUCED, unsafe: log 35] -/
def Jnl.markerBody (j : Jnl) (blocks : List (List Byte)) : List Byte :=
  bytesLE 2 blocks.length ++ [0, 0] ++ bytesLE 4 (if blocks.isEmpty then (crc32c []).toNat else (crc32c blocks.flatten).toNat) ++
    bytesLE 8 j.tail.toNat ++ bytesLE 8 j.applied.toNat ++ List.replicate 8 0 ++
    j.nextFetch.toList.flatMap (fun n => bytesLE 8 n.toNat) ++ j.journaled.toList.flatMap (fun n => bytesLE 8 n.toNat)

-- ## What a commit journals

/-- State and flags of a window in a WINDOW entry. [DEDUCED, unsafe: log 40] -/
def windowEntry (i : Nat) : Option WWin → JEntry
  | none => .window (BitVec.ofNat 16 i) 0 0 0 0 0 0 0
  | some w => .window (BitVec.ofNat 16 i) (if w.revoked.isSome then 2 else 1) (BitVec.ofNat 8 (b2n w.any + 2 * b2n w.notify))
      w.tag w.base w.length w.peer (w.ring.setWidth 8)

/-- The ROUND entry of a slot. -/
def roundEntry (k : Fin 64) : Option Round → JEntry
  | none => .round k 0 0 0 0 0 false
  | some r => .round k (BitVec.ofNat 8 r.state.code) (BitVec.ofNat 32 r.log.length) (BitVec.ofNat 32 r.contributors)
      (BitVec.ofNat 32 r.dropped) (BitVec.ofNat 32 r.retracted) r.chainAdded

/-- The round of a slot, if it is the tenant's. -/
def State.roundAt (s : State) (t : TenantId) (k : Fin 64) : Option Round :=
  match s.rounds[k] with
  | some r => if r.tenant = t then some r else none
  | none => none

/-- The after-images of the tenant's records that differ between two states: contexts, participants, rounds, windows. -/
def journalDiff (t : TenantId) (a b : State) : List JEntry :=
  let x := b.tenants[t]
  let mine (c : Nat) : Bool := decide (x.ctxBase.toNat ≤ c) && decide (c < x.ctxBase.toNat + x.ctxCount.toNat)
  let ids := ((a.ctxs.map (·.1) ++ b.ctxs.map (·.1)).filter mine).dedup
  let ctxs := (ids.filter (fun c => ctxImage (sget? a.ctxs c) ≠ ctxImage (sget? b.ctxs c))).map (fun c =>
    JEntry.context (BitVec.ofNat 18 c) (ctxImage (sget? b.ctxs c)))
  let rounds := (List.finRange 64).flatMap (fun k =>
    let p := a.roundAt t k
    let q := b.roundAt t k
    let parts := match q with
      | none => []
      | some r => (r.parts.filter (fun e => (p.bind (fun r => sget? r.parts e.1)) ≠ some e.2)).map (fun e =>
          JEntry.participant k (BitVec.ofNat 32 e.1) e.2.word)
    parts ++ (if p.isNone && q.isNone || roundEntry k p = roundEntry k q then [] else [roundEntry k q]))
  let ws := ((a.tenants[t].weir.windows.map (·.1) ++ x.weir.windows.map (·.1)).dedup).filter (fun i =>
    (sget? a.tenants[t].weir.windows i).map (fun w => (w.tag, w.revoked.isSome)) ≠
      (sget? x.weir.windows i).map (fun w => (w.tag, w.revoked.isSome)))
  ctxs ++ rounds ++ ws.map (fun i => windowEntry i (sget? x.weir.windows i))

/-- The entries that an effect journals by itself. -/
def State.effectEntries (s : State) (t : TenantId) (e : Effect) : List JEntry :=
  match e with
  | .segment slot g chunks retracts cursor _ _ =>
    let bank := match s.rounds[slot] with
      | some r => (sget r.segs g {}).bank
      | none => false
    [.segment slot bank (BitVec.ofNat 16 g) (BitVec.ofNat 64 cursor)
      (retracts.map (fun c => BitVec.ofNat 32 (c + 2 ^ 31)) ++ chunks.map (fun c => BitVec.ofNat 32 c))]
  | .weirSend seq => (match s.send? t seq with
    | some m => [.weirSend seq m.epoch]
    | none => [])
  | .model slot m => [.model (match m with
      | some m => (m.fields.drop 0x10)
      | none => BitVec.ofNat 8 slot.val :: 1 :: List.replicate 46 0)]
  | .decPages id first es => [.pages id first es]
  | _ => []

/-- Appends a tick's entries to the log: its entry blocks and the marker, as bytes in the journal range of the tenant's
lowest race (R317). -/
def State.journalTick (s : State) (t : TenantId) (entries : List JEntry) (unwritten : Nat) : State :=
  let j := s.tenants[t].jnl
  let bodies := packEntries (entries.map JEntry.bytes) []
  let seq := j.nextSeq.toNat
  let blocks := (indexed bodies).map (fun p => blockBytes t 1 p.1 s.tick.count.toNat (seq + p.1) p.2)
  let n := blocks.length
  let log := j.log.dropWhile (fun x => x.applied && x.unwritten = 0) ++
    [{ tick := s.tick.count, firstSeq := j.nextSeq, blocks := n + 1, entries := entries, unwritten := unwritten, applied := false }]
  let marker := blockBytes t 2 n s.tick.count.toNat (seq + n) (({ j with log := log } : Jnl).markerBody blocks)
  let r := s.lowest t
  let s := (indexed (blocks ++ [marker])).foldl (fun s p => (s.writeAt r true (logOff (seq + p.1)) p.2).1) s
  s.modJnl t (fun j => { j with
    log := log, nextSeq := j.nextSeq + BitVec.ofNat 64 (n + 1), commitTick := s.tick.count, marker := false })

/-- Where a COMPLETE or EVENT entry's record is not yet in host memory, the entries of the oldest tick are carried into
the current one while fewer than 447 blocks are free (R321). -/
def State.carryEntries (s : State) (t : TenantId) : State × List JEntry :=
  let j := s.tenants[t].jnl
  if 447 ≤ j.free then (s, []) else
  match j.log with
  | x :: rest =>
    let waiting := (s.races[(s.lowest t)].crings.toList.flatMap (fun c => c.staged ++ c.flying.map (·.2)))
    let old := x.entries.filter (fun e => match e with
      | .complete _ r => waiting.contains r
      | .event r => waiting.contains r
      | _ => false)
    if x.applied && !old.isEmpty then
      (s.modJnl t (fun j => { j with log := { x with unwritten := 0 } :: rest }), old) else (s, [])
  | [] => (s, [])

/-- A record has reached host memory: its entry no longer holds the tail (R320). -/
def Jnl.recordWritten (j : Jnl) (r : Rec) : Jnl :=
  let holds (x : LogTick) : Bool := decide (0 < x.unwritten) && x.entries.any (fun e => match e with
    | .complete _ q => q = r
    | .event q => q = r
    | _ => false)
  match j.log.findIdx? holds with
  | none => j
  | some i => { j with log := j.log.modify i (fun x => { x with unwritten := x.unwritten - 1 }) }

/-- The committed entries reach their homes and APPLIED advances (R319). Context records go to the context image; the
other homes are part of the state and hold the entries since the commit. [DEDUCED, unsafe: log 36] -/
def State.applyLog (s : State) (t : TenantId) : State :=
  let due := s.tenants[t].jnl.log.filter (fun x => !x.applied)
  if due.isEmpty then s else
  let r := s.lowest t
  let s := (due.flatMap (·.entries)).foldl (fun s e => match e with
    | .context id image => (s.writeAt r true (ctxImageOff id.toNat) image).1
    | _ => s) s
  s.modJnl t (fun j => { j with log := j.log.map (fun x => { x with applied := true }), applied := j.commitTick })

/-- JOURNAL_APPLY, in the execute phase. -/
def execJournalApply (t : TenantId) (s : State) : Host.Outcome State Fault Refusal :=
  .next (if s.tick.phase = .execute then s.applyLog t else s)

end Sys2Proof.Machine
end

