-- ==== Sys2Proof/Machine/SelfTest.lean ====
section
/-! DEFINITION. The end of a requested test: its result record, the log, and who hears of it (R430, Table 17-9). -/

namespace Sys2Proof.Machine

/-- A destructive test (Table 17-8). -/
def destructive (code : Byte) : Bool := decide (0x10 ≤ code.toNat)

/-- A test result record (Table 17-9). -/
def testRecord (x : TestRun) (result : Byte) (tick : W64) (f : TestFound) : List Byte :=
  [x.code, result, x.race.setWidth 8, BitVec.ofNat 8 (b2n x.from?.isSome)] ++ bytesLE 2 x.unit.toNat ++ [0, 0] ++
    bytesLE 4 f.ok.toNat ++ bytesLE 4 f.bad.toNat ++ bytesLE 8 tick.toNat ++ bytesLE 8 f.detail.toNat

/-- The log record of a test result: RESULT in bits 7 to 0 of DETAIL and BAD_COUNT in bits 63 to 32.
[DESIGN CHOICE, unsafe: log 124] -/
def State.logTest (s : State) (race : Byte) (index : W16) (result : Byte) (bad : Nat) : State :=
  s.logEvent 0xFF { cls := 0x45, race := race, index := index, detail := BitVec.ofNat 64 (result.toNat + bad % 2 ^ 32 * 2 ^ 32) }

/-- Delivers a result: to MGT_TEST_RESULT with DONE, or as TEST_DONE to the session that asked, if it is still open. -/
def State.testResult (s : State) (x : TestRun) (result : Byte) (f : TestFound) : State :=
  let rec' := testRecord x result s.tick.count f
  let s := match x.from? with
    | none => s.modMgmt (fun g => { g with
        done := true, result := Vector.ofFn (fun k => BitVec.ofNat 32 (leAt rec' (4 * k.val) 4)) })
    | some q => if x.gone || (sget? s.mgmt.sessions q.session.val).isNone then s else
        s.send { session := q.session, op := 0x81, id := 0, status := 0, flags := 2, body := rec' }
  s.logTest (x.race.setWidth 8) (x.unit.setWidth 16) result f.bad.toNat

/-- The test of a race, pending or running. -/
def State.test? (s : State) (race : Nat) : Option TestRun := sget? s.mgmt.tests race

/-- A test ends: TEST_PENDING is cleared and the result delivered in the same cycle. -/
def State.endTest (s : State) (race : Nat) (result : Byte) (f : TestFound) : State :=
  match s.test? race with
  | none => s
  | some x =>
    let s := s.modMgmt (fun g => { g with tests := sdel g.tests race })
    let s := if h : race < 8 then s.modRace ⟨race, h⟩ (fun r => { r with testPending := false }) else s
    s.testResult x result f

/-- A reset ends a running test with ABORTED; a pending one stays pending (Table 17-10). -/
def State.abortTest (s : State) (race : Nat) : State :=
  match s.test? race with
  | some x => if x.running then s.endTest race 0x06 { ok := 0, bad := 0, detail := 0 } else s
  | none => s

end Sys2Proof.Machine
end

