-- ==== Sys2Proof/Machine/Hopper.lean ====
section
/-! DEFINITION. The hopper: partitions, check modes, pushes and pops, watermarks, poison and recovery (R186 to R204). -/

namespace Sys2Proof.Machine

/-- Index of a partition in the state. -/
def hopIndex : HopName → Fin 17
  | .race r => ⟨r.val, by omega⟩
  | .tenant t => ⟨8 + t.val, by omega⟩
  | .device => 16

/-- A partition. -/
def State.hop (s : State) (p : HopName) : HopPart := s.hops[(hopIndex p)]

/-- The tenant of a partition. -/
def State.hopTenant (s : State) (p : HopName) : Option TenantId :=
  match p with
  | .race r => s.owner r
  | .tenant t => if s.tenants[t].state.owns then some t else none
  | .device => none

/-- The race is the lowest of its tenant. -/
def State.isLowest (s : State) (r : RaceId) : Bool :=
  match s.owner r with
  | some t => s.lowest t = r
  | none => false

/-- Limit, reserve and CUT of a race hopper's queue (Table 7-7, R202). -/
def raceQueue (lowest : Bool) (q : Nat) : Nat × Nat × Nat :=
  if q < 64 then (if lowest then (1024, 128, 2) else (0, 0, 0))
  else if q < 80 then (if lowest then (1024, 256, 0) else (0, 0, 0))
  else if 96 ≤ q && decide (q < 120) then (256, 64, 0)
  else if 128 ≤ q && decide (q < 512) then (1024, 16, 1)
  else if 512 ≤ q && decide (q < 516) then (512, 512, 0)
  else if q = 520 then (256, 256, 0) else (0, 0, 0)

/-- Limit, reserve and CUT of queue `k` of a tenant partition (Table 7-8). -/
def tenantQueue (k : Nat) : Nat × Nat × Nat :=
  if k < 8 then (2048, 256, 2) else if k < 16 then (2048, 256, 8) else if k < 18 then (64, 64, 1)
  else if k < 20 then (64, 64, 0) else if k = 20 then (1024, 64, 1) else (0, 0, 0)

/-- Limit, reserve and CUT of a queue; a queue that no table lists has limit 0 (R202). -/
def State.hopQueue (s : State) (p : HopName) (q : Nat) : Nat × Nat × Nat :=
  match p with
  | .race r => raceQueue (s.isLowest r) q
  | .tenant t => if 1024 * t.val ≤ q && decide (q < 1024 * t.val + 1024) then tenantQueue (q - 1024 * t.val) else (0, 0, 0)
  | .device => if 8192 ≤ q && decide (q < 8198) then (1024, 1024, 0) else (0, 0, 0)

/-- The sum of a partition's reserves (R202). -/
def State.hopReserves (s : State) (p : HopName) : Nat :=
  match p with
  | .race r => if s.isLowest r then 22272 else 9984
  | .tenant _ => 4416
  | .device => 6144

/-- Words in a queue. -/
def HopQ.depth (q : HopQ) : Nat := (q.lev.toList.map List.length).sum

/-- The shared free count of a partition (R192). -/
def State.hopFree (s : State) (p : HopName) : Nat :=
  let x := s.hop p
  x.cells.toNat - s.hopReserves p - (x.queues.map (fun q => q.2.depth - (s.hopQueue p q.1).2.1)).sum - x.retired.length

/-- A queue of a partition. -/
def State.hopQ (s : State) (p : HopName) (q : Nat) : HopQ := sget (s.hop p).queues q {}

/-- The queue is full at the start of the cycle (R192). -/
def State.hopFull (s : State) (p : HopName) (q : Nat) : Bool :=
  let lim := s.hopQueue p q
  let d := (s.hopQ p q).depth
  let ports := match p with
    | .race _ => 16
    | _ => 32
  decide (lim.1 ≤ d) || (decide (lim.2.1 ≤ d) && decide (s.hopFree p < ports))

/-- W of Table 7-13. -/
def wmOf (x : BitVec 7) : Nat := if x.toNat ≤ 64 then x.toNat else 32 * (x.toNat - 62)

-- ## Check modes (R187 to R189)

/-- XOR of the low `n` bits. -/
def parityOf (w : Nat) (n : Nat) : Bool := popCount w n % 2 = 1

/-- The stored word of a pushed one: LIVE set, POISON clear, CHECK by the mode; `count` words were pushed before. -/
def hopStore (secded : Bool) (data : W64) (tag : Byte) (count : BitVec 7) : BitVec 80 :=
  let low := data.toNat + (tag.toNat % 16 + 128) * 2 ^ 64
  if secded then BitVec.ofNat 80 (low + (secdedCheck (BitVec.ofNat 72 low)).toNat * 2 ^ 72)
  else BitVec.ofNat 80 (low + b2n (parityOf low 72) * 2 ^ 72 + count.toNat * 2 ^ 73)

/-- What the check of a popped word finds. -/
inductive HopCheck where
  | good
  | corrected
  | poison (seq : Bool)
deriving DecidableEq, Repr

/-- The 72 bits delivered and what the check found; `count` words were popped before. -/
def hopTake (secded : Bool) (w : BitVec 80) (count : BitVec 7) : BitVec 72 × HopCheck :=
  let low := w.setWidth 72
  if secded then
    let syn := (BitVec.ofNat 8 (fld w.toNat 72 8) ^^^ secdedCheck low).toNat
    if syn = 0 then (low, .good)
    else if popCount syn 8 = 1 then (low, .corrected)
    else match (List.range 72).find? (fun j => secdedCols.getD j 0 = syn) with
      | some j => (low ^^^ BitVec.ofNat 72 (2 ^ j), .corrected)
      | none => (low, .poison false)
  else if parityOf w.toNat 73 then (low, .poison false)
  else if fld w.toNat 73 7 ≠ count.toNat then (low, .poison true)
  else (low, .good)

/-- PRIO of a tag. -/
def tagPrio (tag : Byte) : Fin 4 := Fin.ofNat 4 tag.toNat

-- ## Push (R192, R193, R198)

/-- Applies `f` to a queue. -/
def State.modHopQ (s : State) (p : HopName) (q : Nat) (f : HopQ → HopQ) : State :=
  s.modHop (hopIndex p) (fun x => { x with queues := smod x.queues q {} f })

/-- The lowest cell that is neither in use nor retired. [DESIGN CHOICE, unsafe: log 58] -/
def HopPart.freeCell (x : HopPart) : Nat :=
  let used := x.queues.flatMap (fun q => q.2.lev.toList.flatMap (fun l => l.map (·.cell))) ++ x.retired
  ((List.range (used.length + 1)).find? (fun c => !used.contains c)).getD 0

/-- Counts an up-crossing (R198). -/
def State.hopWatermark (s : State) (p : HopName) (q before : Nat) : State :=
  let x := s.hopQ p q
  let w := wmOf x.wmLevel
  if w ≠ 0 && decide (before < w) && decide (w ≤ x.depth) then
    (s.modHopQ p q (fun x => { x with wmCnt := satInc x.wmCnt })).modHop (hopIndex p) (fun h => { h with wm := true })
  else s

/-- PUSH: into a queue that is not full; otherwise ignored, with OVERRUN set and the next word popped suspect.
[DESIGN CHOICE, unsafe: log 57] -/
def execPush (p : HopName) (q : BitVec 14) (data : W64) (tag : Byte) (s : State) : Host.Outcome State Fault Refusal :=
  .next (
    if s.hopFull p q.toNat then
      (s.modHopQ p q.toNat (fun x => { x with overrun := true, suspect := true })).modHop (hopIndex p) (fun h =>
        { h with overrun := true })
    else
      let h := s.hop p
      let x := s.hopQ p q.toNat
      let l := tagPrio tag
      let w : HopWord := { cell := h.freeCell, bits := hopStore h.secded data tag x.pushed[l] }
      (s.modHopQ p q.toNat (fun x =>
        { x with lev := x.lev.set l (x.lev[l] ++ [w]), pushed := x.pushed.set l (x.pushed[l] + 1) })).hopWatermark p q.toNat
          x.depth)

-- ## Pop (R191, R196, R197)

/-- SOP of a stored word. -/
def HopWord.sop (w : HopWord) : Bool := w.bits.getLsbD 66
/-- EOP of a stored word. -/
def HopWord.eop (w : HopWord) : Bool := w.bits.getLsbD 67

/-- The head packet of a level is deliverable: its EOP word or CUT of its words are there (R197). -/
def levelReady (cut : Nat) (ws : List HopWord) : Bool :=
  match ws with
  | [] => false
  | _ => ws.any (·.eop) || (cut ≠ 0 && decide (cut ≤ ws.length))

/-- The level that a pop takes: that of the packet in progress, else the highest deliverable one (R196). -/
def HopQ.pick (x : HopQ) (cut : Nat) : Option (Fin 4) :=
  match x.lock with
  | some l => if x.lev[l].isEmpty then none else some l
  | none => [3, 2, 1, 0].find? (fun (l : Fin 4) => levelReady cut x.lev[l])

/-- A partition goes out of service, with its race or its tenant, and a fault event is raised (R200). -/
def State.partOut (s : State) (p : HopName) : State :=
  if (s.hop p).oos then s else
  let s := s.modHop (hopIndex p) (fun h => { h with oos := true })
  match p with
  | .race r => s.raceOut r
  | .tenant t =>
    if s.serves t then (s.raise t { cls := 0x08, flags := 4, part := 6, index := BitVec.ofNat 16 t.val }).tenantOut t
    else s.logEvent 0xFF { cls := 0x08, flags := 4, part := 6, index := BitVec.ofNat 16 t.val }
  | .device => s.logEvent 0xFF { cls := 0x08, flags := 4, part := 6, index := 8 }

/-- A cell in which an error was found: retired at its second, and a sixteenth retirement puts the partition out of
service, with its race or its tenant (R200). [DEDUCED, unsafe: log 59] -/
def State.cellError (s : State) (p : HopName) (cell : Nat) : State :=
  let h := s.hop p
  if !h.erred.contains cell then s.modHop (hopIndex p) (fun h => { h with erred := h.erred ++ [cell] })
  else if h.retired.contains cell then s
  else if h.retired.length < 15 then s.modHop (hopIndex p) (fun h => { h with retired := h.retired ++ [cell] })
  else s.partOut p

/-- A poisoned word was delivered: it is recorded, and outside the device partition the tenant's items of the tick are
cut and the recovery is due (R199, R200). [DEDUCED, unsafe: log 59] -/
def State.hopPoison (s : State) (p : HopName) (q cell : Nat) (seqErr : Bool) : State :=
  let s := s.modHop (hopIndex p) (fun h => { h with
    poison := true, lastQueue := BitVec.ofNat 14 q, lastCell := BitVec.ofNat 17 cell, seqErr := seqErr })
  let e : Event := { cls := 0x08, part := 6, detail := BitVec.ofNat 64 (q + cell * 2 ^ 14) }
  match p with
  | .device => s.logEvent 0xFF { e with index := 8 }
  | .race r =>
    let s := (s.raiseRace r e).modHop (hopIndex p) (fun h => { h with recover := true })
    (match s.owner r with
     | some t => s.cutTenant t
     | none => s)
  | .tenant t =>
    let e := { e with index := BitVec.ofNat 16 t.val }
    let s := s.modHop (hopIndex p) (fun h => { h with recover := true })
    if s.serves t then (s.raise t e).cutTenant t else s.logEvent 0xFF e

/-- Delivers the head word of a level. -/
def State.hopDeliver (s : State) (p : HopName) (q : Nat) (l : Fin 4) (w : HopWord) (rest : List HopWord) : State :=
  let h := s.hop p
  let x := s.hopQ p q
  let got := hopTake h.secded w.bits x.popped[l]
  let bad := x.suspect || (match got.2 with
    | .poison _ => true
    | _ => false)
  let tag := BitVec.ofNat 8 (fld got.1.toNat 64 8 ||| (if bad then 16 else 0))
  let s := s.modHopQ p q (fun x => { x with
    lev := x.lev.set l rest, popped := x.popped.set l (x.popped[l] + 1), suspect := false
    lock := if bitOf tag.toNat 3 then none else if bitOf tag.toNat 2 then some l else x.lock })
  let s := s.modHop (hopIndex p) (fun h => { h with out := (got.1.setWidth 64, tag) })
  match got.2 with
  | .poison seq => (s.cellError p w.cell).hopPoison p q w.cell seq
  | .corrected =>
    let s := (s.modHop (hopIndex p) (fun h => { h with eccCnt := satInc h.eccCnt })).cellError p w.cell
    if bad then s.hopPoison p q w.cell false else s
  | .good => if bad then s.hopPoison p q w.cell false else s

/-- POP: the word, or the idle item. [DESIGN CHOICE, unsafe: log 57] -/
def execPop (p : HopName) (q : BitVec 14) (s : State) : Host.Outcome State Fault Refusal :=
  .next (
    let x := s.hopQ p q.toNat
    match x.pick (s.hopQueue p q.toNat).2.2 with
    | none => s.modHop (hopIndex p) (fun h => { h with out := (0xFFFFFFFFFFFFFFFF#64, 0) })
    | some l =>
      match x.lev[l] with
      | [] => s
      | w :: rest => s.hopDeliver p q.toNat l w rest)

-- ## Resets and recovery (R190, R199, R201)

/-- A reset of a partition in a mode: every queue empty, counts at 0; watermark levels stay. -/
def HopPart.clear (h : HopPart) (secded : Bool) : HopPart :=
  { h with secded := secded, resetPend := false, recover := false,
           queues := h.queues.map (fun q => (q.1, { ({} : HopQ) with wmLevel := q.2.wmLevel })) }

/-- The partition's tenant is held (R201). [DEDUCED, unsafe: log 61] -/
def State.hopHeld (s : State) (p : HopName) : Bool :=
  match s.hopTenant p with
  | some t => s.tenantHeld t
  | none => true

/-- HOPPER_PARTITION_RESET: after a poisoned word in SECDED mode; by request once the tenant is held and every queue is
empty, in the mode of MODE_NEXT. [DEDUCED, unsafe: log 61] -/
def execHopperPartitionReset (p : HopName) (s : State) : Host.Outcome State Fault Refusal :=
  .next (
    let h := s.hop p
    if !s.boundary then s
    else if h.recover then s.modHop (hopIndex p) (fun h => { h.clear true with rebuild := true })
    else if h.resetPend && s.hopHeld p && h.queues.all (fun q => q.2.depth = 0) then
      s.modHop (hopIndex p) (fun h => h.clear h.modeNext)
    else s)

/-- Inserts a number into a rising list. -/
def insertNat (a : Nat) : List Nat → List Nat
  | [] => [a]
  | b :: rest => if a ≤ b then a :: b :: rest else b :: insertNat a rest

/-- A round's landing queues in ascending landing slot (R199). -/
def Round.sortQueues (r : Round) : Round :=
  { r with segs := r.segs.map (fun g => (g.1, { g.2 with queue := g.2.queue.foldr insertNat [] })) }

/-- QUEUE_REBUILD: in the execute phase after the reset; unaccepted descriptors go back to their rings, landing queues
list chunks in ascending slot, packets not placed are dropped and Weir recovers them. -/
def execQueueRebuild (p : HopName) (s : State) : Host.Outcome State Fault Refusal :=
  .next (
    if !(s.hop p).rebuild || s.tick.phase ≠ .execute then s else
    let s := s.modHop (hopIndex p) (fun h => { h with rebuild := false, recovered := true })
    match s.hopTenant p with
    | none => s
    | some t =>
      let s := s.giveBack t
      let s : State := { s with rounds := s.rounds.map (fun r => r.map (fun r => if r.tenant = t then r.sortQueues else r)) }
      match p with
      | .tenant _ => s.restartEntries t
      | _ => s)

/-- HOPPER_RESET_REQ. -/
def execHopperResetReq (p : HopName) (s : State) : Host.Outcome State Fault Refusal :=
  .next (s.modHop (hopIndex p) (fun h => { h with resetPend := true }))

/-- WM_ACK. -/
def execWmAck (p : HopName) (q : BitVec 14) (s : State) : Host.Outcome State Fault Refusal :=
  .next (s.modHopQ p q.toNat (fun x => { x with wmCnt := 0 }))

end Sys2Proof.Machine
end

