-- ==== Sys2Proof/Machine/LifeCycle.lean ====
section
/-! DEFINITION. The mailbox of the RTP and what it serves: the life cycle (R360 to R364), flock keys and certificates
(R359), firmware (R375), the release of generation cells (R370), and the RTP's restarts (R355). -/

namespace Sys2Proof.Machine

-- ## Records

/-- Writes the copy of the life-cycle record that is not in force (R358). -/
def Sec.writeLc (c : Sec) (f : LcCopy → LcCopy) : Sec :=
  match c.lc with
  | none => c
  | some now =>
    let new : LcCopy := { f now with gen := now.gen + 1, valid := true }
    if c.lcA = now then { c with lcB := new } else { c with lcA := new }

/-- Writes the copy of a persistent slot that is not in force; with no valid copy, copy A (R358). -/
def Sec.writeSlot (c : Sec) (i : Nat) (f : SlotCopy → SlotCopy) : Sec :=
  let pair : SlotCopy × SlotCopy := sget c.slots i ({}, { valid := false })
  match slotInForce pair with
  | some now =>
    let new : SlotCopy := { f now with gen := now.gen + 1, valid := true }
    { c with slots := sset c.slots i (if pair.1 = now then (pair.1, new) else (new, pair.2)) }
  | none => { c with slots := sset c.slots i ({ f {} with gen := 1, valid := true }, pair.2) }

/-- Writes a slot as empty, of a class. -/
def Sec.emptySlot (c : Sec) (i : Nat) : Sec :=
  c.writeSlot i (fun x => { gen := x.gen })

/-- The minimum security versions in force. -/
def Sec.svn (c : Sec) : Option SvnCopy :=
  if c.svnA.valid && (!c.svnB.valid || decide (c.svnB.gen.toNat ≤ c.svnA.gen.toNat)) then some c.svnA
  else if c.svnB.valid then some c.svnB else none

/-- Writes the copy of the minimum versions that is not in force. -/
def Sec.writeSvn (c : Sec) (f : Vector W32 4 → Vector W32 4) : Sec :=
  match c.svn with
  | none => c
  | some now =>
    let new : SvnCopy := { valid := true, gen := now.gen + 1, svn := f now.svn }
    if c.svnA = now then { c with svnB := new } else { c with svnA := new }

/-- Writes the root record's other copy. -/
def Sec.writeRoot (c : Sec) (secret : BitVec 256) : Sec :=
  match c.root with
  | some now =>
    let new : RootCopy := { valid := true, gen := now.gen + 1, epoch := c.epoch, secret := secret }
    if c.rootA = now then { c with rootB := new } else { c with rootA := new }
  | none => { c with rootA := { valid := true, gen := 1, epoch := c.epoch, secret := secret } }

/-- The 256 bytes of the life-cycle record in force (Table 14-4). -/
def Sec.lcBytes (c : Sec) (x : LcCopy) : List Byte :=
  let body := bytesLE 4 0x4359434C ++ [x.state.setWidth 8, BitVec.ofNat 8 (b2n x.wipe + 2 * b2n x.rootPend + 4 * b2n x.keygen),
    0, 0] ++ bytesLE 8 x.gen.toNat ++ bytesLE 4 x.epoch.toNat ++ bytesLE 4 x.transitions.toNat ++ List.replicate 168 0
  body ++ bytesLE 64 (Config.mramMac (if c.lcA = x then 0 else 0x100) body).toNat

/-- Every tenant is Free (R360). -/
def State.allFree (s : State) : Bool := allTenants.all (fun t => s.tenants[t].state = .free)

-- ## Purges and locks (R355, R361, R378)

/-- Every volatile slot and every engine key is purged. -/
def State.purgeKeys (s : State) : State :=
  let s := forEach allTenants s (fun s t => s.modTenant t (fun x => { x with keys := [], purge := [] }))
  forEach allRaces s (fun s r => s.modRace r (fun x => { x with engine := [] }))

/-- The security subsystem locks until the next power-on (R355). -/
def State.lockSecurity (s : State) : State :=
  ((s.purgeKeys.modSec (fun c => { c with locked := true }))).raiseAll { cls := 0x33 }

/-- The RTP restarts: jobs in progress will end LATE (R355, R378). -/
def State.rtpRestart (s : State) : State :=
  let s := s.modSec (fun c => { c with restarts := satInc c.restarts })
  let s := forEach allTenants s (fun s t => s.modTenant t (fun x => { x with job := x.job.map (fun j => { j with late := true }) }))
  s.raiseAll { cls := 0x32, detail := s.sec.restarts.setWidth 64 }

/-- RTP_WATCHDOG. [DEDUCED, unsafe: log 113] -/
def execRtpWatchdog (thirdInOneSecond : Bool) (s : State) : Host.Outcome State Fault Refusal :=
  .next (let s := s.rtpRestart
    if thirdInOneSecond && !s.sec.locked then s.lockSecurity else s)

-- ## Transitions (R361)

/-- Step 2: volatile slots and engine keys are purged, state and working slots written empty, every cell freed at
counter 0; for Umber the identity slots and every other record are erased. [DEDUCED, unsafe: log 111] -/
def State.wipe (s : State) : State :=
  let s := s.purgeKeys
  let umber := s.sec.state = 3
  let slots := (List.range 40).filter (fun i => umber || decide (3 ≤ i))
  s.modSec (fun c =>
    let c := slots.foldl (fun c i => c.emptySlot i) c
    let c := (c.cells.map (·.1)).foldl (fun c i => c.writeCell i (fun x => { x with tag := 0, counter := 0 })) c
    if umber then { c with rootA := {}, rootB := {}, svnA := {}, svnB := {} } else c)

/-- Step 1, with which the transition takes effect, and step 2 after it. -/
def State.transition (s : State) (goal : BitVec 2) : State :=
  let s := s.modSec (fun c => c.writeLc (fun x => { x with
    state := goal, wipe := true, rootPend := goal = 1 && c.root.isNone, keygen := goal = 1 || goal = 2
    epoch := if goal = 1 then x.epoch + 1 else x.epoch, transitions := x.transitions + 1 }))
  -- the raw bits of R363 are collected from here
  (s.wipe).modRng (fun g => { g with vanes := g.vanes.map (fun v => { v with raw := [] }) })

/-- The vanes that step 3 reads: in service and within their limits (R363). -/
def Rng.eligible (g : Rng) : List Vane := g.vanes.toList.filter (fun v => v.state = 2 && v.inLimits)

/-- Step 3: the root secret, once every eligible vane has given two blocks; none while it waits. -/
def State.makeRoot (s : State) : Option State :=
  match s.sec.lc with
  | none => none
  | some x =>
    if !x.rootPend then some s else
    let vs := s.rng.eligible
    if s.rng.fatal || vs.isEmpty || vs.any (fun v => v.raw.length < 2) then none
    else
      let bits := vs.flatMap (fun v => v.raw.flatMap (fun b => bytesLE 128 b.toNat))
      some (s.modSec (fun c => c.writeRoot (BitVec.ofNat 256 (natLE ((sha512 bits).take 32)))))

/-- The device's DRBG serves (R388, R392). [DEDUCED, unsafe: log 116] -/
def State.drbgServes (s : State) : Bool := !s.rng.fatal && !s.rng.rawActive && s.rng.drbgs[8].on

/-- Step 4: attestation key, its certificate, management key (R359). [DESIGN CHOICE, safe: log 11] -/
def State.makeKeys (s : State) : State :=
  match s.sec.lc with
  | none => s
  | some x =>
    if !x.keygen then s else
    s.modSec (fun c =>
      let n := c.draws
      let key : List Byte := Config.rsaKeyBody n
      let put (c : Sec) (i : Nat) (kind : Byte) (body : List Byte) : Sec :=
        c.writeSlot i (fun y => { gen := y.gen, cls := 2, kind := kind, epoch := x.epoch, body := body })
      let c := put c 3 1 key
      let c := put c 4 2 (Config.certificate (n + 1) (bytesAt key 0 512))
      let c := put c 5 1 (Config.rsaKeyBody (n + 2))
      { c with draws := n + 3 })

/-- Steps 3 to 5; none while step 3 or the key generation waits. [DEDUCED, unsafe: log 111] -/
def State.completeTransition (s : State) : Option State :=
  match s.makeRoot with
  | none => none
  | some s =>
    let needs := match s.sec.lc with
      | some x => x.keygen
      | none => false
    if needs && !s.drbgServes then none
    else some (s.makeKeys.modSec (fun c => c.writeLc (fun x => { x with wipe := false, rootPend := false, keygen := false })))

-- ## Mailbox commands

/-- A command's answer. [DEDUCED, unsafe: log 112] -/
def Sec.answer (c : Sec) (result : Byte) (rsp : List Byte) : Sec :=
  if c.asker.isSome then { c with served := true, opRsp := result :: rsp }
  else { c with served := true, result := result, rsp := rsp, rspLen := BitVec.ofNat 16 rsp.length }

/-- Bytes of the arguments: of an operator's command, those that its message carries. [DEDUCED, unsafe: log 108] -/
def Sec.argBytes (c : Sec) (off n : Nat) : List Byte :=
  if c.asker.isSome then bytesAt c.opArg off n else
  (List.range n).map (fun i => BitVec.ofNat 8 (fld (sget c.arg ((off + i) / 4) 0).toNat (8 * ((off + i) % 4)) 8))

/-- Keeps an answer. -/
def State.mbxAnswer (s : State) (result : Byte) (rsp : List Byte) : State := s.modSec (fun c => c.answer result rsp)

/-- A command other than LC_QUERY while a transition completes, or one that changes keys while locked (R361, R355).
[DEDUCED, unsafe: log 109] -/
def State.mbxGate (s : State) (code : Byte) : Option Byte :=
  if code = 1 then none
  else if s.sec.pending then some 0x85
  else if s.sec.locked && code ≠ 0x12 && code ≠ 0x20 then some 0x87 else none

/-- A transition begins, or is refused: the state it leaves, then BUSY (R360). [DEDUCED, unsafe: log 109] -/
def State.mbxTransition (s : State) (source : List Nat) (goal : BitVec 2) : State :=
  if !source.contains s.sec.state then s.mbxAnswer 0x85 []
  else if !s.allFree then s.mbxAnswer 0x8B []
  else s.transition goal

/-- The text that an unlock token signs (R364). -/
def State.unlockText (s : State) (challenge : BitVec 256) : List Byte :=
  bytesBE 32 challenge.toNat ++ (sha512 s.identityModulus).take 16 ++ [2]

/-- LC_UNLOCK: the challenge serves once. [DEDUCED, unsafe: log 109] -/
def State.mbxUnlock (s : State) : State :=
  if s.sec.state ≠ 0 && s.sec.state ≠ 1 then s.mbxAnswer 0x85 []
  else if !s.allFree then s.mbxAnswer 0x8B []
  else
    let good := match s.sec.challenge with
      | some c => pssVerify Config.lifeCycleModulus 65537 (s.unlockText c) (s.sec.argBytes 0 512)
      | none => false
    let s := s.modSec (fun c => { c with challenge := none })
    if good then s.transition 2 else s.mbxAnswer 0x82 []

/-- LC_UNLOCK_CHALLENGE: it waits while the DRBG cannot serve (R392, R393). -/
def State.mbxChallenge (s : State) : State :=
  if s.rng.fatal then s.mbxAnswer 0x8C [] else
  match s.drawDevice 32 with
  | (s, none) => s
  | (s, some bs) => (s.modSec (fun c => { c with challenge := some (BitVec.ofNat 256 (natBE bs)) })).mbxAnswer 0 bs

/-- LC_RETIRE takes effect at once; tenants in service receive KEYS_PURGED, and running key and package items end with
LIFE_CYCLE (R360, R378). [DEDUCED, unsafe: log 109] -/
def State.mbxRetire (s : State) : State :=
  if s.sec.state = 3 || natLE (s.sec.argBytes 0 4) ≠ 0x52424D55 then s.mbxAnswer 0x85 []
  else
    let s := (s.transition 3).raiseAll { cls := 0x30 }
    forEach (s.tick.items.filter (fun i => i.live && i.kind = .desc && decide (0x80 ≤ dOp i.line) && decide (dOp i.line < 0x8A)))
      s (fun s i => s.stopItem i.id 0x85)

/-- FLOCK_CREATE: a new RSA key into an empty flock slot (R359). Arguments: slot, FLOCK_ID.
[DESIGN CHOICE, safe: log 11; DEDUCED, unsafe: log 108] -/
def State.mbxFlockCreate (s : State) : State :=
  let f := natLE (s.sec.argBytes 0 4)
  if s.sec.state = 0 || s.sec.state = 3 then s.mbxAnswer 0x85 []
  else if s.rng.fatal then s.mbxAnswer 0x8C []
  else if 32 ≤ f then s.mbxAnswer 0x80 []
  else match s.sec.slot (8 + f) with
    | none => s.mbxAnswer 0x82 []
    | some x =>
      if x.cls ≠ 0 then s.mbxAnswer 0x80 []
      else if !s.drbgServes then s
      else
        let body : List Byte := Config.rsaKeyBody s.sec.draws
        let put : SlotCopy → SlotCopy := fun y =>
          { gen := y.gen, cls := 3, kind := 1, epoch := s.sec.epoch, label := BitVec.ofNat 64 (natLE (s.sec.argBytes 4 8)),
            body := body }
        (s.modSec (fun c => { c.writeSlot (8 + f) put with draws := c.draws + 1 })).mbxAnswer 0
          (bytesAt body 0 512 ++ memberId body)

/-- FLOCK_DELETE. -/
def State.mbxFlockDelete (s : State) : State :=
  let f := natLE (s.sec.argBytes 0 4)
  if 32 ≤ f then s.mbxAnswer 0x80 []
  else match s.sec.slot (8 + f) with
    | none => s.mbxAnswer 0x82 []
    | some x => if x.cls = 0 then s.mbxAnswer 0x80 [] else (s.modSec (fun c => c.emptySlot (8 + f))).mbxAnswer 0 []

/-- IDENTITY_GET: the certificates of slots 4, 1 and 2. -/
def State.mbxIdentity (s : State) : State :=
  let xs := [4, 1, 2].map (fun i => s.sec.slot i)
  if xs.any (·.isNone) then s.mbxAnswer 0x82 []
  else s.mbxAnswer 0 (xs.flatMap (fun x => match x with
    | some y => y.body
    | none => []))

/-- CELL_RELEASE: every cell that bears the tag is freed with its counter raised; its children are purged at the next
commit of the tenants that hold them. -/
def State.mbxCellRelease (s : State) : State :=
  let tag := BitVec.ofNat 64 (natLE (s.sec.argBytes 0 8))
  let cells := (s.sec.cells.map (·.1)).filter (fun i => (s.sec.cell i).tag = tag && tag ≠ 0)
  let s := s.modSec (fun c => cells.foldl (fun c i => c.writeCell i (fun x => { x with tag := 0, counter := x.counter + 1 })) c)
  let s := forEach (allTenants.filter (fun t => s.serves t && s.cellTag t = tag)) s (fun s t =>
    s.modTenant t (fun x => { x with purge := x.purge ++ cells.map (fun i => (i, true)) }))
  s.mbxAnswer 0 []

-- Firmware (R375)

/-- What a firmware package gives: component, version, digest of its body; none where a condition of R375 fails.
[DEDUCED, unsafe: log 110] -/
def State.fwCheck (s : State) (p : List Byte) : Except Byte (Fin 4 × Fw) :=
  let body := bytesAt p 4096 (leAt p 0x18 8)
  if leAt p 0 4 ≠ 0x4B474B50 || leAt p 4 2 ≠ 1 || leAt p 6 1 ≠ 2 || leAt p 0xC 2 ≠ 0 || 4 ≤ leAt p 7 1 then .error 0x82
  else if sha512 (bytesAt p 0x100 512) ≠ Config.firmwareKeyDigest then .error 0x8A
  else if !pkgSigned p 0 || sha512 body ≠ bytesAt p 0x40 64 then .error 0x82
  else
    let c : Fin 4 := Fin.ofNat 4 (leAt p 7 1)
    let min := match s.sec.svn with
      | some x => (x.svn[c]).toNat
      | none => 0
    if leAt p 8 4 < min then .error 0x82
    else .ok (c, { svn := BitVec.ofNat 32 (leAt p 8 4), digest := BitVec.ofNat 512 (natLE (sha512 body)) })

/-- FW_LOAD of a package read from host memory; argument bit 0 at offset 16 is COMMIT_SVN. -/
def State.mbxFw (s : State) (p : List Byte) : State :=
  match s.fwCheck p with
  | .error st => s.mbxAnswer st []
  | .ok (c, f) =>
    let raise := bitOf (natLE (s.sec.argBytes 16 4)) 0
    (s.modSec (fun x =>
      let x := if raise then x.writeSvn (fun v => v.set c f.svn) else x
      { x with fwNext := (x.fwNext.filter (fun q => q.1 ≠ c.val)) ++ [(c.val, f)] })).mbxAnswer 0 []

/-- Puts the accepted package of a component in force. [DEDUCED, unsafe: log 110] -/
def State.fwApply (s : State) (c : Fin 4) : State :=
  match sget? s.sec.fwNext c.val with
  | some f => s.modSec (fun x => { x with fw := x.fw.set c f, fwNext := x.fwNext.filter (fun q => q.1 ≠ c.val) })
  | none => s

/-- The MGC restarts: every session closes and unanswered requests are discarded; what the device owns stays (R421). -/
def State.mgcRestart (s : State) : State :=
  let s := (s.closeSessions (fun _ => true)).modMgmt (fun g => { g with restarts := satInc g.restarts })
  s.logEvent 0xFF { cls := 0x44 }

/-- Packages that may take effect now: the RTP's while every tenant is Free, the MGC's at once (R375).
[DEDUCED, unsafe: log 110] -/
def State.settleFw (s : State) : State :=
  let s := if (sget? s.sec.fwNext 0).isSome && s.allFree then (s.fwApply 0).rtpRestart else s
  if (sget? s.sec.fwNext 1).isSome then (s.fwApply 1).mgcRestart else s

-- Serving

/-- Serves the command in the mailbox; one that must wait leaves `served` clear. `host` is what the RTP reads. -/
def State.mbxServe (s : State) (host : List Byte) : State :=
  match s.mbxGate s.sec.code with
  | some st => s.mbxAnswer st []
  | none =>
    match s.sec.code.toNat with
    | 0x01 => (match s.sec.lc with
      | some x => s.mbxAnswer 0 (s.sec.lcBytes x)
      | none => s.mbxAnswer 0x85 [])
    | 0x02 => s.mbxTransition [0] 1
    | 0x03 => s.mbxChallenge
    | 0x04 => s.mbxUnlock
    | 0x05 => s.mbxTransition [2] 1
    | 0x06 => s.mbxRetire
    | 0x10 => s.mbxFlockCreate
    | 0x11 => s.mbxFlockDelete
    | 0x12 => s.mbxIdentity
    | 0x20 => s.mbxFw host
    | 0x21 => s.mbxCellRelease
    | _ => s.mbxAnswer 0x85 []

/-- A command arrives in the mailbox: ignored with MBX_ERR while one runs (R379). [DEDUCED, unsafe: log 108] -/
def State.mbxStart (s : State) (code : Byte) (host : List Byte) : State :=
  if s.sec.busy then (s.modSec (fun c => { c with err := true })).writeErr 0x800800
  else (s.modSec (fun c => { c with busy := true, code := code, served := false, asker := none })).mbxServe host

/-- The host's write of FW_LOAD's code: the RTP then reads the package from host memory, which the FW_LOAD command brings. -/
def State.mbxFwWaits (s : State) : Bool := s.sec.busy && s.sec.code = 0x20 && !s.sec.served && s.sec.asker.isNone

/-- A write of ATT_MBX_CMD; the package of an FW_LOAD arrives with its own command. -/
def State.mbxWrite (s : State) (code : Byte) : State :=
  if code = 0x20 && !s.sec.busy && (s.mbxGate code).isNone then
    s.modSec (fun c => { c with busy := true, code := code, served := false, asker := none })
  else s.mbxStart code []

/-- The command in progress ends. -/
def State.mbxDone (s : State) : State :=
  let r := s.sec
  let s := s.modSec (fun c => { c with busy := false, done := c.done || c.asker.isNone, served := false, asker := none })
  let s := match r.asker with
    | some q => s.reply q 0x40 0 r.opRsp
    | none => s
  s.settleFw

/-- MBX_COMMAND_END (R361, R379, R393): a waiting command is served, a pending transition completed. -/
def execMbxCommandEnd (s : State) : Host.Outcome State Fault Refusal :=
  .next (
    if s.sec.pending then
      match s.completeTransition with
      | some s => if s.sec.busy then (if s.sec.served then s else s.mbxAnswer 0 []).mbxDone else s
      | none => if s.sec.busy && s.rng.fatal then (s.mbxAnswer 0x8C []).mbxDone else s
    else if !s.sec.busy || s.mbxFwWaits then s
    else
      let s := if s.sec.served then s else s.mbxServe []
      if s.sec.served then s.mbxDone else s)

/-- LC_QUERY. -/
def execLcQuery (s : State) : Host.Outcome State Fault Refusal := .next (s.mbxStart 0x01 [])
/-- LC_SEAL. -/
def execLcSeal (s : State) : Host.Outcome State Fault Refusal := .next (s.mbxStart 0x02 [])
/-- LC_UNLOCK_CHALLENGE. -/
def execLcUnlockChallenge (s : State) : Host.Outcome State Fault Refusal := .next (s.mbxStart 0x03 [])
/-- LC_UNLOCK. -/
def execLcUnlock (s : State) : Host.Outcome State Fault Refusal := .next (s.mbxStart 0x04 [])
/-- LC_RESEAL. -/
def execLcReseal (s : State) : Host.Outcome State Fault Refusal := .next (s.mbxStart 0x05 [])
/-- LC_RETIRE. -/
def execLcRetire (s : State) : Host.Outcome State Fault Refusal := .next (s.mbxStart 0x06 [])
/-- FLOCK_CREATE. -/
def execFlockCreate (s : State) : Host.Outcome State Fault Refusal := .next (s.mbxStart 0x10 [])
/-- FLOCK_DELETE. -/
def execFlockDelete (s : State) : Host.Outcome State Fault Refusal := .next (s.mbxStart 0x11 [])
/-- IDENTITY_GET. -/
def execIdentityGet (s : State) : Host.Outcome State Fault Refusal := .next (s.mbxStart 0x12 [])
/-- FW_LOAD; `host` is the package as the RTP reads it. -/
def execFwLoad (host : List Byte) (s : State) : Host.Outcome State Fault Refusal :=
  .next (if s.mbxFwWaits then s.mbxServe host else s.mbxStart 0x20 host)
/-- CELL_RELEASE. -/
def execCellRelease (s : State) : Host.Outcome State Fault Refusal := .next (s.mbxStart 0x21 [])

end Sys2Proof.Machine
end

