-- ==== Sys2Proof/Machine/Tenants.lean ====
section
/-! DEFINITION. Tenants: set-up, entry into service, release, the end of a tenant's activities, and the scrub (R341 to R347). -/

namespace Sys2Proof.Machine

-- ## The checks of Table 13-3

/-- The races of a mask are contiguous on the leat (R25). -/
def contiguous (races : Byte) : Bool :=
  races ≠ 0 && decide ((allRaces.filter (fun r => races.getLsbD r.val && !races.getLsbD ((r.val + 1) % 8))).length ≤ 1)

/-- A race is marked under debug (R352). -/
def State.underDebug (s : State) (r : RaceId) : Bool :=
  s.mgmt.engaged.getLsbD r.val || allTenants.any (fun t => s.tenants[t].debugRaces.getLsbD r.val)

/-- Sum of a quota over the tenants that are not Free. -/
def State.quota (s : State) (f : Tenant → Nat) : Nat :=
  ((allTenants.filter (fun t => s.tenants[t].state ≠ .free)).map (fun t => f s.tenants[t])).sum

/-- Another tenant that owns its resources (R343). -/
def State.otherOwners (s : State) (t : TenantId) : List Tenant :=
  (allTenants.filter (fun u => u ≠ t && s.tenants[u].state.owns)).map (fun u => s.tenants[u])

/-- The code of the first check of Table 13-3 that fails for an ACTIVATE, 0 where none does. [DEDUCED, unsafe: log 96] -/
def State.setupCheck (s : State) (t : TenantId) : Nat :=
  let x := s.tenants[t]
  let others := s.otherOwners t
  if !contiguous x.races then 1
  else if (s.racesOf t).any (fun r => ((s.owner r).isSome && s.owner r ≠ some t) || s.races[r].oos || s.underDebug r) then 2
  else if 262144 < x.ctxBase.toNat + x.ctxCount.toNat ||
     others.any (fun u => overlaps x.ctxBase.toNat x.ctxCount.toNat u.ctxBase.toNat u.ctxCount.toNat) then 3
  else if 96 < x.draftBase.toNat + x.draftSize.toNat ||
     others.any (fun u => overlaps x.draftBase.toNat x.draftSize.toNat u.draftBase.toNat u.draftSize.toNat) then 4
  else if 16 < x.rounds.toNat || 64 < s.quota (fun u => u.rounds.toNat) || 1024 < s.quota (fun u => u.keySlots.toNat) ||
     1024 < s.quota (fun u => u.cells.toNat) then 5
  else if x.state ≠ .configured then 6
  else if (s.hop (.tenant t)).oos then 8 else 0

/-- Address of MGT_TEN_CTRL. -/
def tenCtrl (t : TenantId) : Nat := 0x1008 + t.val * 0x20

/-- Records a refused ACTIVATE or RELEASE (R343). -/
def State.setupRefused (s : State) (t : TenantId) (code : Nat) : State :=
  (s.modTenant t (fun x => { x with setupErr := BitVec.ofNat 4 code })).writeErr (tenCtrl t)

/-- The hopper partitions of a tenant are reset with MODE_NEXT (R343, Table 13-4). -/
def State.clearHops (s : State) (t : TenantId) : State :=
  forEach ((s.racesOf t).map HopName.race ++ [.tenant t]) s (fun s p => s.modHop (hopIndex p) (fun h => h.clear h.modeNext))

/-- Entry into In service (R343): partitions reset, DRBG instance instantiated (R388). -/
def State.enterService (s : State) (t : TenantId) : State :=
  ((s.modTenant t (fun x => { x with state := .inService, activating := false, ending := false })).clearHops t).feedDrbgs

/-- A tenant activated enters In service, or stays Configured where the checks now fail. -/
def State.tryService (s : State) (t : TenantId) : State :=
  let code := s.setupCheck t
  if code = 0 then s.enterService t
  else s.modTenant t (fun x => { x with activating := false, setupErr := BitVec.ofNat 4 code })

/-- ACTIVATE. [DEDUCED, unsafe: log 96] -/
def State.activate (s : State) (t : TenantId) : State :=
  let code := s.setupCheck t
  if code ≠ 0 then s.setupRefused t code
  else if s.tick.running then s.modTenant t (fun x => { x with activating := true })
  else s.enterService t

/-- ACTIVATE. -/
def execActivate (t : TenantId) (s : State) : Host.Outcome State Fault Refusal := .next (s.activate t)

/-- IN_SERVICE: at a tick boundary the activated tenants are checked again in ascending order. -/
def execInService (s : State) : Host.Outcome State Fault Refusal :=
  .next (if !s.boundary then s else
    forEach allTenants s (fun s t => if s.tenants[t].activating then s.tryService t else s))

-- ## Release (R344)

/-- RELEASE. [DEDUCED, unsafe: log 97] -/
def State.release (s : State) (t : TenantId) (force : Bool) : State :=
  match s.tenants[t].state with
  | .inService =>
    if !s.holding t then s.setupRefused t 7 else s.modTenant t (fun x => { x with state := .releasing, force := force })
  | .outOfService =>
    s.modTenant t (fun x => { x with state := .scrubbing, force := force, ending := true, permille := 0 })
  | _ => s.setupRefused t 6

/-- RELEASE. -/
def execRelease (t : TenantId) (force : Bool) (s : State) : Host.Outcome State Fault Refusal := .next (s.release t force)

/-- EMPTY of a completion ring: no record is staged or held (Table 10-21). -/
def CompRing.empty (c : CompRing) : Bool := c.staged.isEmpty && c.flying.isEmpty && c.held = 0

/-- Releasing ends at this commit. -/
def State.releaseDue (s : State) (t : TenantId) : Bool :=
  let x := s.tenants[t]
  s.boundary &&
    ((x.state = .releasing && s.tenantHeld t && (x.force || s.races[(s.lowest t)].crings.toList.all CompRing.empty)) ||
     (x.state = .scrubbing && x.ending))

/-- The Weir state of a tenant number is empty; messages of earlier epochs will be answered STALE (R304). -/
def State.emptyWeir (s : State) (t : TenantId) (keepSends : Bool) : State :=
  s.modWeir t (fun w => { w with
    reasm := [], dups := [], unclaim := [], sends := if keepSends then w.sends else [], resetEpoch := some s.net.epoch })

/-- Saturating sum in 16 bits. -/
def satAdd16 (a : W16) (n : Nat) : W16 := BitVec.ofNat 16 (min 65535 (a.toNat + n))

/-- The end of a tenant's activities (R345). [DEDUCED, unsafe: log 97; DEDUCED, unsafe: log 100] -/
def State.endTenant (s : State) (t : TenantId) : State :=
  let low := s.lowest t
  -- windows, rounds, sessions
  let s := forEach (s.tenants[t].weir.windows.filter (fun w => w.2.revoked.isNone)) s (fun s w => s.revokeWindow t w.1)
  let s := s.modWeir t (fun w => { w with windows := w.windows.map (fun p => (p.1, { p.2 with pending := none })) })
  let s := forEach (List.finRange 64) s (fun s k => match s.rounds[k] with
    | some r => if r.tenant = t then s.closeRound k else s
    | none => s)
  let mine := s.ctxs.filterMap (fun c => match c.2 with
    | .session x => if x.tenant = t then some (c.1, x) else none
    | .part _ => none)
  let s := forEach mine s (fun s c => s.zeroSpans ((s.racesOf t).map (fun r => c.2.block r 0 16384)))
  let s : State := { s with ctxs := s.ctxs.filter (fun c => !mine.any (fun m => m.1 = c.1)) }
  -- items, records and descriptors
  let s := forEach (s.tick.items.filter (fun i => i.tenant = t)) s (fun s i => s.freeMills i.id)
  let s := s.modTick (fun k => { k with items := k.items.filter (fun i => i.tenant ≠ t) })
  let lost := (s.races[low].crings.toList.map (fun c => c.staged.length)).sum
  let s := s.modRace low (fun r => { r with crings := r.crings.map (fun c => { c with staged := [], held := 0 }) })
  let s := s.modTenant t (fun x => { x with
    discarded := if x.force then satAdd16 x.discarded lost else x.discarded, descs := [], keys := [], purge := [], models := [], wsets := [], packages := []
    values := [], job := none, cursor := 0, classCancel := 0
    state := .scrubbing, ending := false, permille := 0, force := false })
  -- link cache, Weir state, DRBG instance
  let s := s.modLink (fun l => { l with
    cache := l.cache.set t [], once := l.once.set t []
    reqs := l.reqs.map (fun q => match q.2 with
      | .ringRead u w a _ => if u = t then (q.1, .ringRead u w a false) else q
      | _ => q) })
  let s := s.modRng (fun g => { g with drbgs := g.drbgs.set (Fin.ofNat 9 t.val) {} })
  s.emptyWeir t false

/-- RELEASING_END. [DEDUCED, unsafe: log 97] -/
def execReleasingEnd (t : TenantId) (s : State) : Host.Outcome State Fault Refusal :=
  .next (if s.releaseDue t then s.endTenant t else s)

-- ## The scrub (R345, Table 13-4)

/-- The on-die stores of a race, zero-filled: scratchpads, race buffer, seed slots, program stores and tables.
[DEDUCED, unsafe: log 99] -/
def State.scrubRace (s : State) (r : RaceId) : State :=
  let s : State := { s with mem := memZero (memZero s.mem (scratchAddr r 0 0) (25 * 2 ^ 21)) (bufferAddr r 0) (2 ^ 24) }
  s.modRace r (fun x => { x with engine := [], mills := Vector.replicate 24 {} })

/-- The memory of a race, zero-filled: tier A, and tier B up to the health records. [DEDUCED, unsafe: log 99] -/
def State.scrubMemory (s : State) (r : RaceId) : State :=
  s.zeroSpans [{ race := r, tierB := true, off := 0, len := 195 * gib }, { race := r, tierB := false, off := 0, len := 64 * gib }]

/-- TENANT_SCRUB: every resource of Table 13-4. -/
def execTenantScrub (t : TenantId) (s : State) : Host.Outcome State Fault Refusal :=
  .next (
    let x := s.tenants[t]
    if x.state ≠ .scrubbing || x.ending || !s.boundary then s else
    let s := forEach (s.racesOf t) s (fun s r => (s.scrubRace r).scrubMemory r)
    let s := s.clearHops t
    let inCtx (c : Nat) : Bool := decide (x.ctxBase.toNat ≤ c) && decide (c < x.ctxBase.toNat + x.ctxCount.toNat)
    let s : State := { s with
      ctxs := s.ctxs.filter (fun c => !inCtx c.1)
      mem := memZero s.mem (draftAddr (x.draftBase.toNat * mib)) (x.draftSize.toNat * mib) }
    (s.modJnl t (fun j => { j with log := [], events := [], marker := false })).modTenant t (fun x =>
      { x with permille := 1000 }))

/-- SCRUB_DONE: the tenant is Free and its races have no tenant. [DEDUCED, unsafe: log 99] -/
def execScrubDone (t : TenantId) (s : State) : Host.Outcome State Fault Refusal :=
  .next (
    let x := s.tenants[t]
    if x.state ≠ .scrubbing || x.permille ≠ 1000 then s else
    (s.modTenant t (fun x => { x with
      state := .free, races := 0, scrubDone := true, debugRaces := x.debugRaces &&& s.mgmt.engaged })).settleFw)

/-- OUT_OF_SERVICE: a race, or a tenant's device hopper partition, goes out of service, and its tenant with it. -/
def execOutOfService (p : HopName) (s : State) : Host.Outcome State Fault Refusal :=
  .next (match p with
    | .race r => s.raceOut r
    | _ => s.partOut p)

end Sys2Proof.Machine
end

