-- ==== Sys2Proof/Machine/Recover.lean ====
section
/-! DEFINITION. The race reset, and the recovery of a tenant that both kinds of reset share (R331, R332, Table 12-8). -/

namespace Sys2Proof.Machine

/-- A mill's sequencer and mover as re-initialised; images, banks, seed slots and the scratchpad are kept. -/
def Mill.reinit (m : Mill) : Mill :=
  { m with
    item := none, ended := false, halted := false, pc := 0, loops := [], late := [], bar := none
    s := Vector.replicate 16 0, t := Vector.replicate 16 0, lc := Vector.replicate 4 0, tags := Vector.replicate 16 none }

/-- A race's own part of a reset: a running test ends ABORTED (Table 17-10), sequencers and movers, an armed test flip, and
the race hopper in SECDED mode. -/
def State.resetRace (s : State) (r : RaceId) : State :=
  ((s.abortTest r.val).modRace r (fun x => { x with
    mills := x.mills.map Mill.reinit, resetReq := false, mem := { x.mem with arm := false } })).modHop (hopIndex (.race r))
      (fun h => { h.clear true with rebuild := false })

/-- The Weir state that a reset empties: reassembly, duplicate window, and sends that no commit carries (R304, R331). -/
def State.resetWeir (s : State) (t : TenantId) : State :=
  let s := (forEach s.tenants[t].weir.reasm s (fun s e => s.dropReasm t e)).clearClaims t
  (s.emptyWeir t true).modWeir t (fun w => { w with sends := w.sends.filter (·.committed) })

/-- Resends the journaled messages that are not complete, under their own IDs and epochs (R332). -/
def State.resendAll (s : State) (t : TenantId) : State :=
  forEach (s.tenants[t].weir.sends.filter (fun m => !m.done)) s (fun s m => s.resend t m.seq m.missing)

/-- Recovery of a tenant's journal (Table 12-8): the log is applied, landing queues are rebuilt in ascending slot, and
unaccepted descriptors will be read again. A tenant without a valid marker, or whose lowest race is out of service, is put
out of service. See R312, R313, R325, R326. [DEDUCED, unsafe: log 41] -/
def State.recoverTenant (s : State) (t : TenantId) : State :=
  let s := (s.cutTenant t).giveBack t
  let s := s.applyLog t
  let s : State := { s with rounds := s.rounds.map (fun r => r.map (fun r => if r.tenant = t then r.sortQueues else r)) }
  if s.serves t && (s.tenants[t].jnl.log.isEmpty || s.races[(s.lowest t)].oos) then
    let s : State := { (s.tenantOut t) with recoverErr := true }
    s.raise t { cls := 0x03, flags := 4, race := BitVec.ofNat 8 (s.lowest t).val }
  else s

/-- A reset of every race of a tenant, with its recovery (R331, R332). -/
def State.resetTenant (s : State) (t : TenantId) : State :=
  let s := forEach (s.racesOf t) s State.resetRace
  let s := s.modHop (hopIndex (.tenant t)) (fun h => { h.clear true with rebuild := false })
  let s := s.modLink (fun l => { l with cache := l.cache.set t [], once := l.once.set t [] })
  let s := (s.resetWeir t).recoverTenant t
  let s := s.modTenant t (fun x => { x with permille := if x.state = .scrubbing then 0 else x.permille })
  s.resendAll t

/-- The race reset that a write to JNL_RACE of a race requests: that of its tenant, or of a race with no tenant alone.
[DEDUCED, unsafe: log 42] -/
def State.raceReset (s : State) (r : RaceId) : State :=
  match s.owner r with
  | some t => (s.resetTenant t).raise t { cls := 0x0E, race := BitVec.ofNat 8 r.val }
  | none => s.resetRace r

/-- Race resets requested earlier happen at a tick boundary. [DEDUCED, unsafe: log 42] -/
def State.dueResets (s : State) : State :=
  forEach allRaces s (fun s r => if s.races[r].resetReq then s.raceReset r else s)

/-- RESET_REQ: the reset happens at the next tick boundary; while the sequencer is stopped it waits until it runs (R474). -/
def State.requestReset (s : State) (r : RaceId) : State := s.modRace r (fun x => { x with resetReq := true })

/-- RACE_RESET. -/
def execRaceReset (r : RaceId) (s : State) : Host.Outcome State Fault Refusal := .next (s.requestReset r)

end Sys2Proof.Machine
end

