-- ==== Sys2Proof/Machine/Commit.lean ====
section
/-! DEFINITION. What the commit of a tenant does: deferred effects in item order, progress and acceptance of descriptors,
withdrawals, records and the journal (R41, R42, R60, R67, R317 to R322, R334). -/

namespace Sys2Proof.Machine

-- ## Deferred effects

/-- The commit of a promoted page: the session's page has the hot frame (R177). -/
def State.commitPromoted (s : State) (c : BitVec 18) (r : RaceId) (frame page : Nat) : State :=
  match s.session? c with
  | none => s
  | some x =>
    if x.pass.isNone then s else s.modModel x.tenant x.model.val (fun m => { m with hot := m.hot.set r (m.hot[r] ++ [(frame, c.toNat, page)]) })

/-- Applies `f` to the pass in progress of a session. -/
def State.modPass (s : State) (c : BitVec 18) (f : Pass → Pass) : State :=
  s.modSession c (fun x => { x with pass := x.pass.map f })

/-- The commit of DEC_PAGES: the entries are in every race's block (R163). -/
def State.commitPages (s : State) (t : TenantId) (ring : Fin 64) (seq : W48) (c : BitVec 18) (first : W32)
    (entries : List W32) : State :=
  match s.ownSession t c.toNat with
  | none => s.failDesc t ring seq 0x32 0
  | some x => (s.blockWrite x (s.racesOf t) (0x800 + 4 * first.toNat) (entries.flatMap (fun e => bytesLE 4 e.toNat))).1

/-- Applies one deferred effect; answers the pass record that it makes. -/
def State.applyEffect (s : State) (i : Item) (e : Effect) : State × List (BitVec 4 × Rec) :=
  let t := i.tenant
  match e with
  | .image mills file =>
    (forEach mills s (fun s m => s.modMill m (fun x => { x with image := some file, imageBy := some (i.ring, i.seq) })), [])
  | .wset n w => (s.modTenant t (fun x => { x with wsets := sset x.wsets n.toNat w }), [])
  | .aggOpen r => (s.commitAggOpen t i.ring i.seq r, [])
  | .aggReady id => (s.commitAggReady t id, [])
  | .aggSeeds id recs => (s.commitAggSeeds t i.ring i.seq id recs, [])
  | .aggDrop id parts => (s.commitAggDrop t i.ring i.seq id parts, [])
  | .aggClose id => (s.commitAggClose t i.ring i.seq id, [])
  | .aggRelease id r => (s.commitAggRelease t i.ring i.seq id r, [])
  | .aggEnd id => (s.commitAggEnd t i.ring i.seq (dOp i.line) id, [])
  | .segment slot g chunks retracts cursor chained sum => (s.commitSegment slot g chunks retracts cursor chained sum, [])
  | .released slot => (s.endRelease slot 0, [])
  | .model slot m => (s.modTenant t (fun x => { x with models := match m with
      | some m => sset x.models slot.val m
      | none => sdel x.models slot.val }), [])
  | .decOpen id x params =>
    (if (sget? s.ctxs id.toNat).isSome then s.failDesc t i.ring i.seq 0x32 0 else s.commitOpen id x params, [])
  | .decPages id first es => (s.commitPages t i.ring i.seq id first es, [])
  | .decRun id count addr maxNew first => (s.commitRun t i.ring i.seq i.cls id count addr maxNew first, [])
  | .decStop id => (s.commitStop t i.ring i.seq id, [])
  | .decClose id => (s.commitClose t i.ring i.seq id, [])
  | .promoted id r frame page => (s.commitPromoted id r frame page, [])
  | .drafted id n fixed chain last => (s.modPass id (fun p => p.drafted n fixed chain last), [])
  | .sliced id => (s.modPass id (fun p => { p with slice := p.slice + 1 }), [])
  | .accepted id emit rows =>
    let out := s.commitAccept id emit rows
    (out.1, out.2.toList)
  | .weirSend seq => (s.commitWeirSend t i.ring i.seq seq, [])
  | .window tag base len peer any notify ring cls =>
    (s.commitWindow t i.ring i.seq { tag := tag, base := base, length := len, peer := peer, any := any, notify := notify,
                                     ring := ring, cls := cls }, [])
  | .revoke _ => (s.commitRevoke t i.ring i.seq, [])
  | .key slot k => (s.commitKey t i.ring i.seq slot k, [])
  | .cellBump c => (s.commitBump t i.ring i.seq c false, [])
  | .cellFree c => (s.commitBump t i.ring i.seq c true, [])
  | .cellClaim c => (s.modSec (fun x => x.writeCell c.val (fun k => { k with tag := s.cellTag t })), [])
  | .engine r key ct => (s.commitEngine i.ring i.seq r key ct, [])
  | .pkgJob => (s.startJob t i.ring i.seq [], [])
  | .attestJob nonce => (s.commitAttest t i.ring i.seq nonce, [])
  | .pkgDone entry => (s.commitPkgDone t entry, [])
  | .authFail => (s.commitAuthFail t i.ring i.seq, [])
  | .scrub counts => (s.commitScrub t i.ring i.seq counts i.last, [])

/-- Applies the effects of an item in order. -/
def State.applyItem (acc : State × List (BitVec 4 × Rec)) (i : Item) : State × List (BitVec 4 × Rec) :=
  i.effects.foldl (fun acc e =>
    let out := acc.1.applyEffect i e
    (out.1, acc.2 ++ out.2)) acc

/-- A segment item. -/
def Item.isSegment (i : Item) : Bool :=
  match i.kind with
  | .segment _ _ => true
  | _ => false

-- ## Progress of descriptors

/-- What an item that stopped for good makes of its round, run or release (R61, R76, R476, Table 6-8).
[DEDUCED, unsafe: log 53] -/
def State.commitStopped (s : State) (i : Item) : State :=
  match i.kind with
  | .segment slot g => s.faultRound slot g
  | .desc =>
    if dOp i.line = 0x44 && i.index ≠ 0 then
      match s.roundOf i.tenant (dF i.line 0x10 4) with
      | some (slot, r) => (match r.release with
        | some x => if x.ring = i.ring && x.seq = i.seq then s.endRelease slot i.status else s
        | none => s)
      | none => s
    else s
  | _ => match i.session with
    | some c => s.endRun c i.status
    | none => s

/-- A descriptor after one of its items has committed (R42, R49). -/
def Desc.progress (d : Desc) (i : Item) : Desc :=
  let d := { d with accepted := true, fault := d.fault || i.replayed,
                    flags := { ovf := d.flags.ovf || i.flags.ovf, inv := d.flags.inv || i.flags.inv, sat := d.flags.sat || i.flags.sat } }
  if d.done then d
  else if i.state = .stopped then { d with done := true, waits := false, status := i.status, body := 0, todo := [] }
  else if d.withdrawn then { d with done := true, waits := false, status := 0x03, todo := [] }
  else if i.last && d.todo.isEmpty && !d.waits then
    { d with done := true, status := if i.status = 0 then d.status else i.status, body := if i.body = 0 then d.body else i.body }
  else d

/-- A ring's or a class's cancel reaches the descriptor (R67, R274). -/
def State.cancelled (s : State) (t : TenantId) (ring : Fin 64) (seq : W48) (l : Line) : Bool :=
  let w := s.wring t ring
  let below (c : Option W48) : Bool := match c with
    | none => false
    | some c => decide ((c - w.released).toNat ≤ w.slots) && decide ((seq - w.released).toNat < (c - w.released).toNat)
  below w.cancelTo || below w.cancelClass[(dClass l)]

/-- Cancels written since the last commit take effect: every descriptor below PRODUCER (R274). [DEDUCED, unsafe: log 34] -/
def State.takeCancels (s : State) (t : TenantId) : State :=
  let cc := s.tenants[t].classCancel
  let s := s.modRace (s.lowest t) (fun r => { r with wrings := r.wrings.map (fun w =>
    { w with cancel := false, cancelTo := if w.cancel then some w.producer else w.cancelTo
             cancelClass := Vector.ofFn (fun c => if cc.getLsbD c.val then some w.producer else w.cancelClass[c]) }) })
  s.modTenant t (fun x => { x with classCancel := 0 })

/-- Withdraws the cancelled descriptors: one whose item is cut ends when the item has committed, the others now; the run
of a cancelled DEC_RUN ends with its session (Table 6-8). [DEDUCED, unsafe: log 34] -/
def State.withdraw (s : State) (t : TenantId) : State :=
  let hit := s.tenants[t].descs.filter (fun d => !d.done && s.cancelled t d.ring d.seq d.line)
  let busy (d : Desc) : Bool := s.tick.items.any (fun i => i.tenant = t && i.kind = .desc && i.ring = d.ring && i.seq = d.seq &&
    i.state = .cut)
  let s := forEach hit s (fun s d => s.modDesc t d.ring d.seq (fun x =>
    if busy d then { x with withdrawn := true, todo := [] }
    else if dOp d.line = 0x53 && d.waits then { x with withdrawn := true }
    else { x with withdrawn := true, done := true, waits := false, status := 0x03, body := 0, todo := [] }))
  { s with ctxs := s.ctxs.map (fun c => match c.2 with
      | .session x => if x.tenant = t && hit.any (fun d => x.run = some (d.ring, d.seq)) then
          (c.1, .session { x with ending := if x.pass.isSome then some 0x03 else x.endAs 0x03 }) else c
      | .part _ => c) }

/-- An item of the tenant's descriptor is in the tick. -/
def State.hasItem (s : State) (d : Desc) (t : TenantId) : Bool :=
  s.tick.items.any (fun i => i.tenant = t && i.kind = .desc && i.ring = d.ring && i.seq = d.seq)

-- ## Records

/-- Stages a record that belongs to no descriptor: it takes a staging entry. [DEDUCED, unsafe: log 46] -/
def State.stageLoose (s : State) (t : TenantId) (c : BitVec 4) (r : Rec) : State :=
  (s.stage t c r).modCring (s.lowest t) ⟨c.toNat, by omega⟩ (fun x => { x with held := x.held + 1 })

/-- The completion ring of a work ring. -/
def State.cringOf (s : State) (t : TenantId) (w : Fin 64) : BitVec 4 := (s.wring t w).cring

/-- Ring, then sequence (R41). [DEDUCED, unsafe: log 33] -/
def Desc.order (d : Desc) : Nat := d.ring.val * 2 ^ 48 + d.seq.toNat

/-- Stages the records of the descriptors that are done, in ascending ring and sequence; answers their entries. -/
def State.stageDone (s : State) (t : TenantId) : State × List JEntry :=
  let due := (s.tenants[t].descs.filter (fun d => d.done && d.accepted && !d.staged)).insertionSort (fun a b => a.order ≤ b.order)
  due.foldl (fun acc d =>
    let c := acc.1.cringOf t d.ring
    ((acc.1.stage t c d.record).modDesc t d.ring d.seq (fun x => { x with staged := true }),
     acc.2 ++ [JEntry.complete (c.setWidth 8) d.record])) (s, [])

/-- Journals the tenant's events and stages their records (R334); answers the entries and how many are to be written. -/
def State.stageEvents (s : State) (t : TenantId) : State × List JEntry × Nat :=
  let out := (s.tenants[t].jnl.events).foldl (fun (acc : State × List JEntry × Nat) e =>
    let j := acc.1.tenants[t].jnl
    let r : Rec := { data := e.record j.evCount.toNat s.tick.count.toNat (Config.eventDelay j.evCount.toNat).toNat }
    let s := acc.1.modJnl t (fun j => { j with evCount := j.evCount + 1 })
    if j.eventNow.2 then (s.stageLoose t j.eventNow.1 r, acc.2.1 ++ [.event r], acc.2.2 + 1)
    else (s.modJnl t (fun j => { j with eventCnt := satInc j.eventCnt }), acc.2.1 ++ [.event r], acc.2.2)) (s, [], 0)
  (out.1.modJnl t (fun j => { j with events := [] }), out.2)

-- ## The commit

/-- The keys that the engines hold for descriptors that have ended are dropped (R371). -/
def State.dropEngines (s : State) (t : TenantId) : State :=
  forEach (s.racesOf t) s (fun s r => s.modRace r (fun x => { x with engine := x.engine.filter (fun e =>
    s.tenants[t].descs.any (fun d => d.ring = e.ring && d.seq = e.seq && !d.done)) }))

/-- Rounds that race debug ends at this commit, without a completion (R351). -/
def State.debugRounds (s : State) (t : TenantId) : State :=
  if !s.tenants[t].debugAbort then s else
  let s := forEach (List.finRange 64) s (fun s k => match s.rounds[k] with
    | some r => if r.tenant = t then (s.closeRound k).raise t { cls := 0x21, detail := BitVec.ofNat 64 k.val } else s
    | none => s)
  s.modTenant t (fun x => { x with debugAbort := false })

/-- What every commit of a tenant settles after the effects of its items.
[DEDUCED, unsafe: log 14; DEDUCED, unsafe: log 103] -/
def State.settleTenant (s : State) (t : TenantId) : State :=
  let s := forEach ((List.finRange 64).filter (fun k => (s.roundAt t k).isSome)) s (fun s k => s.settleRound k)
  (((((s.settleSends t).settleRevokes t).clearClaims t).settlePurges t).debugRounds t)

/-- Every accepted item has completed: no accepted descriptor has an item left, no item is in the tick and no session has a
run (R474). The work of a tenant Out of service, which will not run, does not count (R341). [DEDUCED, unsafe: log 98] -/
def State.drained (s : State) : Bool :=
  allTenants.all (fun t => !s.serves t || s.tenants[t].descs.all (fun d => !d.accepted || d.done || d.todo.isEmpty)) &&
    s.tick.items.all (fun i => i.isSegment || !s.serves i.tenant) &&
    s.ctxs.all (fun c => match c.2 with
      | .session x => x.state = .idle || !s.serves x.tenant
      | .part _ => true)

/-- The sequencer stops at the commit at which RUN is 0 and every accepted item has completed (Table 2-9, R474). -/
def State.stopCheck (s : State) : State :=
  if s.tick.run || allTenants.any (fun t => s.serves t && s.tenants[t].jnl.marker) || !s.drained then s
  else s.modTick (fun k => { k with running := false, phase := .none })

/-- CONSUME entries of the descriptors that this commit accepts. -/
def State.consumes (before after : State) (t : TenantId) : List JEntry :=
  (after.tenants[t].descs.filter (fun d => d.accepted &&
    !(before.tenants[t].descs.any (fun e => e.ring = d.ring && e.seq = d.seq && e.accepted)))).map (fun d =>
      .consume d.ring d.cls d.seq (BitVec.ofNat 32 d.items) (if d.refused then d.status else 0))

/-- Mills retired in the tick, as MILL_MAP entries (R327). -/
def State.millMaps (s : State) (t : TenantId) : List JEntry :=
  (s.racesOf t).flatMap (fun r => s.races[r].toMap.map (fun k => .millMap r k 24))

/-- The commit of a tenant's tick. [DEDUCED, unsafe: log 33] -/
def State.commitTenant (s : State) (t : TenantId) : State :=
  let s0 := s
  let mine := s.tick.items.filter (fun i => i.tenant = t)
  let ran := mine.filter (fun i => i.state = .ended || i.state = .stopped)
  let out := ((ran.filter (·.isSegment)) ++ (ran.filter (fun i => !i.isSegment))).foldl State.applyItem (s, [])
  let s := out.1
  let effects := ran.flatMap (fun i => i.effects.flatMap (fun e => s.effectEntries t e))
  let s := forEach (ran.filter (fun i => i.state = .stopped)) s State.commitStopped
  let s := forEach (ran.filter (fun i => i.kind = .desc)) s (fun s i => s.modDesc t i.ring i.seq (fun d => d.progress i))
  -- a descriptor whose item was cut has run too (R42), and one consumed without running is accepted here
  let s := s.modDescs t (fun d => d.refused || (d.withdrawn && d.done) ||
    mine.any (fun i => i.kind = .desc && i.ring = d.ring && i.seq = d.seq)) (fun d => { d with accepted := true })
  let s := s.settleTenant t
  let s := (s.takeCancels t).withdraw t
  let s := s.modDescs t (fun d => d.withdrawn && d.done) (fun d => { d with accepted := true })
  let s := s.settleSessions t
  let s := s.dropEngines t
  -- committed items leave the tick, and items of descriptors that have ended
  let s := s.modTick (fun k => { k with items := k.items.filter (fun i => !(i.tenant = t &&
    (i.state = .ended || i.state = .stopped || (i.kind = .desc && s.tenants[t].descs.any (fun d =>
      d.ring = i.ring && d.seq = i.seq && d.done))))) })
  -- records: passes, descriptors, receives, events
  let s := forEach out.2 s (fun s p => s.stageLoose t p.1 p.2)
  let done := s.stageDone t
  let recv := done.1.commitReasm t
  let s := forEach recv.2 recv.1 (fun s p => s.stage t p.1 p.2)
  let evs := s.stageEvents t
  let s := evs.1
  let loose := (out.2 ++ recv.2).map (fun p => JEntry.complete (p.1.setWidth 8) p.2)
  let carried := s.carryEntries t
  let s := carried.1
  let entries := State.consumes s0 s t ++ ran.map (fun i => JEntry.item i.ring i.cls i.seq (BitVec.ofNat 32 i.index)
      (BitVec.ofNat 8 (b2n i.flags.ovf + 2 * b2n i.flags.inv + 4 * b2n i.flags.sat + 8 * b2n i.replayed))) ++
    effects ++ journalDiff t s0 s ++ s.millMaps t ++ loose ++ done.2 ++ evs.2.1 ++ carried.2
  let staged (c : Nat) : Nat := ((loose ++ done.2).filter (fun e => match e with
    | .complete r _ => r.toNat = c
    | _ => false)).length
  let w := s.races[(s.lowest t)].wrings
  let s := s.modJnl t (fun j => { j with
    nextFetch := w.map (·.next), journaled := Vector.ofFn (fun c => j.journaled[c] + BitVec.ofNat 48 (staged c.val)) })
  s.journalTick t entries (loose.length + done.2.length + evs.2.2 + carried.2.length)

/-- COMMIT_ACKNOWLEDGED (R317): the tenant's tick is committed. [DEDUCED, unsafe: log 35] -/
def execCommitAcknowledged (t : TenantId) (s : State) : Host.Outcome State Fault Refusal :=
  .next (if s.tick.phase = .commit && s.serves t && s.tenants[t].jnl.marker then (s.commitTenant t).stopCheck else s)

/-- A tenant's tick is abandoned (R318): its items are cut, descriptors first read in the tick are read again. -/
def State.abandonTick (s : State) (t : TenantId) : State :=
  let revoked := s.tick.items.flatMap (fun i => if i.tenant = t && i.effects.any (fun e => match e with
    | .revoke _ => true
    | _ => false) then [(i.ring, i.seq)] else [])
  let s := forEach revoked s (fun s p => s.dropRevoke t p.1 p.2)
  let s := s.cutTenant t
  let fresh := s.tenants[t].descs.filter (fun d => !d.accepted && d.readIn = s.tick.count)
  let s := forEach fresh s (fun s d =>
    (s.freeStaging t (s.cringOf t d.ring)).ringStatus (s.lowest t) d.ring (fun w =>
      { w with next := if seqBefore d.seq w.next then d.seq else w.next }))
  let gone (ring : Fin 64) (seq : W48) : Bool := fresh.any (fun d => d.ring = ring && d.seq = seq)
  let s := s.modTick (fun k => { k with items := k.items.filter (fun i => !(i.tenant = t && i.kind = .desc && gone i.ring i.seq)) })
  let s := s.modTenant t (fun x => { x with descs := x.descs.filter (fun d => !gone d.ring d.seq) })
  let s := s.modJnl t (fun j => { j with marker := false, abandoned := satInc j.abandoned })
  s.raise t { cls := 0x0C }

/-- TICK_ABANDONED. -/
def execTickAbandoned (t : TenantId) (s : State) : Host.Outcome State Fault Refusal :=
  .next (if s.tick.phase = .commit && s.tenants[t].jnl.marker then (s.abandonTick t).stopCheck else s)

/-- COMMIT (R317): the commit phase begins; the markers are written, and revocations take effect (R291). -/
def execCommit (s : State) : Host.Outcome State Fault Refusal :=
  .next (
    if s.tick.phase ≠ .drain then s else
    let s := s.modTick (fun k => { k with phase := .commit })
    let s := forEach (allTenants.filter s.serves) s (fun s t => s.modJnl t (fun j => { j with marker := true }))
    let s := forEach (s.tick.items.filter (fun i => i.state = .ended)) s (fun s i =>
      forEach i.effects s (fun s e => match e with
        | .revoke tag => s.beginRevoke i.tenant i.ring i.seq tag
        | _ => s))
    s.stopCheck)

end Sys2Proof.Machine
end

