-- ==== Sys2Proof/Machine/Engine.lean ====
section
/-! DEFINITION. The engine: weight banks, MMA with its running sums and MOUT (R88 to R94, R106 to R116, Table 3-10),
with the rows that the checksum lane leaves out (R102). -/

namespace Sys2Proof.Machine

/-- Reduction depth that an operand format allows on its own (Table 3-9). -/
def fmtDepth (f : Nat) : Nat := if f = 0xC then 256 else if f = 0x3 || f = 0x4 then 64 else 128

/-- One of the formats with 8-bit or 6-bit elements that Table 3-9 names as fp8, MXFP8, MXFP6 or MXINT8. -/
def fmtByteLike (f : Nat) : Bool :=
  f = 0x1 || f = 0x2 || f = 0x7 || f = 0x8 || f = 0x9 || f = 0xA || f = 0xB

/-- The reduction depth of an operand pair, none where the engine does not accept it (R90, Table 3-9). -/
def pairDepth (a w : Nat) : Option Nat :=
  if a = 0xC && w = 0xC then some 256
  else if a = 0x0 && w = 0x0 then some 128
  else if fmtByteLike a && (fmtByteLike w || w = 0xC) then some 128
  else if a = 0xC && fmtByteLike w then some 128
  else if a = 0x3 && (w = 0x3 || w = 0x1 || w = 0x2 || fmtMx w) then some 64
  else if a = 0x4 && (w = 0x4 || w = 0x1 || w = 0x2 || fmtMx w) then some 64
  else none

/-- The rows of a weight tile: up to the depth of its own format, element code and scale (R91, Table 3-10). -/
def loadBank (t : Tile) (m : List Host.Cell) (b : SpadBase) : Except Byte Bank :=
  let n := min (fmtDepth t.fmt) t.elems
  let rows : List (Except Byte (List (W32 × Byte))) := (List.range 64).map (fun i =>
    match t.codes m b i n, t.scales m b i n with
    | .ok cs, .ok es =>
      .ok ((indexed cs).map (fun p => (BitVec.ofNat 32 p.2, es.getD (p.1 / 32) 127)))
    | .error e, _ => .error e
    | _, .error e => .error e)
  if t.check then
    match collect rows with
    | .ok xs => .ok { fmt := BitVec.ofNat 4 t.fmt, rows := xs }
    | .error e => .error e
  else .error stFormat

/-- WLD: W's 64 rows with their scales into the shadow bank (R93). -/
def execWld (m : MillName) (tW : Fin 16) (s : State) : Host.Outcome State Fault Refusal :=
  .next (match (s.mill m).issuing with
    | none => s
    | some id =>
      match loadBank (tileOf (s.mill m).t[tW]) s.mem (s.spad m 0) with
      | .error st => s.stopItem id st
      | .ok bk => s.modMill m (fun x => { x with shadow := bk }))

/-- One product of two elements into fp32 (R88): exact, or rounded where it is below the subnormals. -/
def mmaProduct (a w : Fp) : W32 × Flags :=
  match fpMul a w with
  | (v, f) => ((toF32 v).1, f.or (toF32 v).2)

/-- A float running sum over the products in order (R91, R106, R108). -/
def mmaFloat (c : W32) (fl : Flags) : List (Fp × Fp) → W32 × Flags
  | [] => (c, fl)
  | (a, w) :: rest =>
    let p := mmaProduct a w
    let r := f32Add c p.1
    mmaFloat r.1 ((fl.or p.2).or r.2) rest

/-- An int32 running sum over the products in order, saturating (R112). -/
def mmaInt (c : Int) (fl : Flags) : List (Int × Int) → Int × Flags
  | [] => (c, fl)
  | (a, w) :: rest =>
    let r := satInt32 (c + a * w)
    mmaInt r.1 (fl.or { sat := r.2 }) rest

/-- An fp32 word that is an infinity or a NaN. -/
def f32Special (w : W32) : Bool := fld w.toNat 23 8 = 255

/-- A value that is an infinity or a NaN. -/
def Fp.special : Fp → Bool
  | .fin _ _ _ => false
  | _ => true

/-- One row of C after an MMA: 64 words, the flags, and whether the checksum lane leaves the row out (R102). -/
def mmaRow (int : Bool) (fa : Nat) (a : List (W32 × Byte)) (bank : Bank) (k : Nat) (old : List W32) :
    List W32 × Flags × Bool :=
  let fw := bank.fmt.toNat
  let at' (w : List (W32 × Byte)) (j : Nat) : W32 × Byte := w.getD j (0, 127)
  if int then
    let cols := (List.range 64).map (fun n =>
      let ps := (List.range k).map (fun j =>
        (signedCode 8 (at' a j).1.toNat, signedCode 8 (at' (bank.rows.getD n []) j).1.toNat))
      mmaInt (old.getD n 0).toInt {} ps)
    let fl := (cols.map (·.2)).foldl Flags.or {}
    (cols.map (fun c => BitVec.ofInt 32 c.1), fl, fl.sat)
  else
    let av := (List.range k).map (fun j => elemValue fa (at' a j).1.toNat (at' a j).2)
    let cols := (List.range 64).map (fun n =>
      let wv := (List.range k).map (fun j =>
        let e := at' (bank.rows.getD n []) j
        elemValue fw e.1.toNat e.2)
      mmaFloat (old.getD n 0) {} (av.zip wv))
    (cols.map (·.1), (cols.map (·.2)).foldl Flags.or {},
     av.any Fp.special || old.any f32Special || cols.any (fun c => f32Special c.1))

/-- The rows of an MMA in order: memory, flags and the rows left out of the check. -/
def mmaRows (b : SpadBase) (ta tc : Tile) (int acc : Bool) (bank : Bank) (k : Nat) :
    List Nat → List Host.Cell → Flags → Nat → Except Byte (List Host.Cell × Flags × Nat)
  | [], m, fl, sk => .ok (m, fl, sk)
  | i :: is, m, fl, sk =>
    match ta.codes m b i k, ta.scales m b i k, spadGet m b (tc.rowAt i) 256 with
    | .ok cs, .ok es, .ok ob =>
      let a := (indexed cs).map (fun p => (BitVec.ofNat 32 p.2, es.getD (p.1 / 32) 127))
      let old := if acc then (chunks 4 ob).map (fun x => BitVec.ofNat 32 (natLE x)) else List.replicate 64 0
      let r := mmaRow int ta.fmt a bank k old
      let m := memPuts m (b + tc.rowAt i) (r.1.map (fun w => bytesLE 4 w.toNat)).flatten
      mmaRows b ta tc int acc bank k is m (fl.or r.2.1) (sk + b2n r.2.2)
    | .error e, _, _ => .error e
    | _, .error e, _ => .error e
    | _, _, .error e => .error e

/-- C of an MMA: fp32 for float pairs and int32 for the int8 pair, 64 elements in a row (R91). [DEDUCED, unsafe: log 17] -/
def accOk (tc : Tile) (int : Bool) : Bool := tc.check && tc.fmt = (if int then 0x6 else 0x5)

/-- Adds to SKIP_CNT, saturating. -/
def State.countSkips (s : State) (r : RaceId) (n : Nat) : State :=
  s.modRace r (fun x => { x with skipCnt := BitVec.ofNat 8 (min 255 (x.skipCnt.toNat + n)) })

/-- MMA: the swap first, then every row of A through the active bank into C; a mismatch of the checksum lane cuts the
item (R90 to R94, R102, R103). `mismatch` is an arithmetic fault above the tolerance in a row that is compared.
[DEDUCED, unsafe: log 17; DESIGN CHOICE, unsafe: log 18] -/
def execMma (m : MillName) (acc : Bool) (tA tC : Fin 16) (swap mismatch : Bool) (s : State) :
    Host.Outcome State Fault Refusal :=
  .next (match (s.mill m).issuing with
    | none => s
    | some id =>
      let s := if swap then s.modMill m (fun x => { x with active := x.shadow, shadow := x.active }) else s
      let x := s.mill m
      let ta := tileOf x.t[tA]
      let tc := tileOf x.t[tC]
      match pairDepth ta.fmt x.active.fmt.toNat with
      | none => s.stopItem id stFormat
      | some k =>
        let int := decide (ta.fmt = 0)
        if !ta.check || !accOk tc int then s.stopItem id stFormat else
        match mmaRows (s.spad m 0) ta tc int acc x.active k (List.range ta.rows) s.mem {} 0 with
        | .error st => s.stopItem id st
        | .ok (mem, fl, skips) =>
          let on := if int then s.races[m.race].intEn else s.races[m.race].floatEn
          let s := if on then s.countSkips m.race skips else s
          if mismatch && on && skips < ta.rows then s.checkFailed m id
          else ({ s with mem := mem } : State).setFlags m id tC fl)

/-- Integer values of a row of an int8 or int32 tile. -/
def Tile.ints (t : Tile) (m : List Host.Cell) (b : SpadBase) (i n : Nat) : Except Byte (List Int) :=
  match t.codes m b i n with
  | .ok cs => .ok (cs.map (signedCode (fmtBits t.fmt)))
  | .error e => .error e

/-- Two lists of results and errors taken together. -/
def both {α β : Type} : Except Byte α → Except Byte β → Except Byte (α × β)
  | .ok a, .ok b => .ok (a, b)
  | .error e, _ => .error e
  | _, .error e => .error e

/-- One row of MOUT before its conversion: the values and the flags of the fused step (R115, R116). -/
def moutRow (m : List Host.Cell) (b : SpadBase) (tc te : Tile) (fuse : Fin 3) (i : Nat) :
    Except Byte (List Fp × Flags) :=
  if tc.fmt = 0x6 && (fuse = 0 || te.fmt = 0x0 || te.fmt = 0x6) then
    let e : Except Byte (List Int) := if fuse = 0 then .ok [] else te.ints m b i 64
    match both (tc.ints m b i 64) e with
    | .error st => .error st
    | .ok (cs, es) =>
      let rs := (indexed cs).map (fun p =>
        let y := es.getD p.1 0
        satInt32 (if fuse = 1 then p.2 + y else if fuse = 2 then p.2 * y else p.2))
      .ok (rs.map (fun r => fpOfInt r.1 0), { sat := rs.any (·.2) })
  else
    let e : Except Byte (List (W32 × Flags)) := if fuse = 0 then .ok [] else te.f32s m b i 64
    match both (tc.f32s m b i 64) e with
    | .error st => .error st
    | .ok (cs, es) =>
      let rs := (indexed cs).map (fun p =>
        let y := es.getD p.1 (0, {})
        let r := if fuse = 1 then f32Add p.2.1 y.1 else if fuse = 2 then f32Mul p.2.1 y.1 else (p.2.1, {})
        (r.1, r.2.or y.2))
      .ok (rs.map (fun r => ofF32 r.1), (rs.map (·.2)).foldl Flags.or {})

/-- MOUT on memory: every row of C fused and converted into D. -/
def moutOp (tc td te : Tile) (fuse : Fin 3) (sat : Bool) (m : List Host.Cell) (b : SpadBase) :
    Except Byte (List Host.Cell × Flags) :=
  if !tc.check || (tc.fmt ≠ 0x5 && tc.fmt ≠ 0x6) || !td.check || (fuse ≠ 0 && !te.check) then .error stFormat
  else overRows (fun m i =>
    match moutRow m b tc te fuse i with
    | .error st => .error st
    | .ok (vs, fl) =>
      match td.writeRow m b sat i vs with
      | .error st => .error st
      | .ok (m, g) => .ok (m, fl.or g)) (List.range tc.rows) m {}

/-- MOUT: drains C into D (R92, R115, R116); a mismatch cuts the item (R103). [DESIGN CHOICE, unsafe: log 18] -/
def execMout (m : MillName) (tC tD tE : Fin 16) (fuse : Fin 3) (sat mismatch : Bool) (s : State) :
    Host.Outcome State Fault Refusal :=
  let on := if (tileOf (s.mill m).t[tC]).fmt = 0x6 then s.races[m.race].intEn else s.races[m.race].floatEn
  .next (match (s.mill m).issuing with
    | none => s
    | some id =>
      if mismatch && on then s.checkFailed m id else
      s.spadOp m tD (fun x b =>
        moutOp (tileOf x.t[tC]) (tileOf x.t[tD]) (tileOf x.t[tE]) fuse sat s.mem b))

end Sys2Proof.Machine
end

