-- ==== Sys2Proof/Machine/Mover.lean ====
section
/-! DEFINITION. The mover: the eight windows of an item (Tables 3-13, 6-5, 10-12, R100, R164) and the move slot
(Table 3-14). The scratchpad side of a move takes effect when it issues and the memory side of a store when it
completes (R82). -/

namespace Sys2Proof.Machine

/-- First byte of the tenant's draft-store partition. -/
def Tenant.draftAt (t : Tenant) : Nat := t.draftBase.toNat * mib
/-- Bytes of the tenant's draft-store partition. -/
def Tenant.draftBytes (t : Tenant) : Nat := t.draftSize.toNat * mib

/-- Reads `len` bytes at offset `off` of a RUN window. -/
def State.runWinRead (s : State) (t : TenantId) (w : Win) (off len : Nat) : State × Access :=
  if w.kind = 0 || w.length.toNat < off + len || !bitOf w.access.toNat 0 then (s, .status stAccess)
  else if w.kind = 1 || w.kind = 2 then
    match s.reach t (w.base.toNat + off) len with
    | some xs => s.readSpans xs
    | none => (s, .status stAccess)
  else if w.kind = 3 then
    (s, .ok (memBytes s.mem (bufferAddr (Fin.ofNat 8 (fld w.base.toNat 24 3)) (fld w.base.toNat 0 24 + off)) len))
  else (s, .ok (memBytes s.mem (draftAddr (s.tenants[t].draftAt + w.base.toNat + off)) len))

/-- A store of `len` bytes at offset `off` of a RUN window is allowed. -/
def State.runWinStoreOk (s : State) (t : TenantId) (w : Win) (off len : Nat) : Bool :=
  decide (off + len ≤ w.length.toNat) && bitOf w.access.toNat 1 &&
    (w.kind = 3 || ((w.kind = 1 || w.kind = 2) && (s.reach t (w.base.toNat + off) len).isSome))

/-- Writes bytes at offset `off` of a RUN window. -/
def State.runWinWrite (s : State) (t : TenantId) (w : Win) (off : Nat) (bs : List Byte) : State × Access :=
  if w.kind = 3 then
    ({ s with mem := memPuts s.mem (bufferAddr (Fin.ofNat 8 (fld w.base.toNat 24 3)) (fld w.base.toNat 0 24 + off)) bs },
     .ok [])
  else
    match s.reach t (w.base.toNat + off) bs.length with
    | some xs => s.writeSpans xs bs
    | none => (s, .status stAccess)

/-- KV bytes from offset `off` of window w1, position by position (R164); `fuel` bounds the pieces. -/
def kvRead (md : Model) (x : Session) (ctx : Nat) (r : RaceId) : Nat → Nat → Nat → List Byte → State → State × Access
  | 0, _, _, acc, s => (s, .ok acc)
  | fuel + 1, off, len, acc, s =>
    if len = 0 then (s, .ok acc) else
    let row := 64 * md.kvb
    let n := min len (row - off % row)
    match s.kvSpan md x ctx r (off / row) n with
    | none => (s, .status 0x36)
    | some sp =>
      match s.readSpan { sp with off := sp.off + off % row } false with
      | (s, .ok bs) => kvRead md x ctx r fuel (off + n) (len - n) (acc ++ bs) s
      | (s, y) => (s, y)

/-- The context of a decode item's session, and whether the item is the draft. -/
def Item.decode (i : Item) : Option (BitVec 18 × Bool) :=
  match i.kind with
  | .draft c => some (c, true)
  | .slice c => some (c, false)
  | _ => none

/-- Reads a decode item's window from a mill of race `r` (Table 6-5). -/
def State.decWinRead (s : State) (t : TenantId) (c : BitVec 18) (r : RaceId) (n : Fin 8) (off len : Nat) :
    State × Access :=
  match s.session? c with
  | none => (s, .status stAccess)
  | some x =>
    match s.model? t x.model.val with
    | none => (s, .status stAccess)
    | some md =>
      let span (tierB : Bool) (base size : Nat) : State × Access :=
        if off + len ≤ size then s.readSpan { race := r, tierB := tierB, off := base + off, len := len } false
        else (s, .status stAccess)
      match n with
      | 0 => span false (md.f 0x18 4 * mib) (md.f 0x20 4 * mib)
      | 1 => if off + len ≤ x.position.toNat * (64 * md.kvb) then kvRead md x c.toNat r (len + 1) off len [] s
             else (s, .status stAccess)
      | 2 => span false md.stagingOff md.stagingBytes
      | 3 => span true (x.blockOff.toNat * 1024) 16384
      | 4 => if off + len ≤ 2 ^ 24 then (s, .ok (memBytes s.mem (bufferAddr r off) len)) else (s, .status stAccess)
      | 5 => if off + len ≤ s.tenants[t].draftBytes then
               (s, .ok (memBytes s.mem (draftAddr (s.tenants[t].draftAt + off)) len)) else (s, .status stAccess)
      | 6 => if off + len ≤ 64 then (s, .ok (bytesAt (x.record false) off len)) else (s, .status stAccess)
      | 7 =>
        let rs := s.racesOf t
        if off + len ≤ rs.length * 2 ^ 24 then
          (s, .ok ((List.range len).map (fun k =>
            memGet s.mem (bufferAddr (rs.getD ((off + k) / 2 ^ 24) 0) ((off + k) % 2 ^ 24)))))
        else (s, .status stAccess)

/-- A store to a decode item's window is allowed: w2, w4 and w7, and of w3 the tree by the draft entry and the verdict
by the target entry. -/
def State.decWinStoreOk (s : State) (t : TenantId) (c : BitVec 18) (draft : Bool) (n : Fin 8) (off len : Nat) : Bool :=
  match s.session? c with
  | none => false
  | some x =>
    match s.model? t x.model.val with
    | none => false
    | some md =>
      match n with
      | 2 => off + len ≤ md.stagingBytes
      | 3 => if draft then decide (0x100 ≤ off) && decide (off + len ≤ 0x300)
             else decide (0x300 ≤ off) && decide (off + len ≤ 0x400)
      | 4 => off + len ≤ 2 ^ 24
      | 7 => off + len ≤ (s.racesOf t).length * 2 ^ 24
      | _ => false

/-- Writes to a decode item's window. -/
def State.decWinWrite (s : State) (t : TenantId) (c : BitVec 18) (r : RaceId) (n : Fin 8) (off : Nat)
    (bs : List Byte) : State × Access :=
  match s.session? c with
  | none => (s, .status stAccess)
  | some x =>
    match s.model? t x.model.val with
    | none => (s, .status stAccess)
    | some md =>
      match n with
      | 2 => s.writeAt r false (md.stagingOff + off) bs
      | 3 => s.writeAt r true (x.blockOff.toNat * 1024 + off) bs
      | 4 => ({ s with mem := memPuts s.mem (bufferAddr r off) bs }, .ok [])
      | 7 =>
        let rs := s.racesOf t
        ({ s with mem := (indexed bs).foldl (fun m p =>
            memPut m (bufferAddr (rs.getD ((off + p.1) / 2 ^ 24) 0) ((off + p.1) % 2 ^ 24)) p.2) s.mem }, .ok [])
      | _ => (s, .status stAccess)

/-- Reads a window of an item. -/
def State.winRead (s : State) (i : Item) (r : RaceId) (n : Fin 8) (off len : Nat) : State × Access :=
  match i.decode with
  | some (c, _) => s.decWinRead i.tenant c r n off len
  | none => s.runWinRead i.tenant (i.wins.getD n.val {}) off len

/-- A store to a window of an item is allowed. -/
def State.winStoreOk (s : State) (i : Item) (n : Fin 8) (off len : Nat) : Bool :=
  match i.decode with
  | some (c, d) => s.decWinStoreOk i.tenant c d n off len
  | none => s.runWinStoreOk i.tenant (i.wins.getD n.val {}) off len

/-- Writes a window of an item. -/
def State.winWrite (s : State) (i : Item) (r : RaceId) (n : Fin 8) (off : Nat) (bs : List Byte) : State × Access :=
  match i.decode with
  | some (c, _) => s.decWinWrite i.tenant c r n off bs
  | none => s.runWinWrite i.tenant (i.wins.getD n.val {}) off bs

/-- The item and mill of a move that may issue: the mill issues and the tag is idle (R82). -/
def State.moving (s : State) (m : MillName) (tag : Fin 16) : Option (Nat × Item) :=
  match (s.mill m).issuing with
  | none => none
  | some id =>
    if ((s.mill m).tags[tag]).isSome then none else (s.item? id).map (fun i => (id, i))

/-- Marks a tag busy. -/
def State.busyTag (s : State) (m : MillName) (tag : Fin 16) (mv : Move) : State :=
  s.modMill m (fun x => { x with tags := x.tags.set tag (some mv) })

/-- MLD: bytes of a window into the rows of a tile (R100). [DEDUCED, unsafe: log 14] -/
def execMld (m : MillName) (tag : Fin 16) (window : Fin 8) (c t : Fin 16) (s : State) :
    Host.Outcome State Fault Refusal :=
  .next (match s.moving m tag with
    | none => s
    | some (id, i) =>
      let x := s.mill m
      let tile := tileOf x.t[t]
      if !tile.checkBytes then s.stopItem id stFormat else
      match s.winRead i m.race window ((x.sreg c).toNat * 64) tile.bytes with
      | (s, .ok bs) =>
        (match tile.putRows s.mem (s.spad m 0) bs with
         | .error st => s.stopItem id st
         | .ok mem => ({ s with mem := mem } : State).busyTag m tag {})
      | (s, y) => s.accessFail id y)

/-- MST: the rows of a tile to a window; the bytes reach the window when the move completes (R82, R100). -/
def execMst (m : MillName) (tag : Fin 16) (window : Fin 8) (c t : Fin 16) (s : State) :
    Host.Outcome State Fault Refusal :=
  .next (match s.moving m tag with
    | none => s
    | some (id, i) =>
      let x := s.mill m
      let tile := tileOf x.t[t]
      let off := (x.sreg c).toNat * 64
      match tile.rowBytes s.mem (s.spad m 0) with
      | .error st => s.stopItem id st
      | .ok bs =>
        if s.winStoreOk i window off bs.length then s.busyTag m tag { store := some (window, off, bs) }
        else s.stopItem id stAccess)

/-- MCPY: the rows of one tile into another, in the target's shape. [DEDUCED, unsafe: log 14] -/
def execMcpy (m : MillName) (tag src t : Fin 16) (s : State) : Host.Outcome State Fault Refusal :=
  .next (match s.moving m tag with
    | none => s
    | some (id, _) =>
      let x := s.mill m
      let td := tileOf x.t[t]
      let ts := tileOf x.t[src]
      match ({ ts with rows := td.rows, rowlen := td.rowlen, stride := ts.pitch } : Tile).rowBytes s.mem (s.spad m 0) with
      | .error st => s.stopItem id st
      | .ok bs =>
        match td.putRows s.mem (s.spad m 0) bs with
        | .error st => s.stopItem id st
        | .ok mem => ({ s with mem := mem } : State).busyTag m tag {})

/-- MOVE_COMPLETE: a store's bytes are in the window, and the tag is idle (R82). -/
def execMoveComplete (m : MillName) (tag : Fin 16) (s : State) : Host.Outcome State Fault Refusal :=
  .next (match (s.mill m).item.bind s.item?, (s.mill m).tags[tag] with
    | some i, some mv =>
      let free (s : State) : State := s.modMill m (fun x => { x with tags := x.tags.set tag none })
      (match mv.store with
       | none => free s
       | some (w, off, bs) =>
         match s.winWrite i m.race w off bs with
         | (s, .ok _) => free s
         | (s, y) => s.accessFail i.id y)
    | _, _ => s)

end Sys2Proof.Machine
end

