-- ==== Sys2Proof/Machine/LinkTrain.lean ====
section
/-! DEFINITION. Training and the width of the Afdun link (R251 to R257): half-directions are numbered H0 transmit, H0
receive, H1 transmit, H1 receive. -/

namespace Sys2Proof.Machine

/-- The place of a half-direction in Table 10-14. -/
def halfIndex : HalfDir → Fin 4
  | .h0tx => 0
  | .h0rx => 1
  | .h1tx => 2
  | .h1rx => 3

/-- The widest width that the good lanes allow: a quad with a bad lane is left out (Table 10-1, R253). -/
def widthOf (good : Byte) : BitVec 2 :=
  if good = 0xFF then 3 else if good &&& 0x0F = 0x0F then 1 else if good &&& 0xF0 = 0xF0 then 2 else 0

/-- The half's domain is On (Table 16-3). -/
def State.halfOn (s : State) (h : Fin 4) : Bool := s.pwr.domains[72 + h.val / 2] = 0

/-- A half-direction with its width and excluded lanes. -/
def Link.setHalf (l : Link) (h : Fin 4) (good : Byte) : Link :=
  { l with
    width := l.width.set h (widthOf good), laneFail := l.laneFail.set h (~~~good)
    degraded := l.degraded || decide (widthLanes (widthOf good) < widthLanes l.width[h]) }

/-- A half-direction without lanes. -/
def Link.halfOff (l : Link) (h : Fin 4) : Link := { l with width := l.width.set h 0 }

/-- Every flit that was not acknowledged is sent again (R254, R259). -/
def Link.replayAll (l : Link) : Link := l.unacked.foldl (fun l f => l.emit 0 f.1 f.2 false) l

/-- What follows a change of width: a link that is up sends what waits; one that went down is declared (R257). -/
def State.linkSettle (s : State) : State :=
  if s.link.up then s.modLink (fun l => ({ l with down := false } : Link).replayAll.pump)
  else if s.link.down then s
  else (s.modLink (fun l => { l with down := true, downEvent := true })).logEvent 0xFF { cls := 0x40 }

/-- Full training of every half-direction whose half is On; lanes that fail the pattern test leave their quad out (R253).
[DEDUCED, unsafe: log 78] -/
def State.train (s : State) (lanesGood : Vector Byte 4) : State :=
  (forEach (List.finRange 4) s (fun s h =>
    s.modLink (fun l => if s.halfOn h then l.setHalf h lanesGood[h] else l.halfOff h))).linkSettle

/-- FULL_TRAINING. -/
def execFullTraining (lanesGood : Vector Byte 4) (s : State) : Host.Outcome State Fault Refusal := .next (s.train lanesGood)

/-- A fast retrain at the current equalisation: lanes once excluded stay so (R254, R256). -/
def Link.fastRetrain (l : Link) (h : Fin 4) (lanesGood : Byte) : Link :=
  let good := lanesGood &&& ~~~l.laneFail[h]
  { l with
    width := l.width.set h (widthOf good), laneFail := l.laneFail.set h (~~~good), retrainCnt := satInc l.retrainCnt
    degraded := l.degraded || widthOf good ≠ l.width[h] }

/-- Number of a lane in an event record (Table 12-9). -/
def laneIndex (h : Fin 4) (lane : Nat) : W16 := BitVec.ofNat 16 (h.val / 2 * 8 + lane + 16 * (h.val % 2))

/-- LANE_LOSS: the half-direction retrains; a narrower width is a device-wide event (R254, Table 12-10).
[DEDUCED, unsafe: log 78] -/
def execLaneLoss (h : HalfDir) (lanesGood : Byte) (s : State) : Host.Outcome State Fault Refusal :=
  .next (
    let k := halfIndex h
    let was := s.link.width[k]
    if was = 0 then s else
    let s := s.modLink (fun l => l.fastRetrain k lanesGood)
    let s := if s.link.width[k] = was then s else
      s.raiseDevice { cls := 0x09, part := 5, index := laneIndex k (((List.range 8).find? (fun i => !lanesGood.getLsbD i)).getD 0) }
    s.linkSettle)

/-- RETRAIN_REQ (R256). -/
def State.requestRetrain (s : State) : State := s.modLink (fun l => { l with retrainPend := true })

/-- RETRAIN_REQ. -/
def execRetrainReq (s : State) : Host.Outcome State Fault Refusal := .next s.requestRetrain

/-- LINK_RETRAIN_START: at the boundary once every race is held (R256). -/
def execLinkRetrainStart (lanesGood : Vector Byte 4) (s : State) : Host.Outcome State Fault Refusal :=
  .next (if s.link.retrainPend && s.allHeld && s.boundary then
      (s.modLink (fun l => { l with retrainPend := false })).train lanesGood
    else s)

/-- LINK_DOWN: both halves of a direction are Off (R257). -/
def execLinkDown (s : State) : Host.Outcome State Fault Refusal := .next (if s.link.up then s else s.linkSettle)

/-- LINK_TRAINING_RETRY: full training while the link is down (R257). -/
def execLinkTrainingRetry (lanesGood : Vector Byte 4) (s : State) : Host.Outcome State Fault Refusal :=
  .next (if s.link.up then s else s.train lanesGood)

end Sys2Proof.Machine
end

