-- ==== Sys2Proof/Machine/Power.lean ====
section
/-! DEFINITION. Power: domain, device-state and frequency commands (R400 to R407), power fail (R410), regulator phases and
droop (R399, R409), telemetry and the PMBus page (R412, R413). -/

namespace Sys2Proof.Machine

-- ## Conditions (Table 16-5)

/-- The domains that a domain command concerns: both quads of a port in 800G mode. -/
def State.concerned (s : State) (d : Nat) : List Nat :=
  if s.net.mode800 && decide (64 ≤ d) && decide (d ≤ 71) then [64 + (d - 64) / 2 * 2, 65 + (d - 64) / 2 * 2] else [d]

/-- State of a domain (Table 16-12). -/
def State.domain (s : State) (d : Nat) : BitVec 2 := s.pwr.domains.toList.getD d 2

/-- The tenant holds a round that is not Closed, or a session that is Running or Stopping. -/
def State.tenantBusy (s : State) (t : TenantId) : Bool :=
  s.rounds.toList.any (fun r => match r with
    | some r => r.tenant = t
    | none => false) ||
  s.ctxs.any (fun c => match c.2 with
    | .session x => x.tenant = t && x.state ≠ .idle
    | .part _ => false)

/-- The group holds the race's spare, unused and in reserve, while the race is in service. -/
def State.holdsSpare (s : State) (r : RaceId) (g : Nat) : Bool :=
  s.raceServed r && !s.races[r].spareUse && !s.races[r].spareBad && s.races[r].sparePos.toNat / 5 = g

/-- The result that Table 16-5 gives for leaving On, 0 where the condition holds. [DEDUCED, unsafe: log 117] -/
def State.leaveCheck (s : State) (d : Nat) : BitVec 3 :=
  if d < 40 then
    let r : RaceId := Fin.ofNat 8 (d / 5)
    let busy := match s.owner r with
      | some t => s.tenantBusy t
      | none => false
    if busy || s.holdsSpare r (d % 5) then 2 else 0
  else if d < 48 then
    let r := d - 40
    if (List.range 5).any (fun g => s.domain (5 * r + g) = 0) then 3
    else if (s.owner (Fin.ofNat 8 r)).isSome then 2 else 0
  else if d < 64 then (if (s.owner (Fin.ofNat 8 d)).isSome then 2 else 0)
  else if d < 72 then 0
  else if d < 74 then (if s.domain (145 - d) = 0 then 0 else 3)
  else if d < 76 then 4
  else if d < 78 then
    (if allTenants.any (fun t => s.tenants[t].state ≠ .free && decide (2 ≤ (s.racesOf t).length)) then 2 else 0)
  else if s.allFree then 0 else 2

/-- The result for a domain command, 0 where it may proceed (R401, R402, Tables 16-5, 16-10). [DEDUCED, unsafe: log 117] -/
def State.domainCheck (s : State) (d : Nat) (st : BitVec 2) : BitVec 3 :=
  if 80 ≤ d || st = 3 then 5
  else if s.pwr.devState ≠ 0 then 4
  else (s.concerned d).foldl (fun acc d =>
    if acc ≠ 0 then acc
    else if s.domain d = 0 && st ≠ 0 then s.leaveCheck d
    else if s.domain d ≠ 0 && st = 0 && decide (d < 40) && s.domain (40 + d / 5) ≠ 0 then 3 else 0) 0

/-- The result for a device-state command: its source state, and a stopped sequencer for all but Active (R405).
[DEDUCED, unsafe: log 117] -/
def State.deviceCheck (s : State) (st : BitVec 2) : BitVec 3 :=
  let now := s.pwr.devState
  let from' := match st.toNat with
    | 0 => now = 1 || now = 2
    | 1 => now = 0
    | 2 => now = 0 || now = 1
    | _ => true
  if !from' || (st ≠ 0 && s.tick.running) then 4 else 0

/-- The result for a frequency command (R404). -/
def State.frequencyCheck (s : State) (mhz : BitVec 11) : BitVec 3 :=
  if mhz.toNat < 100 || 1250 < mhz.toNat || mhz.toNat % 25 ≠ 0 then 5 else if mhz < s.tick.priceMhz then 1 else 0

/-- The result of a command's check on arrival. -/
def State.cmdCheck (s : State) (c : PwrCmd) : BitVec 3 :=
  match c.kind.toNat with
  | 0 => s.domainCheck c.domain.toNat c.st
  | 1 => s.deviceCheck c.st
  | _ => s.frequencyCheck c.mhz

-- ## What a command waits for (R329, R403)

/-- A mill of the group runs, or is named by, accepted work that has not completed. -/
def State.groupUsed (s : State) (d : Nat) : Bool :=
  let mine (m : MillName) : Bool := m.race.val = d / 5 && (s.races[m.race].map[m.mill]).toNat / 5 = d % 5
  s.tick.items.any (fun i => i.mills.any mine) ||
    allTenants.any (fun t => s.tenants[t].descs.any (fun x => x.accepted && !x.done && !x.todo.isEmpty && x.mills.any mine))

/-- Accepted work that has not completed and needs the domain. -/
def State.domainUsed (s : State) (d : Nat) : Bool :=
  let undone (p : Desc → Bool) : Bool := allTenants.any (fun t => s.tenants[t].descs.any (fun x => x.accepted && !x.done && p x))
  if d < 40 then s.groupUsed d
  else if 64 ≤ d && d ≤ 71 then undone (fun x => dOp x.line = 0x70 || dOp x.line = 0x44)
  else if d = 72 || d = 73 then undone (fun _ => true)
  else false

/-- A running test uses the domain (Table 17-10). -/
def State.domainTested (s : State) (d : Nat) : Bool :=
  s.mgmt.tests.any (fun p =>
    let x := p.2
    let r := x.race.toNat
    x.running && (match x.code.toNat with
      | 0x10 => decide (d < 40) && decide (d / 5 = r) && decide (d % 5 = x.unit.toNat / 5)
      | 0x11 => d = 48 + r || d = 56 + r
      | 0x12 => d = (if x.unit.toNat < 32 then 48 else 56) + r
      | 0x03 => if x.unit = 0 then d = 72 || d = 73 else decide (64 ≤ d) && decide (d ≤ 71)
      | 0x04 => d = 76 || d = 77
      | 0x05 => d = 56 + r
      | _ => decide (d < 48) && (if d < 40 then d / 5 = r else d = 40 + r)))

/-- The command waits under R329. -/
def State.cmdWaits (s : State) (c : PwrCmd) : Bool :=
  c.kind = 0 && c.st ≠ 0 && (s.concerned c.domain.toNat).any (fun d => s.domainUsed d || s.domainTested d)

-- ## The command slot

/-- PWR_STATUS (Table 16-11). -/
def Pwr.status (p : Pwr) : Nat :=
  b2n p.cmd.isSome + 2 * b2n p.pending + 4 * b2n p.done + 8 * b2n p.cmdErr + 16 * p.result.toNat + 2 ^ 8 * p.devState.toNat +
    2 ^ 10 * b2n p.pfWarn + 2 ^ 11 * b2n p.phaseFault + 2 ^ 16 * p.curMhz.toNat

/-- A command ends: DONE and its RESULT, and the answer to the operator who sent it (R403, R421). -/
def State.endCmd (s : State) (c : PwrCmd) (result : BitVec 3) : State :=
  let s := s.modPwr (fun p => { p with cmd := none, pending := false, done := true, result := result })
  match c.req with
  | some q => s.reply q 0x10 0 (bytesLE 4 s.pwr.status)
  | none => s

/-- A command other than cancel reaches the slot (R402, R403): ignored with CMD_ERR while it is in use, ended at once where
its condition does not hold. -/
def State.powerCommand (s : State) (c : PwrCmd) : State :=
  if s.pwr.cmd.isSome then (s.modPwr (fun p => { p with cmdErr := true })).writeErr 0xB000
  else
    let code := s.cmdCheck c
    if code ≠ 0 then s.endCmd c code else s.modPwr (fun p => { p with cmd := some c, pending := s.cmdWaits c })

/-- KIND cancel: withdraws a command that has not taken effect; with none it ends with STATE, and while the command is in
transition it finds the slot busy. [DEDUCED, unsafe: log 118] -/
def State.powerCancel (s : State) (req : Option ReqId) : State :=
  let me : PwrCmd := { kind := 3, domain := 0, st := 0, mhz := 0, req := req }
  match s.pwr.cmd with
  | none => s.endCmd me 4
  | some c =>
    if c.moving then (s.modPwr (fun p => { p with cmdErr := true })).writeErr 0xB000
    else
      let s := s.endCmd c 6
      if req.isSome then s.endCmd me 6 else s

/-- A write of PWR_CMD by its fields. -/
def State.pwrCmd (s : State) (kind : BitVec 2) (d : BitVec 7) (st : BitVec 2) (mhz : BitVec 11) (req : Option ReqId) : State :=
  if kind = 3 then s.powerCancel req
  else s.powerCommand { kind := kind, domain := d, st := st, mhz := mhz, req := req }

/-- DOMAIN_COMMAND. -/
def execDomainCommand (d : BitVec 7) (st : BitVec 2) (s : State) : Host.Outcome State Fault Refusal := .next (s.pwrCmd 0 d st 0 none)
/-- DEVICE_STATE_COMMAND. -/
def execDeviceStateCommand (st : BitVec 2) (s : State) : Host.Outcome State Fault Refusal := .next (s.pwrCmd 1 0 st 0 none)
/-- FREQUENCY_COMMAND. -/
def execFrequencyCommand (mhz : BitVec 11) (s : State) : Host.Outcome State Fault Refusal := .next (s.pwrCmd 2 0 0 mhz none)
/-- CANCEL_PENDING_COMMAND. -/
def execCancelPendingCommand (s : State) : Host.Outcome State Fault Refusal := .next (s.pwrCmd 3 0 0 0 none)

-- ## Loss of contents (Tables 16-3, 16-4)

/-- A mill whose group has left On: the program store and its tables stay in Retain; what the weight banks and the seed
slots hold afterwards is open (R400). `n` tells the occasion and the mill. [DESIGN CHOICE, safe: log 120] -/
def Mill.unpowered (m : Mill) (n : Nat) (retain : Bool) : Mill :=
  let bank (i : Nat) : Bank := { fmt := (Config.lostBank (2 * n + i)).1, rows := (Config.lostBank (2 * n + i)).2 }
  let seed (i : Nat) : SeedSlot :=
    { key := (Config.lostSeed (4 * n + i)).setWidth 256, pre := ((Config.lostSeed (4 * n + i)) >>> 256).setWidth 64 }
  { image := if retain then m.image else none, imageBy := if retain then m.imageBy else none
    active := bank 0, shadow := bank 1, seeds := Vector.ofFn (fun i => seed i.val) }

/-- The mills of a group lose what the state that they enter does not keep. -/
def State.groupStops (s : State) (d : Nat) (retain : Bool) : State :=
  let r : RaceId := Fin.ofNat 8 (d / 5)
  s.modRace r (fun x => { x with mills := Vector.ofFn (fun k =>
    if (x.map[k]).toNat / 5 = d % 5 then x.mills[k].unpowered (s.tick.count.toNat * 256 + r.val * 25 + (x.map[k]).toNat) retain
    else x.mills[k]) })

/-- A mill group goes Off: scratchpads zero, program stores empty. [DEDUCED, unsafe: log 121] -/
def State.groupOff (s : State) (d : Nat) : State :=
  ({ s with mem := memZero s.mem (scratchAddr (Fin.ofNat 8 (d / 5)) (5 * (d % 5)) 0) (5 * 2 ^ 21) } : State).groupStops d false

/-- What Retain does not keep of a domain: a mill's registers and banks, the random bits already collected (Table 16-3). -/
def State.domainRetains (s : State) (d : Nat) : State :=
  if d < 40 then s.groupStops d true
  else if d = 79 then s.modRng (fun g => { g with pool := [], fifo := [] })
  else s

/-- A PHY domain goes Off: its channels' contents are lost, and they are filled when it is On again (R224, R242).
[DEDUCED, unsafe: log 121] -/
def State.phyOff (s : State) (d : Nat) : State :=
  let r : RaceId := Fin.ofNat 8 d
  let tierB := decide (56 ≤ d)
  let s : State := { s with mem := if tierB then memZero s.mem (burstAddr r 32 0) (14 * 2 ^ 34) else memZero s.mem (burstAddr r 0 0) (32 * 2 ^ 34) }
  let s := s.modMem r (fun m => { m with fillDone := false, errs := m.errs.filter (fun e => decide (e.1 / 2 ^ 29 < 32) = tierB) })
  s.modStart (fun x => { x with filling := if x.filling.any (fun f => f.val = d) then x.filling else x.filling ++ [Fin.ofNat 80 d] })

/-- What a domain loses when it goes Off. See R450. -/
def State.domainOff (s : State) (d : Nat) : State :=
  if d < 40 then s.groupOff d
  else if d < 48 then
    let r : RaceId := Fin.ofNat 8 (d - 40)
    let s : State := { s with mem := memZero s.mem (bufferAddr r 0) (2 ^ 24) }
    s.modHop (hopIndex (.race r)) (fun h => { h.clear true with rebuild := false })
  else if d < 64 then s.phyOff d
  else if d = 72 || d = 73 then
    s.modLink (fun l => { l with laneFail := (l.laneFail.set (Fin.ofNat 4 (2 * (d - 72))) 0xFF).set (Fin.ofNat 4 (2 * (d - 72) + 1)) 0xFF })
  else if d = 78 then { s with ctxs := [] }
  else if d = 79 then
    s.modRng (fun g => { g with
      ready := false, pool := [], drbgs := Vector.replicate 9 {}, fifo := []
      vanes := g.vanes.map (fun v => if v.state = 3 then v else v.restart) })
  else s

/-- What stops when a domain leaves On: ports of a quad, the half's directions. -/
def State.domainStops (s : State) (d : Nat) : State :=
  if 64 ≤ d && d ≤ 71 then
    let q : PortId := Fin.ofNat 8 (if s.net.mode800 then (d - 64) / 2 else d - 64)
    let was := s.net.ports[q].up
    let s := s.modNet (fun n => { n with ports := n.ports.set q { n.ports[q] with up := false } })
    if was && s.pwr.devState = 0 then s.raiseDevice { cls := 0x0A, part := 4, index := BitVec.ofNat 16 q.val } else s
  else if d = 72 || d = 73 then
    s.modLink (fun l => (l.halfOff (Fin.ofNat 4 (2 * (d - 72)))).halfOff (Fin.ofNat 4 (2 * (d - 72) + 1)))
  else s

/-- A domain begins its transition. -/
def State.moveDomain (s : State) (d : Nat) (st : BitVec 2) : State :=
  if s.domain d = st then s else
  let s := if st = 0 then s else s.domainStops d
  let s := if st = 2 then s.domainOff d else if st = 1 && s.domain d = 0 then s.domainRetains d else s
  s.modPwr (fun p => { p with domains := p.domains.set (Fin.ofNat 80 d) 3 })

/-- A domain has reached its state: a link half that kept its equalisation retrains fast, vanes restart, and a PHY domain
whose contents were lost is filled (Table 16-4, R242). -/
def State.domainArrives (s : State) (d : Nat) (st : BitVec 2) : State :=
  if s.domain d ≠ 3 then s else
  let s := s.modPwr (fun p => { p with domains := p.domains.set (Fin.ofNat 80 d) st })
  if st ≠ 0 then s
  else if d = 72 || d = 73 then
    let one (l : Link) (h : Fin 4) : Link := { l with width := l.width.set h (widthOf (~~~l.laneFail[h])) }
    (s.modLink (fun l => one (one l (Fin.ofNat 4 (2 * (d - 72)))) (Fin.ofNat 4 (2 * (d - 72) + 1)))).linkSettle
  else if d = 79 then
    s.modRng (fun g => { g with vanes := g.vanes.map (fun v => if v.state = 3 then v else v.restart) })
  else if 48 ≤ d && d < 64 && s.start.filling.any (fun f => f.val = d) then
    s.modMem (Fin.ofNat 8 d) (fun m => { m with fillActive := true })
  else s

-- ## Effect and end of a command

/-- The domains that Table 16-6 puts into Retain in Idle-retain. [DEDUCED, unsafe: log 119] -/
def idleDomain (d : Nat) : Bool := decide (d < 72) || d = 76 || d = 77 || d = 78

/-- The state that a command gives a domain; `saved` holds the states before the device left Active. -/
def State.cmdTarget (s : State) (c : PwrCmd) (d : Nat) : BitVec 2 :=
  let saved := s.pwr.saved.toList.getD d 0
  if c.kind = 0 then (if (s.concerned c.domain.toNat).contains d then c.st else s.domain d)
  else if c.kind = 1 then
    match c.st.toNat with
    | 0 => saved
    | 1 => if idleDomain d && saved ≠ 2 then 1 else saved
    | _ => if d = 74 || d = 75 || d = 79 then 0
      else if ((decide (48 ≤ d) && decide (d < 64)) || d = 72) && saved ≠ 2 then 1 else 2
  else s.domain d

/-- The power of the logic side is gone: everything takes its value of power-on but the security MRAM, and the messages
already sent (R333, R358, R407, R410). See R63, R396. [DEDUCED, unsafe: log 125] -/
def State.powerOff (s : State) : State :=
  let r := State.reset
  { r with
    pending := s.pending, mgmt := { r.mgmt with out := s.mgmt.out }
    sec := { r.sec with
      lcA := s.sec.lcA, lcB := s.sec.lcB, rootA := s.sec.rootA, rootB := s.sec.rootB, svnA := s.sec.svnA, svnB := s.sec.svnB
      cells := s.sec.cells, slots := s.sec.slots, draws := s.sec.draws } }

/-- The fabric runs at a frequency; every tenant in service hears of it (R404, Table 13-8). [DEDUCED, unsafe: log 119] -/
def State.setFrequency (s : State) (mhz : BitVec 11) : State :=
  let s := s.modPwr (fun p => { p with curMhz := mhz })
  s.raiseAll { cls := 0x22, detail := mhz.setWidth 64 }

/-- The command takes effect. See R24, R411. [DEDUCED, unsafe: log 119] -/
def State.cmdEffect (s : State) (c : PwrCmd) : State :=
  let busy (s : State) : State := s.modPwr (fun p => { p with cmd := some { c with moving := true }, pending := false })
  match c.kind.toNat with
  | 0 =>
    if s.domainCheck c.domain.toNat c.st ≠ 0 then s.endCmd c 2
    else busy (forEach (s.concerned c.domain.toNat) s (fun s d => s.moveDomain d c.st))
  | 1 =>
    if s.deviceCheck c.st ≠ 0 then s.endCmd c 4
    else if c.st = 3 then s.powerOff
    else
      let s := if s.pwr.devState = 0 then s.modPwr (fun p => { p with saved := p.domains }) else s
      -- context records outlive the table's Off state in the journal (R405)
      busy { (forEach (List.range 80) s (fun s d => s.moveDomain d (s.cmdTarget c d))) with ctxs := s.ctxs }
  | _ => busy (if c.mhz ≤ s.pwr.curMhz then s.setFrequency c.mhz else s)

/-- POWER_COMMAND_EFFECT: at a boundary, once R329 lets it (R403). -/
def execPowerCommandEffect (s : State) : Host.Outcome State Fault Refusal :=
  .next (match s.pwr.cmd with
    | none => s
    | some c =>
      if c.moving || !s.boundary then s
      else if s.cmdWaits c then s.modPwr (fun p => { p with pending := true })
      else s.cmdEffect c)

/-- Recovery of every tenant that is not Free, as after a warm reset (R332, R406). [DEDUCED, unsafe: log 41] -/
def State.recoverAll (s : State) : State :=
  forEach (allTenants.filter (fun t => s.tenants[t].state ≠ .free)) s (fun s t => s.resetTenant t)

/-- DONE: the last domain concerned has reached its state (R403, R406). -/
def execDone (s : State) : Host.Outcome State Fault Refusal :=
  .next (match s.pwr.cmd with
    | none => s
    | some c =>
      if !c.moving then s else
      let was := s.pwr.devState
      let s := forEach (List.range 80) s (fun s d => s.domainArrives d (s.cmdTarget c d))
      let s := if c.kind = 1 then s.modPwr (fun p => { p with devState := c.st }) else s
      let s := if c.kind = 2 && s.pwr.curMhz ≠ c.mhz then s.setFrequency c.mhz else s
      let s := if c.kind = 1 && c.st = 0 && was = 2 then s.recoverAll else s
      s.endCmd c 0)

/-- LINK_WAKE: H0 leaves electrical idle in Self-refresh (R406). -/
def execLinkWake (s : State) : Host.Outcome State Fault Refusal :=
  .next (if s.pwr.devState = 2 then s.pwrCmd 1 0 0 0 none else s)

-- ## Input, phases, droop

/-- POWER_FAIL: the tick is abandoned and the module loses its power; operators are told (R410, Table 17-6). The
converters stop, and the PMBus page with them (R466). [DEDUCED, unsafe: log 125] -/
def execPowerFail (_ : PowerFailCause) (s : State) : Host.Outcome State Fault Refusal :=
  .next (if !s.pwr.alive then s else
    let r : LogRec := { seq := s.mgmt.logSeq, tick := s.tick.count, cls := 0x43, sev := severity 0x43, tenant := 0xFF, part := 0,
                        race := 0xFF, index := 0, detail := 0 }
    (s.eventMsg r).powerOff)

/-- THERMAL_SHUTDOWN: the converters stop; PFAIL is released as the rails fall (R465, R470). [DEDUCED, unsafe: log 125] -/
def execThermalShutdown (s : State) : Host.Outcome State Fault Refusal := .next (if s.pwr.alive then s.powerOff else s)

/-- LOW_INPUT_WARNING (Table 16-1). See R396. [PRESUMED, unsafe: log 123] -/
def execLowInputWarning (s : State) : Host.Outcome State Fault Refusal :=
  .next (if !s.pwr.alive then s else
    (s.modPwr (fun p => { p with pfWarn := true, stInput := p.stInput ||| 0x20 })).logEvent 0xFF { cls := 0x47 })

/-- The remaining phases of a rail carry its most load (Table 16-2). [DESIGN CHOICE, safe: log 122] -/
def railHolds (rail : Fin 15) (n : Nat) : Bool :=
  match rail with
  | 8 => decide (251 ≤ 25 * n)
  | 9 => decide (15 ≤ 20 * n)
  | 10 => decide (15 ≤ n) || Config.railCarries 10 n
  | 11 => decide (7 ≤ n) || Config.railCarries 11 n
  | 12 => decide (89 ≤ 25 * n)
  | 13 => decide (34 ≤ 25 * n)
  | 14 => decide (2600 ≤ 550 * n)
  | _ => decide (200 ≤ 25 * n)

/-- PHASE_FAULT: the phase is shed, the tenants of the races that the rail feeds hear of it, and a rail that cannot carry
its load asserts the fatal alarm (R399, Table 12-10). -/
def execPhaseFault (rail : Fin 15) (phase : BitVec 5) (s : State) : Host.Outcome State Fault Refusal :=
  .next (
    if s.pwr.rails[rail].phases = 0 then s else
    let s := s.modPwr (fun p => { p with
      phaseFault := true, rails := p.rails.set rail { p.rails[rail] with phases := p.rails[rail].phases - 1, fault := true } })
    let e : Event := { cls := 0x0F, part := 7, index := phase.setWidth 16 }
    let s := if h : rail.val < 8 then s.raiseRace ⟨rail.val, h⟩ e
      else if rail = 10 || rail = 11 then s.raiseAll e else s.raiseDevice e
    if railHolds rail s.pwr.rails[rail].phases.toNat then s
    else (s.modPwr (fun p => { p with fatalN := true })).logEvent 0xFF { cls := 0x42, part := 7, index := rail.val })

/-- DROOP: removed cycles of a race are counted in units of 1,024, saturating (R409, Table 16-14). See R36, R339. -/
def execDroop (r : RaceId) (cycles : W32) (s : State) : Host.Outcome State Fault Refusal :=
  .next (s.modPwr (fun p =>
    let n := p.stretchRem[r].toNat + cycles.toNat
    { p with
      stretchRem := p.stretchRem.set r (BitVec.ofNat 10 n)
      stretch := p.stretch.set r (BitVec.ofNat 32 (min (2 ^ 32 - 1) (p.stretch[r].toNat + n / 1024))) }))

-- ## Telemetry and the PMBus page

/-- TELEMETRY_SAMPLE (R412). -/
def execTelemetrySample (x : PowerSample) (s : State) : Host.Outcome State Fault Refusal :=
  .next (s.modPwr (fun p => { p with
    vin := x.vin, pinW := x.pinW, peakW := if p.peakW < x.peakW then x.peakW else p.peakW
    iin := x.iin, busV := x.busV, tRace := x.tRace, tConv := x.tConv, draw := x.draw, temp := x.temp
    stTemp := if 1050 < x.tRace.toNat then 0x40 else 0
    rails := Vector.ofFn (fun k => { p.rails[k] with mv := x.railMv[k], amps := x.railA[k] }) }))

/-- CLR. -/
def State.clearPeak (s : State) : State := s.modPwr (fun p => { p with peakW := 0 })

/-- CLR. -/
def execClr (s : State) : Host.Outcome State Fault Refusal := .next s.clearPeak

/-- The bytes of a block read: their count first. [PRESUMED, unsafe: log 123] -/
def pmBlock (x : String) : List Byte := BitVec.ofNat 8 x.length :: ascii x

/-- The value of a command of Table 16-9, none for another. [PRESUMED, unsafe: log 123] -/
def Pwr.pmbus (p : Pwr) (code : Byte) : Option (List Byte) :=
  let word (x : W16) : List Byte := bytesLE 2 x.toNat
  match code.toNat with
  | 0x19 => some [0xA0]
  | 0x20 => some [0x14]
  | 0x79 => some (word (Config.statusWord (p.stInput ||| p.stTemp) p.cml))
  | 0x7C => some [p.stInput]
  | 0x7D => some [p.stTemp]
  | 0x88 => some (word (Config.linear11 0x88 p.vin))
  | 0x89 => some (word (Config.linear11 0x89 p.iin))
  | 0x8B => some (word p.busV)
  | 0x8D => some (word (Config.linear11 0x8D p.tRace))
  | 0x8E => some (word (Config.linear11 0x8E p.tConv))
  | 0x97 => some (word (Config.linear11 0x97 p.pinW))
  | 0x98 => some [0x33]
  | 0x99 => some (pmBlock "OHMD")
  | 0x9A => some (pmBlock "OSL-IM9")
  | _ => none

/-- PMBUS_READ (R413): an unknown command reads 0xFF and sets CML. -/
def execPmbusRead (code : Byte) (s : State) : Host.Outcome State Fault Refusal :=
  .next (if !s.pwr.alive then s else s.modPwr (fun p => match p.pmbus code with
    | some bs => { p with pmOut := bs }
    | none => { p with pmOut := [0xFF], cml := true }))

/-- PMBUS_WRITE: a write or a send-byte has no effect but CML (R413). -/
def execPmbusWrite (_ : Byte) (_ : List Byte) (s : State) : Host.Outcome State Fault Refusal :=
  .next (if s.pwr.alive then s.modPwr (fun p => { p with cml := true }) else s)

end Sys2Proof.Machine
end

