-- ==== Sys2Proof/Machine/Rings.lean ====
section
/-! DEFINITION. The registers and doorbell pages of the rings: settings, ENABLE, CANCEL and RESTART (R271 to R275,
R454), the doorbell map (R268, R280), and the reads and writes of doorbell pages (R269, R270). -/

namespace Sys2Proof.Machine

-- ## Refused set-up writes (R453, Table 19-5)

/-- A write refused under a rule whose flag is TCK_STATUS.PLAN_ERR. -/
def State.refusePlan (s : State) (addr : Nat) : State := s.planErr.writeErr addr

-- ## The doorbell map

/-- VALID of an entry of HLK_DB_MAP (Table 10-19). -/
def dbValid (e : BitVec 11) : Bool := e.getLsbD 0
/-- TENANT of an entry. -/
def dbTenant (e : BitVec 11) : TenantId := Fin.ofNat 8 (fld e.toNat 1 3)
/-- KIND of an entry: a completion ring. -/
def dbKind (e : BitVec 11) : Bool := e.getLsbD 4
/-- RING of an entry. -/
def dbRing (e : BitVec 11) : Nat := fld e.toNat 5 6

/-- The entry of a doorbell page. -/
def State.dbEntry (s : State) (page : Nat) : BitVec 11 := sget s.link.dbMap page 0

/-- The race whose ring registers are those of a tenant number: its lowest race, unless another tenant owns it (R271, R4). -/
def State.ringRace (s : State) (t : TenantId) : Option RaceId :=
  ((s.racesOf t).head?).filter (fun r => s.owner r = none || s.owner r = some t)

/-- The doorbell entry of a page names the ring whose registers lie in a race (R454). -/
def State.dbNames (s : State) (r : RaceId) (kind : Bool) (ring page : Nat) : Bool :=
  let e := s.dbEntry page
  dbValid e && dbKind e = kind && dbRing e = ring && s.ringRace (dbTenant e) = some r

/-- IDLE: the ring has no fetched descriptor whose record is unwritten (R274, Table 10-20). -/
def State.wringIdle (s : State) (r : RaceId) (w : Fin 64) : Bool :=
  match s.owner r with
  | none => true
  | some t => s.lowest t ≠ r || s.tenants[t].descs.all (fun d => d.ring ≠ w)

/-- A work ring's registers accept settings: ENABLE is 0 and IDLE is 1 (R274). -/
def State.wringOpen (s : State) (r : RaceId) (w : Fin 64) : Bool := !s.races[r].wrings[w].enable && s.wringIdle r w
/-- The same for a completion ring: ENABLE is 0 and EMPTY is 1. -/
def State.cringOpen (s : State) (r : RaceId) (c : Fin 16) : Bool :=
  !s.races[r].crings[c].enable && (s.races[r].crings[c]).empty

/-- The ring that an entry names, if any, accepts settings. -/
def State.dbOpen (s : State) (e : BitVec 11) : Bool :=
  if !dbValid e then true else
  match s.ringRace (dbTenant e) with
  | none => true
  | some r => if dbKind e then s.cringOpen r (Fin.ofNat 16 (dbRing e)) else s.wringOpen r (Fin.ofNat 64 (dbRing e))

/-- A write of HLK_DB_MAP: accepted while the ring it names and the ring it replaces accept settings; a completion ring
above 15 is refused (R280, Table 10-19). The host's copies of the page's lines are invalidated first (R263). -/
def State.writeDbMap (s : State) (page : Byte) (v : BitVec 11) (addr : Nat) : State :=
  if (dbKind v && decide (15 < dbRing v)) || !s.dbOpen v || !s.dbOpen (s.dbEntry page.toNat) then s.refusePlan addr
  else ((s.snoopPage page 0).snoopPage page 1).modLink (fun l => { l with dbMap := sset l.dbMap page.toNat v })

-- ## Work-ring registers

/-- Address of a word of a work ring's registers. -/
def wringAddr (r : RaceId) (w : Fin 64) (word : Nat) : Nat := raceReg r (0x2000 + w.val * 0x10 + word * 4)
/-- Address of a word of a completion ring's registers. -/
def cringAddr (r : RaceId) (c : Fin 16) (word : Nat) : Nat := raceReg r (0x2400 + c.val * 0x10 + word * 4)

/-- LOG2N, CRING, PAGE and ENABLE as one write carries them: stored only if settings that change could be written
alone, LOG2N is 6 to 20, and a set ENABLE finds its doorbell entry (R274, R454). -/
def State.setWring (s : State) (r : RaceId) (w : Fin 64) (log2n : BitVec 5) (cring : BitVec 4) (page : Byte) (on : Bool) :
    State :=
  let x := s.races[r].wrings[w]
  let change := log2n ≠ x.log2n || cring ≠ x.cring || page ≠ x.page
  let settings := !change || (s.wringOpen r w && decide (6 ≤ log2n.toNat) && decide (log2n.toNat ≤ 20))
  if settings && (!on || s.dbNames r false w.val page.toNat) then
    s.modWring r w (fun x => { x with log2n := log2n, cring := cring, page := page, enable := on })
  else s.refusePlan (wringAddr r w 2)

/-- CANCEL: acts at the next commit, on a ring of a tenant's lowest race (R271, R274). [DEDUCED, unsafe: log 72] -/
def State.cancelRing (s : State) (r : RaceId) (w : Fin 64) : State :=
  match s.owner r with
  | some t => if s.lowest t = r then s.modWring r w (fun x => { x with cancel := true }) else s
  | none => s

/-- RESTART: STOP is cleared, and the plan reads the slot again (R272). [DEDUCED, unsafe: log 72] -/
def State.restartRing (s : State) (r : RaceId) (w : Fin 64) : State := s.ringStatus r w (fun x => { x with stop := 0 })

/-- A write of HLK_WRING_CFG. -/
def State.writeWringCfg (s : State) (r : RaceId) (w : Fin 64) (v : Nat) : State :=
  let s := if bitOf v 15 then s.modWring r w (fun x => { x with dbErr := false }) else s
  let s := if bitOf v 11 then s.restartRing r w else s
  let s := s.setWring r w (BitVec.ofNat 5 v) (BitVec.ofNat 4 (fld v 5 4)) (BitVec.ofNat 8 (fld v 16 8)) (bitOf v 9)
  if bitOf v 10 then s.cancelRing r w else s

/-- HLK_WRING_CFG as it reads. -/
def State.readWringCfg (s : State) (r : RaceId) (w : Fin 64) : Nat :=
  let x := s.races[r].wrings[w]
  x.log2n.toNat + x.cring.toNat * 2 ^ 5 + b2n x.enable * 2 ^ 9 + b2n (s.wringIdle r w) * 2 ^ 12 + x.stop.toNat * 2 ^ 13 +
    b2n x.dbErr * 2 ^ 15 + x.page.toNat * 2 ^ 16

/-- A base with one word replaced; bits [11:0] stay 0. -/
def putBase (b : W64) (hi : Bool) (v : Nat) : W64 :=
  if hi then BitVec.ofNat 64 (putFld b.toNat 32 32 v) else BitVec.ofNat 64 (putFld b.toNat 12 20 (v / 4096))

/-- A write of a word of a work ring's base. -/
def State.writeWringBase (s : State) (r : RaceId) (w : Fin 64) (hi : Bool) (v : Nat) : State :=
  if s.wringOpen r w then s.modWring r w (fun x => { x with base := putBase x.base hi v })
  else s.refusePlan (wringAddr r w (b2n hi))

-- ## Completion-ring registers

/-- LOG2M, PAGE and ENABLE as one write carries them. -/
def State.setCring (s : State) (r : RaceId) (c : Fin 16) (log2m : BitVec 5) (page : Byte) (on : Bool) : State :=
  let x := s.races[r].crings[c]
  let change := log2m ≠ x.log2m || page ≠ x.page
  let settings := !change || (s.cringOpen r c && decide (7 ≤ log2m.toNat) && decide (log2m.toNat ≤ 20))
  if settings && (!on || s.dbNames r true c.val page.toNat) then
    s.modCring r c (fun x => { x with log2m := log2m, page := page, enable := on })
  else s.refusePlan (cringAddr r c 2)

/-- A write of HLK_CRING_CFG. -/
def State.writeCringCfg (s : State) (r : RaceId) (c : Fin 16) (v : Nat) : State :=
  let s := if bitOf v 7 then s.modCring r c (fun x => { x with dbErr := false }) else s
  s.setCring r c (BitVec.ofNat 5 v) (BitVec.ofNat 8 (fld v 8 8)) (bitOf v 5)

/-- HLK_CRING_CFG as it reads. -/
def CompRing.cfg (x : CompRing) : Nat :=
  x.log2m.toNat + b2n x.enable * 2 ^ 5 + b2n x.empty * 2 ^ 6 + b2n x.dbErr * 2 ^ 7 + x.page.toNat * 2 ^ 8

/-- A write of a word of a completion ring's base. -/
def State.writeCringBase (s : State) (r : RaceId) (c : Fin 16) (hi : Bool) (v : Nat) : State :=
  if s.cringOpen r c then s.modCring r c (fun x => { x with base := putBase x.base hi v })
  else s.refusePlan (cringAddr r c (b2n hi))

-- ## The commands

/-- ENABLE (R454): the settings stay as they are. -/
def execEnable (r : RaceId) (ring : RingName) (on : Bool) (s : State) : Host.Outcome State Fault Refusal :=
  .next (match ring with
    | .work w => s.setWring r w s.races[r].wrings[w].log2n s.races[r].wrings[w].cring s.races[r].wrings[w].page on
    | .comp c => s.setCring r c s.races[r].crings[c].log2m s.races[r].crings[c].page on)

/-- CANCEL (R274). -/
def execCancel (r : RaceId) (w : Fin 64) (s : State) : Host.Outcome State Fault Refusal := .next (s.cancelRing r w)

/-- RESTART (R272). -/
def execRestart (r : RaceId) (w : Fin 64) (s : State) : Host.Outcome State Fault Refusal := .next (s.restartRing r w)

/-- HLK_CLASS_CANCEL: acts at the next commit on every ring of the tenant (R274). -/
def State.cancelClasses (s : State) (t : TenantId) (classes : BitVec 4) : State :=
  s.modTenant t (fun x => { x with classCancel := x.classCancel ||| classes })

/-- HLK_CLASS_CANCEL. -/
def execHlkClassCancel (t : TenantId) (classes : BitVec 4) (s : State) : Host.Outcome State Fault Refusal :=
  .next (s.cancelClasses t classes)

-- ## Doorbell pages

/-- Credits that a request gives back: pool and slots (R261). -/
def State.credit (s : State) (pool slots : Nat) : State :=
  s.modLink (fun l => { l with credits := l.credits ++ [(BitVec.ofNat 8 pool, BitVec.ofNat 8 slots)] })

/-- The 64 bytes of a line of a doorbell page (Table 10-7). [DEDUCED, unsafe: log 70] -/
def State.dbLine (s : State) (page line : Nat) : List Byte :=
  let e := s.dbEntry page
  match if dbValid e then s.ringRace (dbTenant e) else none with
  | none => padTo 64 []
  | some r =>
    if dbKind e then
      let x := s.races[r].crings[(Fin.ofNat 16 (dbRing e))]
      padTo 64 (if line = 0 then bytesLE 8 x.consumed.toNat else if line = 1 then bytesLE 8 x.written.toNat else [])
    else
      let x := s.races[r].wrings[(Fin.ofNat 64 (dbRing e))]
      padTo 64 (if line = 0 then bytesLE 8 x.producer.toNat
        else if line = 1 then bytesLE 8 x.released.toNat ++ bytesLE 8 x.next.toNat ++ bytesLE 8 x.stop.toNat else [])

/-- The request names the doorbell window of a module that is ready (R437, R446). [DEDUCED, unsafe: log 71] -/
def State.dbServed (s : State) (addr : W64) : Bool := s.start.ready && decide (addr.toNat < 2 ^ 20)

/-- The host may hold this line of a page from now on (R263). -/
def State.noteLine (s : State) (page line : Nat) : State :=
  if 1 < line then s else
  let k := page + (if line = 0 then 256 else 0)
  s.modLink (fun l => if l.hostLines.contains k then l else { l with hostLines := l.hostLines ++ [k] })

/-- DB_RD (R263, R269). [DEDUCED, unsafe: log 69; DEDUCED, unsafe: log 70] -/
def State.dbRd (s : State) (tag : BitVec 12) (addr : W64) : State :=
  let s := s.credit 8 1
  if !s.dbServed addr then s.sendCpl tag 1 else
  let page := addr.toNat / 4096
  let line := addr.toNat % 4096 / 64
  (s.noteLine page line).sendCplData tag (toSlots (s.dbLine page line))

/-- DB_RD. -/
def execDbRd (tag : BitVec 12) (addr : W64) (s : State) : Host.Outcome State Fault Refusal := .next (s.dbRd tag addr)

/-- A doorbell value reaches its ring: the newest value taken, or DB_ERR (R270). -/
def State.doorbell (s : State) (e : BitVec 11) (r : RaceId) (v : W48) : State :=
  if dbKind e then
    s.modCring r (Fin.ofNat 16 (dbRing e)) (fun x =>
      if seqBefore v x.consumed || seqBefore x.written v then { x with dbErr := true } else { x with consumed := v })
  else
    s.modWring r (Fin.ofNat 64 (dbRing e)) (fun x =>
      if seqBefore v x.producer || decide (x.slots < (v - x.released).toNat) then { x with dbErr := true }
      else { x with producer := v })

/-- DB_WR: 8 bytes at offset 0 of an assigned page; any other write is ignored (R269, R270). -/
def State.dbWr (s : State) (tag : BitVec 12) (addr : W64) (be : W32) (value : W64) : State :=
  if !s.dbServed addr then (s.credit 8 2).sendCpl tag 1 else
  let e := s.dbEntry (addr.toNat / 4096)
  let s := s.credit (if dbValid e then (dbTenant e).val else 8) 2
  match if dbValid e && addr.toNat % 4096 = 0 && fld be.toNat 0 16 = 0x00FF then s.ringRace (dbTenant e) else none with
  | none => s
  | some r => s.doorbell e r (value.setWidth 48)

/-- DB_WR. -/
def execDbWr (tag : BitVec 12) (addr : W64) (be : W32) (value : W64) (s : State) : Host.Outcome State Fault Refusal :=
  .next (s.dbWr tag addr be value)

end Sys2Proof.Machine
end

