-- ==== Sys2Proof/Machine/StartUp.lean ====
section
/-! DEFINITION. Start-up (R434 to R444, Tables 18-1 to 18-3), and the fill of PHY domains (R242, R243). -/

namespace Sys2Proof.Machine

/-- The outcome of the self-test of a race's physical mills (R438). -/
def State.testMills (s : State) (r : RaceId) (fail : BitVec 25) : State :=
  let bad := (List.range 25).filter (fun p => fail.getLsbD p)
  let s := s.logTest (BitVec.ofNat 8 r.val) 0 (if bad.isEmpty then 0 else 1) bad.length
  match bad with
  | [] => s
  | p :: rest =>
    let s := s.modRace r (fun x => { x with retired := true, lastPm := BitVec.ofNat 5 (bad.getLastD 0) })
    if !rest.isEmpty then (s.raceOut r).modStart (fun x => { x with raceOos := true })
    else if h : p < 24 then
      (s.modRace r (fun x => { x with map := x.map.set p 24, sparePos := BitVec.ofNat 5 p, spareUse := true })).modStart
        (fun x => { x with millMapped := true })
    else s.modRace r (fun x => { x with spareBad := true })

/-- A channel of a race that fails its training is lost from the start; the fallback of a lost tier A channel needs no
restore (R439). -/
def State.startLost (s : State) (r : RaceId) (ch : Fin 46) : State :=
  let s := (s.loseChannel r ch false).modStart (fun x => { x with lostCh := true })
  let s := if ch.val < 32 && !s.races[r].mem.fbActive then
      s.modMem r (fun m => { m with fbActive := true, fbChannel := BitVec.ofNat 5 ch.val, fbRestored := true })
    else s
  if s.races[r].oos then s.modStart (fun x => { x with raceOos := true }) else s

/-- The channels of a race that fail their training. -/
def State.trainMemory (s : State) (su : StartUp) (r : RaceId) : State :=
  forEach (List.finRange 46) s (fun s ch =>
    if (if ch.val < 32 then su.lostA[r].getLsbD ch.val else su.lostB[r].getLsbD (ch.val - 32)) then s.startLost r ch else s)

/-- Steps 3 to 11 of Table 18-1; the fill of step 9 goes on until FILL_DONE. -/
def State.startSteps (s : State) (su : StartUp) : State :=
  let s := forEach allRaces s (fun s r => s.testMills r su.millFail[r])
  let s := forEach allRaces s (fun s r => s.trainMemory su r)
  let s := forEach allRaces s (fun s r => s.modMem r (fun m => { m with fillActive := true }))
  let s := (s.modStart (fun x => { x with step := 3, filling := (List.range 16).map (fun k => Fin.ofNat 80 (48 + k)) })).train
    su.lanesGood
  let s := s.modNet (fun n => { n with ports := Vector.ofFn (fun q => { n.ports[q] with up := su.portsUp.getLsbD q.val }) })
  s.modMgmt (fun g => { g with linkUp := true })

/-- Steps 1 and 2: without the mill reference the sequence waits. See R461. [DESIGN CHOICE, unsafe: log 126] -/
def State.startUp (s : State) (su : StartUp) : State :=
  let s := (s.modPwr (fun p => { p with alive := true, pfail := false })).modStart (fun x => { x with su := su })
  if su.millRef then s.startSteps su else s.modStart (fun x => { x with step := 6 })

/-- POWER_GOOD_RISE (R398, R435). -/
def execPowerGoodRise (su : StartUp) (s : State) : Host.Outcome State Fault Refusal :=
  .next (if s.pwr.alive || !su.inputInRange then s else (s.powerOff).startUp su)

/-- MILL_REFERENCE_APPEARS: start-up resumes (R434). -/
def execMillReferenceAppears (su : StartUp) (s : State) : Host.Outcome State Fault Refusal :=
  .next (if s.pwr.alive && s.start.step = 6 then (s.modStart (fun x => { x with su := su })).startSteps su else s)

/-- CLK_ERR (R434). -/
def execClkErr (s : State) : Host.Outcome State Fault Refusal :=
  .next (if s.pwr.alive && s.start.step = 6 then s.modStart (fun x => { x with clkErr := true }) else s)

/-- Bursts that the verify found in error receive a remap entry with the zero code word (R243). -/
def State.verifyBad (s : State) (d : Fin 80) (bad : List (Fin 46 × BitVec 29)) : State :=
  let r : RaceId := Fin.ofNat 8 d.val
  forEach (bad.filter (fun b => decide (b.1.val < 32) = decide (d.val < 56))) s (fun s b =>
    let s := s.remapWord r b.1 b.2.toNat (List.replicate 32 0)
    let s := if s.races[r].mem.lost b.1 && !s.start.ready then s.startLost r b.1 else s
    s)

/-- FILL_DONE: the domain's channels are filled and verified, and it carries data (R242, R243, Table 9-8). -/
def execFillDone (domain : Fin 80) (bad : List (Fin 46 × BitVec 29)) (s : State) : Host.Outcome State Fault Refusal :=
  .next (
    if !s.start.filling.contains domain || s.domain domain.val ≠ 0 then s else
    let r : RaceId := Fin.ofNat 8 domain.val
    let s := (s.verifyBad domain bad).modStart (fun x => { x with filling := x.filling.filter (· ≠ domain) })
    let more := s.start.filling.any (fun f => f.val % 8 = r.val)
    s.modMem r (fun m => { m with fillActive := more, fillDone := !more }))

/-- Everything that step 12 waits for has ended (Table 18-1, R436). [DESIGN CHOICE, unsafe: log 126] -/
def State.startReady (s : State) : Bool :=
  s.pwr.alive && !s.start.ready && s.start.step = 3 && s.start.filling.isEmpty && (s.rng.ready || s.rng.fatal)

/-- The boot value of R307, drawn at power-on; none without random numbers (R440). -/
def State.drawBoot (s : State) : State :=
  match s.drawDevice 4 with
  | (s, some bs) => s.modNet (fun n => { n with boot := some (BitVec.ofNat 32 (natLE bs)) })
  | (s, none) => s

/-- READY (R436): partitions in SECDED mode, tenants Free, and a held ENABLE takes effect. -/
def execReady (s : State) : Host.Outcome State Fault Refusal :=
  .next (
    if !s.startReady then s else
    let s : State := { s with hops := s.hops.map (fun h => h.clear true) }
    let s := s.drawBoot
    let s := s.modNet (fun n => { n with enable := n.enable || n.held, held := false })
    s.modStart (fun x => { x with ready := true, step := 5, readyMs := x.su.pgoodMs, linkLate := !s.link.up }))

end Sys2Proof.Machine
end

