-- ==== Sys2Proof/Machine/RegRead.lean ====
section
/-! DEFINITION. What every set-up register reads as (R445, R446, Tables 19-2 to 19-4, and the field maps they point to),
and the reads that change something: the latches of R448 and the raw-data FIFO of Table 15-7. -/

namespace Sys2Proof.Machine

/-- Packs fields, each with its low bit. -/
def pack (fs : List (Nat × Nat)) : Nat := fs.foldl (fun w f => w + f.1 * 2 ^ f.2) 0

/-- Packs flags from bit 0 up. -/
def packBits (bs : List Bool) : Nat := bs.foldr (fun b w => b2n b + 2 * w) 0

/-- The index of a register array: `o` lies in `n` entries of `stride` bytes from `base`. -/
def arrayAt (o base stride n : Nat) : Option (Nat × Nat) :=
  if base ≤ o && decide (o < base + stride * n) then some ((o - base) / stride, (o - base) % stride) else none

/-- Low word of a value. -/
def lo32 (v : Nat) : Nat := v % 2 ^ 32
/-- High word of a value. -/
def hi32 (v : Nat) : Nat := v / 2 ^ 32 % 2 ^ 32

-- ## The tick, the hopper, the link (device block)

/-- TCK_* registers of the device block (Tables 2-9 to 2-13). -/
def State.regTick (s : State) (o : Nat) : Nat :=
  let k := s.tick
  match o with
  | 0x2000 => pack [(b2n k.run, 0), (k.margin.toNat, 4)]
  | 0x2004 => pack [(k.period.toNat, 0), (k.priceMhz.toNat, 16)]
  | 0x2008 => k.source.toNat
  | 0x200C => k.offset.toNat
  | 0x2010 => packBits [k.running, k.locked, k.lockLost, k.paramErr, k.planErr, k.overrun] + k.overrunCnt.toNat * 2 ^ 8
  | 0x2014 => lo32 k.count.toNat
  | 0x2018 => k.latch.toNat
  | 0x201C => if k.source = 1 || k.source = 2 then k.phaseErr.toNat else 0
  | _ => 0

/-- A word of a slot table (Table 2-14). -/
def State.regSlot (s : State) (path word : Nat) : Nat :=
  if h : path < 13 then
    (List.range 8).foldl (fun w i => w + (s.tick.slots[path].toList.getD (8 * word + i) 0xF).toNat * 2 ^ (4 * i)) 0
  else 0

/-- HOP_CTRL, HOP_STATUS and HOP_POISON of a partition (Tables 7-10 to 7-12). -/
def State.regHop (s : State) (p : HopName) (word : Nat) : Nat :=
  let h := s.hop p
  match word with
  | 0 => packBits [h.secded, h.modeNext, false, h.resetPend]
  | 1 => packBits [h.poison, h.overrun, h.wm, h.recovered] + min 15 h.retired.length * 2 ^ 4 + h.eccCnt.toNat * 2 ^ 8 +
      min 0xFFFF (s.hopFree p) * 2 ^ 16
  | 2 => pack [(h.lastQueue.toNat, 0), (h.lastCell.toNat, 14), (b2n h.seqErr, 31)]
  | _ => 0

/-- HOP_QSTAT of a queue (Table 7-13). [DEDUCED, unsafe: log 8] -/
def State.regQueue (s : State) (p : HopName) (q : Nat) : Nat :=
  let x := s.hopQ p q
  pack [(x.depth, 0), (b2n (s.hopFull p q), 18), (b2n x.overrun, 19), (x.wmCnt.toNat, 20), (x.wmLevel.toNat, 24)]

/-- The partition of a queue of the device hopper (R186). -/
def devicePart (q : Nat) : HopName := if q < 8192 then .tenant (Fin.ofNat 8 (q / 1024)) else .device

/-- The partition of the device block's copies of HOP_CTRL: 0 to 7 of the tenants, 8 of the device. -/
def copyPart (p : Nat) : HopName := if p < 8 then .tenant (Fin.ofNat 8 p) else .device

/-- HLK_LINK_* registers (Tables 10-14 to 10-17). -/
def State.regLink (s : State) (o : Nat) : Nat :=
  let l := s.link
  match o with
  | 0x4000 => pack [(l.width[0].toNat, 0), (l.width[1].toNat, 2), (l.width[2].toNat, 4), (l.width[3].toNat, 6), (b2n l.up, 8),
      (b2n l.degraded, 9), (b2n l.downEvent, 10), (l.constH2D.toNat, 16), (l.constD2H.toNat, 24)]
  | 0x4004 => pack [(l.crcCnt.toNat, 0), (l.nakCnt.toNat, 16), (l.retrainCnt.toNat, 24)]
  | 0x4008 => pack [(l.laneFail[0].toNat, 0), (l.laneFail[1].toNat, 8), (l.laneFail[2].toNat, 16), (l.laneFail[3].toNat, 24)]
  | 0x400C => 2 * b2n l.retrainPend
  | _ => 0

-- ## Tenants, rounds, journal

/-- MGT_TEN_* of a tenant number (Tables 13-10 to 13-13). -/
def State.regTenant (s : State) (t : TenantId) (off : Nat) : Nat :=
  let x := s.tenants[t]
  match off with
  | 0x0 => pack [(x.races.toNat, 0), (x.rounds.toNat, 8), (x.keySlots.toNat, 13)]
  | 0x4 => pack [(x.draftBase.toNat, 0), (x.draftSize.toNat, 7)]
  | 0x8 => pack [(x.state.code, 4), (x.setupErr.toNat, 8), (x.debugRaces.toNat, 12)]
  | 0xC => pack [(x.permille.toNat, 0), (b2n x.scrubDone, 10), (x.discarded.toNat, 11)]
  | _ => 0

/-- AGG_ROUND of a slot (Table 5-15). See R156. -/
def State.regRound (s : State) (k : Fin 64) : Nat :=
  match s.rounds[k] with
  | none => 0
  | some r => pack [(r.state.code, 0), (r.tenant.val, 4), (b2n r.chainIn, 7)]

/-- JNL_TENANT of a tenant number (Table 12-13). -/
def State.regJnl (s : State) (t : TenantId) (off : Nat) : Nat :=
  let j := s.tenants[t].jnl
  match off with
  | 0x0 => j.free
  | 0x4 => lo32 j.commitTick.toNat
  | 0x8 => (s.tick.commitLatch[t]).toNat
  | 0xC => pack [(j.eventRing.toNat, 0), (b2n j.eventEn, 4), (j.eventCnt.toNat, 5), (j.abandoned.toNat, 16)]
  | _ => 0

-- ## The network

/-- Word `i` of an address in the order of NET_ADDR6: word 0 holds bits [127:96] (Table 11-11). -/
def addrWord (a : BitVec 128) (i : Nat) : Nat := fld a.toNat (96 - 32 * i) 32

/-- NET_CTRL: before READY a held ENABLE reads as written (R437). -/
def Net.ctrl (n : Net) : Nat :=
  pack [(b2n (n.enable || n.held), 0), (b2n n.mode800, 1), (b2n n.timeSrc, 2), (n.dscp.toNat, 3), (n.portEn.toNat, 9)]

/-- NET_STATUS (Table 11-12). -/
def Net.status (n : Net) : Nat :=
  packBits (n.ports.toList.map (·.up)) + packBits [n.cfgErr, n.idConflict, n.peerFull, n.formed] * 2 ^ 8

/-- Identity, address and timeout registers, and NET_CTRL and NET_STATUS (Tables 11-10 to 11-12). -/
def Net.reg (n : Net) (o : Nat) : Nat :=
  match o with
  | 0x6000 => n.ctrl
  | 0x6004 => pack [(n.moduleId.toNat, 0), (n.pathsM1.toNat, 16)]
  | 0x6008 => n.site.toNat
  | 0x600C => pack [(n.dstPort.toNat, 0), (n.srcBase.toNat, 16)]
  | 0x6010 => n.addr4.toNat
  | 0x6014 => n.addr6[0].toNat
  | 0x6018 => n.addr6[1].toNat
  | 0x601C => n.addr6[2].toNat
  | 0x6020 => n.addr6[3].toNat
  | 0x6024 => n.disc4.toNat
  | 0x6028 => n.disc6[0].toNat
  | 0x602C => n.disc6[1].toNat
  | 0x6030 => n.disc6[2].toNat
  | 0x6034 => n.disc6[3].toNat
  | 0x6038 => lo32 n.mac.toNat
  | 0x603C => hi32 n.mac.toNat
  | 0x6040 => n.reasmMs.toNat
  | 0x6044 => n.status
  | 0x6200 => pack [(b2n n.ptpEn, 0), (n.ptpPort.toNat, 1), (b2n n.ptpLocked, 4)]
  | 0x6204 => n.ptpOffset.toNat
  | 0x6208 => lo32 n.time.toNat
  | 0x620C => n.latch.toNat
  | _ => 0

/-- NET_PORT_CFG (Table 11-13). -/
def Port.reg (p : Port) (off : Nat) : Nat :=
  match off with
  | 0x0 => pack [(b2n p.vlanEn, 0), (p.vlanId.toNat, 1)]
  | 0x4 => lo32 p.nhMac.toNat
  | 0x8 => hi32 p.nhMac.toNat
  | 0xC => pack [(b2n p.up, 0), (p.fec.toNat, 16)]
  | _ => 0

/-- NET_DROP_CNT (Table 11-14). -/
def State.regDrop (s : State) (t off : Nat) : Nat :=
  if h : t < 8 then
    let w := s.tenants[t].weir
    if off = 0 then pack [(w.bufFull.toNat, 0), (w.entryFull.toNat, 16)] else 0
  else if off = 0 then pack [(s.net.devBufFull.toNat, 0), (s.net.devEntryFull.toNat, 16)]
  else pack [(s.net.malformed.toNat, 0), (s.net.unknownTag.toNat, 16)]

/-- NET_PEER (Table 11-16). -/
def Net.regPeer (n : Net) (e off : Nat) : Nat :=
  let p := sget n.peers e {}
  match off with
  | 0x00 => pack [(b2n p.valid, 0), (b2n p.v6, 1), (b2n p.disc, 2), (b2n p.stale, 3), (p.mask.toNat, 4),
      (packBits ((List.range 8).map (fun q => p.valid && (n.paths p).any (fun x => x / 16 = q))), 12)]
  | 0x04 => p.id.toNat
  | 0x08 => addrWord p.addr 0
  | 0x0C => addrWord p.addr 1
  | 0x10 => addrWord p.addr 2
  | 0x14 => addrWord p.addr 3
  | 0x18 => p.site.toNat
  | 0x1C => p.boot.toNat
  | _ => 0

-- ## Random numbers

/-- RNG_CTRL, RNG_STATUS, RNG_RAW_STATUS and RNG_RAW_DATA (Tables 15-4, 15-5, 15-7). -/
def Rng.reg (g : Rng) (o : Nat) : Nat :=
  let vs (c : BitVec 2) : Nat := packBits (g.vanes.toList.map (fun v => decide (v.state = c)))
  match o with
  | 0x9000 => pack [(b2n g.rawReq, 0), (b2n g.rawPend, 1), (b2n g.rawActive, 2), (g.rawVane.toNat, 3), (b2n g.freeze, 5)]
  | 0x9004 => pack [(b2n g.ready, 0), (b2n g.fatal, 1), (vs 2, 2), (vs 3, 6), ((g.feeding.getD 0).val, 10),
      (b2n g.blockFail, 12), (b2n g.retireEvent, 13), (g.reseeds.toNat, 16)]
  | 0x9050 => pack [(g.fifo.length, 0), (b2n (g.fifo.headD (0, false)).2, 8), (b2n g.underrun, 9), (b2n g.overflow, 10)]
  | 0x9054 => (g.fifo.headD (0, false)).1.toNat
  | _ => 0

/-- RNG_VANE (Table 15-6). -/
def Vane.reg (v : Vane) (off : Nat) : Nat :=
  match off with
  | 0x0 => pack [(v.state.toNat, 0), (v.failRun.toNat, 2), (v.trim.toNat, 4), (v.failCnt.toNat, 16)]
  | 0x4 => pack [(v.ones.toNat % 2 ^ 11, 0), (v.agree.toNat % 2 ^ 10, 11), (v.run.toNat, 21), (b2n v.pass, 27)]
  | 0x8 => pack [(v.bias.toNat, 0), (v.corr.toNat, 16)]
  | 0xC => pack [(b2n v.inLimits, 0), (v.blocks.toNat, 1)]
  | _ => 0

-- ## Power, start-up, management

/-- PWR_* registers (Tables 16-11 to 16-15); PWR_CMD reads 0. -/
def Pwr.reg (p : Pwr) (o : Nat) : Nat :=
  if o = 0xB004 then p.status
  else if o = 0xB030 then pack [(p.vin.toNat, 0), (p.pinW.toNat, 16)]
  else if o = 0xB034 then p.peakW.toNat
  else match arrayAt o 0xB010 4 5, arrayAt o 0xB040 8 8, arrayAt o 0xB080 4 15 with
    | some (w, _), _, _ =>
      (List.range 16).foldl (fun v k => v + (p.domains.toList.getD (16 * w + k) 0).toNat * 2 ^ (2 * k)) 0
    | _, some (n, off), _ =>
      if off = 0 then pack [((p.draw.toList.getD n 0).toNat, 0), ((p.temp.toList.getD n 0).toNat, 12)]
      else (p.stretch.toList.getD n 0).toNat
    | _, _, some (r, _) =>
      let x := p.rails.toList.getD r { phases := 0 }
      pack [(x.mv.toNat, 0), (x.amps.toNat, 14), (x.phases.toNat, 26), (b2n x.fault, 31)]
    | _, _, _ => 0

/-- MGT_START_STATUS (Table 18-3). -/
def Start.status (x : Start) : Nat :=
  pack [(b2n x.ready, 0), (x.step.toNat, 1), (b2n x.clkErr, 4), (b2n x.raceOos, 5), (b2n x.lostCh, 6), (b2n x.millMapped, 7),
    (b2n x.linkLate, 8), (x.readyMs.toNat, 20)]

/-- TLS_READY: the port accepts connections in Indigo and Slate, with no transition pending and nothing locked (R416). -/
def State.tlsReady (s : State) : Bool :=
  s.pwr.alive && (s.sec.state = 1 || s.sec.state = 2) && !s.sec.pending && !s.sec.locked

/-- Slot 6 holds an anchor (R417). -/
def Sec.anchor (c : Sec) : Option (List Byte) :=
  match c.slot 6 with
  | some x => if x.cls = 0 then none else some x.body
  | none => none

/-- MGT_MGMT_STATUS (Table 17-11). -/
def State.mgmtStatus (s : State) : Nat :=
  let g := s.mgmt
  pack [(b2n g.linkUp, 0), (b2n s.tlsReady, 1), (b2n s.sec.anchor.isSome, 2), (g.sessions.length, 3), (g.decLog2.toNat, 6),
    (g.restarts.toNat, 9), (b2n g.authFail, 13)]

/-- The host's test, pending or running. -/
def Mgmt.hostTest (g : Mgmt) : Option TestRun := (g.tests.map (·.2)).find? (fun x => x.from?.isNone)

/-- MGT_TEST_REQ (Table 17-13). -/
def Mgmt.testReq (g : Mgmt) : Nat :=
  let run := match g.hostTest with
    | some x => (!x.running, x.running)
    | none => (false, false)
  pack [(g.reqCode.toNat, 0), (g.reqRace.toNat, 8), (g.reqUnit.toNat, 12), (b2n run.1, 20), (b2n run.2, 21), (b2n g.done, 22)]

/-- Management registers (Tables 17-11 to 17-16). -/
def State.regMgmt (s : State) (o : Nat) : Nat :=
  let g := s.mgmt
  if o = 0xC000 then s.mgmtStatus
  else if o = 0xC004 then pack [(g.anchorLen.toNat, 1), (b2n g.installed, 12), (b2n g.refused, 13)]
  else if o = 0xC100 then g.testReq
  else if o = 0xD000 then
    g.engaged.toNat + packBits (allRaces.map (fun r => s.races[r].mills.toList.any (·.halted))) * 2 ^ 8
  else match arrayAt o 0xC104 4 4, arrayAt o 0xC120 4 8, arrayAt o 0xC800 4 488 with
    | some (k, _), _, _ => (g.args.toList.getD k 0).toNat
    | _, some (k, _), _ => (g.result.toList.getD k 0).toNat
    | _, _, some (i, _) => (sget g.anchorData i 0).toNat
    | _, _, _ => 0

-- ## The device block

/-- The head of the device block: identity, start-up, capabilities, scratch and MGT_WRITE_ERR (Tables 0-1, 18-3, 19-6 to
19-9). See R3, R455. -/
def State.regHead (s : State) (o : Nat) : Nat :=
  match o with
  | 0x0 => pack [(0x5A, 24), (0x09, 16), (1, 12), (Config.minorStepping.toNat % 16, 8)]
  | 0x4 => s.start.status
  | 0x8 => Config.serial.toNat
  | 0xC => pack [(8, 0), (24, 4), (25, 9), (18, 14), (8, 19), (4, 23)]
  | 0x10 => s.start.scratch.toNat
  | 0x14 => pack [(s.start.errAddr.toNat, 0), (b2n s.start.errSet, 24), (b2n s.start.errMore, 25)]
  | _ => 0

/-- A register of the device block; an offset that no field map covers reads 0 (R446). -/
def State.regDevice (s : State) (o : Nat) : Nat :=
  if o < 0x1000 then s.regHead o
  else if o < 0x2000 then match arrayAt o 0x1000 0x20 8 with
    | some (t, off) => s.regTenant (Fin.ofNat 8 t) off
    | none => 0
  else if o < 0x2100 then s.regTick o
  else if o < 0x3000 then match arrayAt o 0x2100 0x20 13, arrayAt o 0x2300 4 8 with
    | some (p, off), _ => s.regSlot p (off / 4)
    | _, some (t, _) => (List.range 4).foldl (fun w c => w + ((s.tenants[(Fin.ofNat 8 t)]).share.toList.getD c 0).toNat * 2 ^ (4 * c)) 0
    | _, _ => 0
  else if o < 0x4000 then match arrayAt o 0x3000 0x10 9, arrayAt o 0x3100 4 8 with
    | some (p, off), _ => s.regHop (copyPart p) (off / 4)
    | _, some (t, _) => (s.hop (.tenant (Fin.ofNat 8 t))).cells.toNat
    | _, _ => 0
  else if o < 0x5000 then match arrayAt o 0x4400 4 256 with
    | some (g, _) => (s.dbEntry g).toNat
    | none => s.regLink o
  else if o < 0x6000 then
    if o = 0x5000 then pack [(64, 0), (16, 7)] else match arrayAt o 0x5100 4 64 with
    | some (k, _) => s.regRound (Fin.ofNat 64 k)
    | none => 0
  else if o < 0x7000 then match arrayAt o 0x6080 0x10 8, arrayAt o 0x6100 8 9 with
    | some (q, off), _ => (s.net.ports[(Fin.ofNat 8 q)]).reg off
    | _, some (t, off) => s.regDrop t off
    | _, _ => s.net.reg o
  else if o < 0x9000 then s.net.regPeer ((o - 0x7000) / 0x20) (o % 0x20)
  else if o < 0xA000 then match arrayAt o 0x9010 0x10 4 with
    | some (v, off) => (s.rng.vanes[(Fin.ofNat 4 v)]).reg off
    | none => s.rng.reg o
  else if o < 0xB000 then
    if o = 0xA000 then packBits [s.recovering, s.warmDone, s.recoverErr] else match arrayAt o 0xA100 0x10 8 with
    | some (t, off) => s.regJnl (Fin.ofNat 8 t) off
    | none => 0
  else if o < 0xC000 then s.pwr.reg o
  else if o < 0xE000 then s.regMgmt o
  else match arrayAt o 0xE000 8 8, arrayAt o 0x440000 4 16384 with
    | some (t, off), _ => if off = 0 then (s.tenants[(Fin.ofNat 8 t)]).ctxBase.toNat else (s.tenants[(Fin.ofNat 8 t)]).ctxCount.toNat
    | _, some (q, _) => s.regQueue (devicePart q) q
    | _, _ => 0

-- ## The security block

/-- KVT_STATUS (Table 14-16). -/
def Sec.status (c : Sec) : Nat :=
  pack [(c.state, 0), (b2n c.pending, 2), (b2n c.locked, 3), (c.restarts.toNat, 4), (c.epoch.toNat % 2 ^ 16, 16)]

/-- Unusable persistent slots from slot `lo` on (Table 14-17). -/
def Sec.slotBad (c : Sec) (lo n : Nat) : Nat := packBits ((List.range n).map (fun i => (c.slot (lo + i)).isNone))

/-- ATT_MBX_STATUS (Table 14-19). -/
def Sec.mbxStatus (c : Sec) : Nat :=
  pack [(b2n c.busy, 0), (b2n c.done, 1), (b2n c.err, 2), (c.result.toNat, 8), (c.rspLen.toNat, 16)]

/-- A per-tenant register of the security block (Table 14-18). -/
def State.regKvt (s : State) (t : TenantId) (off : Nat) : Nat :=
  let x := s.tenants[t]
  if off < 0x20 then fld x.domain.toNat (8 * off) 32
  else if off = 0x20 then x.cells.toNat
  else if off = 0x24 then x.flocks.toNat
  else if off = 0x28 then pack [(x.keys.length, 0), (s.cellsBearing (s.cellTag t), 11), (b2n (s.testRoot t), 22)]
  else 0

/-- A register of the security block. -/
def State.regSec (s : State) (o : Nat) : Nat :=
  if o = 0 then s.sec.status
  else if o = 4 then s.sec.slotBad 0 32
  else if o = 8 then s.sec.slotBad 32 12
  else if o = 0x804 then s.sec.mbxStatus
  else match arrayAt o 0x100 0x40 8, arrayAt o 0x1000 4 1024, arrayAt o 0x2000 4 1024 with
    | some (t, off), _, _ => s.regKvt (Fin.ofNat 8 t) off
    | _, some (i, _), _ => (sget s.sec.arg i 0).toNat
    | _, _, some (i, _) => leAt s.sec.rsp (4 * i) 4
    | _, _, _ => 0

-- ## The race blocks

/-- MGT_RACE_ID (Table 19-10). -/
def State.raceId (s : State) (r : RaceId) : Nat :=
  match s.owner r with
  | none => r.val
  | some t => pack [(r.val, 0), (t.val, 3), (1, 6), (s.tenants[t].state.code, 7), (b2n (s.serves t), 10), (b2n (s.lowest t = r), 11)]

/-- The code of a stripe: 0 healthy, 1 degraded, 2 rebuilding, 3 failed; one lost channel takes a block from every row,
so both stripes carry the same code (R214, R215). [DEDUCED, unsafe: log 141] -/
def RaceMem.stripe (m : RaceMem) : Nat :=
  if m.tbFailed then 3 else if m.rebuilding.isSome then 2 else if m.tbLost = 0 then 0 else 1

/-- The highest derating among channels (Table 8-15). -/
def RaceMem.derate (m : RaceMem) (lo n : Nat) : Nat := ((m.chans.toList.drop lo).take n).foldl (fun v c => max v c.rate.toNat) 0

/-- MEM_* and SCB_* registers of a race (Tables 8-10 to 8-15, 9-7 to 9-14). -/
def RaceMem.reg (m : RaceMem) (o : Nat) : Nat :=
  match o with
  | 0x800 => m.taLost.toNat
  | 0x804 => pack [(b2n m.fbActive, 0), (m.fbChannel.toNat, 1), (b2n m.fbRestored, 6), (b2n m.unregLost, 7)]
  | 0x808 => pack [(m.tbLost.toNat, 0), (m.stripe, 16), (m.stripe, 18), (b2n m.rebuildDone, 20), (b2n m.retrainFail, 21)]
  | 0x80C => pack [(m.tbChannel.toNat, 1), (b2n m.tbPending, 5)]
  | 0x810 => m.slots.toNat
  | 0x814 => pack [(m.derate 0 32, 0), (m.derate 32 14, 2), (b2n m.derateSeen, 4)]
  | 0xA00 => pack [(m.bucketCap.toNat, 0), (m.leakMs.toNat, 10)]
  | 0xA04 => packBits [m.bucketOvf, m.uncorr, m.remapAlloc, m.failing, m.fillActive, m.fillDone]
  | 0xA08 => pack [(b2n m.arm, 0), (m.flipCh.toNat, 1), (b2n m.fired, 7), (b2n m.refused, 8)]
  | 0xA0C => m.flipBurst.toNat
  | _ =>
    match arrayAt o 0xA10 4 9, arrayAt o 0xA40 4 46, arrayAt o 0xB00 4 46, arrayAt o 0xC00 0x20 46 with
    | some (i, _), _, _, _ => fld m.flipMask.toNat (32 * i) 32
    | _, some (ch, _), _, _ =>
      let c := m.chans.toList.getD ch {}
      pack [(c.corr.toNat, 0), (c.uncorr.toNat, 16), (c.remap.length, 24)]
    | _, _, some (ch, _), _ =>
      let c := m.chans.toList.getD ch {}
      pack [(c.level.toNat, 0), (b2n c.ovf, 10)]
    | _, _, _, some (ch, off) =>
      match (m.chans.toList.getD ch {}).remap[off / 4]? with
      | some b => b.toNat + 2 ^ 29
      | none => 0
    | _, _, _, _ => 0

/-- A register of a race block. -/
def State.regRace (s : State) (r : RaceId) (o : Nat) : Nat :=
  let x := s.races[r]
  match o with
  | 0x0 => s.raceId r
  | 0x200 => (List.range 4).foldl (fun w c => w + (x.classMills.toList.getD c 0).toNat * 2 ^ (5 * c)) 0
  | 0x204 => packBits [x.hold, x.held, x.testPending]
  | 0x300 => pack [(b2n x.intEn, 0), (b2n x.floatEn, 1), (x.tolExp.toNat, 2)]
  | 0x304 => pack [(b2n x.mismatch, 0), (b2n x.retired, 1), (x.lastPm.toNat, 2), (x.mismCnt.toNat, 8), (x.skipCnt.toNat, 16)]
  | 0x308 => pack [(x.sparePos.toNat, 0), (b2n x.spareUse, 5), (b2n x.spareBad, 6)]
  | 0x400 => s.regHop (.race r) 0
  | 0x404 => s.regHop (.race r) 1
  | 0x408 => s.regHop (.race r) 2
  | 0x600 => packBits [false, x.recovering, x.oos]
  | _ =>
    if o < 0x800 then match arrayAt o 0x340 4 24 with
      | some (k, _) => (x.map.toList.getD k 0).toNat
      | none => 0
    else if o < 0x2000 then x.mem.reg o
    else match arrayAt o 0x2000 0x10 64, arrayAt o 0x2400 0x10 16, arrayAt o 0x10000 4 4096 with
      | some (w, off), _, _ =>
        let b := x.wrings[(Fin.ofNat 64 w)]
        if off = 0 then lo32 b.base.toNat else if off = 4 then hi32 b.base.toNat
        else if off = 8 then s.readWringCfg r (Fin.ofNat 64 w) else 0
      | _, some (c, off), _ =>
        let b := x.crings[(Fin.ofNat 16 c)]
        if off = 0 then lo32 b.base.toNat else if off = 4 then hi32 b.base.toNat
        else if off = 8 then b.cfg else b.held.toNat
      | _, _, some (q, _) => s.regQueue (.race r) q
      | _, _, _ => 0

-- ## The set-up window

/-- A hole of the set-up window (Table 19-1). -/
def setupHole (a : Nat) : Bool := (0x810000 ≤ a && decide (a < 0xC00000)) || decide (0x1000000 ≤ a)

/-- The value of the register at a set-up address. -/
def State.regValue (s : State) (a : Nat) : Nat :=
  if setupHole a then 0
  else if a < 0x800000 then s.regDevice a
  else if a < 0x810000 then s.regSec (a - 0x800000)
  else s.regRace (Fin.ofNat 8 ((a - 0xC00000) / 0x80000)) ((a - 0xC00000) % 0x80000)

/-- What a read of a set-up address changes: the latches of R448 and the FIFO of Table 15-7. -/
def State.readEffect (s : State) (a : Nat) : State :=
  if a = 0x2014 then s.modTick (fun k => { k with latch := BitVec.ofNat 32 (hi32 k.count.toNat) })
  else if a = 0x6208 then s.modNet (fun n => { n with latch := BitVec.ofNat 32 (hi32 n.time.toNat) })
  else if a = 0x9054 then s.readRaw.1
  else match arrayAt a 0xA104 0x10 8 with
    | some (t, 0) => s.modTick (fun k => { k with
        commitLatch := k.commitLatch.set (Fin.ofNat 8 t) (BitVec.ofNat 32 (hi32 (s.tenants[(Fin.ofNat 8 t)]).jnl.commitTick.toNat)) })
    | _ => s

/-- A host read of a set-up register. -/
def State.readReg (s : State) (a : Nat) : State × Nat := (s.readEffect a, s.regValue a)

/-- LATCHED_READ (R448). -/
def execLatchedRead (addr : BitVec 24) (s : State) : Host.Outcome State Fault Refusal := .next (s.readEffect addr.toNat)

end Sys2Proof.Machine
end

