-- ==== Sys2Proof/Machine/Mgmt.lean ====
section
/-! DEFINITION. The management port: operator sessions and their requests (R415 to R424), and the anchor (R417). -/

namespace Sys2Proof.Machine

-- ## Sessions

/-- A handshake that the operator anchor does not carry is refused and logged (R417). -/
def State.refuseHandshake (s : State) : State :=
  (s.modMgmt (fun g => { g with authFail := true })).logEvent 0xFF { cls := 0x46 }

/-- TLS_CONNECT: while no TLS key is usable, or four sessions are open, the connection is not accepted (R416); nor is one
accepted while the handshake must wait for random values (R392). -/
def execTlsConnect (cert : OperatorCert) (s : State) : Host.Outcome State Fault Refusal :=
  .next (
    if !s.tlsReady || !s.drbgServes then s else
    match (List.range 4).find? (fun k => (sget? s.mgmt.sessions k).isNone) with
    | none => s
    | some k =>
      if s.sec.anchor = some cert.issuer && cert.rsa4096 && cert.pssValid then
        s.modMgmt (fun g => { g with sessions := sset g.sessions k { roles := cert.roles } })
      else s.refuseHandshake)

/-- SESSION_IDLE: a session idle for 300 s is closed (R416). -/
def execSessionIdle (session : Fin 4) (s : State) : Host.Outcome State Fault Refusal :=
  .next (s.closeSessions (fun k => k = session.val))

/-- SESSION_CLOSED: the network or a malformed header closed it (R418, R432). -/
def execSessionClosed (session : Fin 4) (s : State) : Host.Outcome State Fault Refusal :=
  .next (s.closeSessions (fun k => k = session.val))

-- ## Requests

/-- A request of an open session: a ninth outstanding one is discarded and closes the session (R419); one whose message
finds the MGC's command queue full is BUSY (R203, R420); one whose session lacks the role is refused (Table 17-3).
[DEDUCED, unsafe: log 127] -/
def State.request (s : State) (q : ReqId) (op : W16) (role : Nat) (f : State → State) : State :=
  match sget? s.mgmt.sessions q.session.val with
  | none => s
  | some x =>
    if 8 ≤ x.waiting.length then s.closeSessions (fun k => k = q.session.val)
    else if !x.roles.getLsbD role then s.respond q op 0x01 []
    else if s.hopFull .device 8192 then s.respond q op 0x02 []
    else f s

/-- The roles of a session. -/
def State.rolesOf (s : State) (k : Fin 4) : Nat :=
  match sget? s.mgmt.sessions k.val with
  | some x => x.roles.toNat
  | none => 0

/-- IDENT: device ID, serial, KVT_STATUS and the roles held. [DESIGN CHOICE, safe: log 12] -/
def execIdent (q : ReqId) (s : State) : Host.Outcome State Fault Refusal :=
  .next (s.request q 0x01 0 (fun s => s.respond q 0x01 0
    (Config.bodyLayout 0x01 [s.regValue 0x0, s.regValue 0x8, s.regValue 0x800000, s.rolesOf q.session])))

-- ## Telemetry (R422, R423)

/-- Words of an array of registers. -/
def regWords (base stride n : Nat) : List Nat := (List.range n).map (fun i => base + stride * i)

/-- The set-up addresses of Table 17-4, race by race where a race has registers of its own. -/
def State.telemetryAddrs (s : State) : List Nat :=
  [0xB030, 0xB034] ++ regWords 0xB080 4 15 ++ regWords 0xB040 4 16 ++ [0xB004] ++ regWords 0xB010 4 5 ++ [0x2010, 0x201C] ++
    [0x4000, 0x4004, 0x6044] ++ regWords 0x608C 0x10 8 ++ [0x6140, 0x6144] ++ regWords 0x1008 0x20 8 ++ regWords 0x100C 0x20 8 ++
    allRaces.flatMap (fun r => [0x304, 0x308, 0x800, 0x808, 0x814].map (raceReg r)) ++
    (allRaces.filter (fun r => (s.owner r).isNone)).flatMap (fun r =>
      raceReg r 0xA04 :: (regWords 0xA40 4 46).map (raceReg r)) ++ [0x3084, 0x9004, 0x800000]

/-- A telemetry sample: the values of those registers, the tick count, the MGC's restarts and D. -/
def State.sample (s : State) : List Nat :=
  s.telemetryAddrs.map s.regValue ++ [s.tick.count.toNat, s.mgmt.restarts.toNat, 2 ^ s.mgmt.decLog2.toNat]

/-- TELEMETRY_GET. [DESIGN CHOICE, safe: log 12] -/
def execTelemetryGet (q : ReqId) (s : State) : Host.Outcome State Fault Refusal :=
  .next (s.request q 0x02 0 (fun s => s.respond q 0x02 0 (Config.telemetryLayout s.sample)))

/-- TELEMETRY_SUB: an interval of 10 to 60,000 ms, or 0 to end. -/
def execTelemetrySub (q : ReqId) (intervalMs : W16) (s : State) : Host.Outcome State Fault Refusal :=
  .next (s.request q 0x03 0 (fun s =>
    let n := intervalMs.toNat
    if n ≠ 0 && (decide (n < 10) || decide (60000 < n)) then s.respond q 0x03 0x04 []
    else (s.modMgmt (fun g => { g with
      sessions := g.sessions.map (fun p => if p.1 = q.session.val then (p.1, { p.2 with interval := intervalMs }) else p) })).respond
        q 0x03 0 []))

/-- TELEMETRY: every D × I a subscribed session receives the sample, D and the samples skipped, which are D - 1.
[DEDUCED, unsafe: log 128] -/
def execTelemetry (session : Fin 4) (s : State) : Host.Outcome State Fault Refusal :=
  .next (match sget? s.mgmt.sessions session.val with
    | none => s
    | some x =>
      if x.interval = 0 then s else
      s.send { session := session, op := 0x82, id := 0, status := 0, flags := 2,
               body := Config.telemetryLayout (s.sample ++ [2 ^ s.mgmt.decLog2.toNat, 2 ^ s.mgmt.decLog2.toNat - 1]) })

/-- DECIMATION: at the end of a second, D doubles after a high backlog and halves without one, from 1 to 64.
[DEDUCED, unsafe: log 128] -/
def execDecimation (backlogHigh : Bool) (s : State) : Host.Outcome State Fault Refusal :=
  .next (s.modMgmt (fun g => { g with
    decLog2 := if backlogHigh then (if g.decLog2.toNat < 6 then g.decLog2 + 1 else g.decLog2)
               else if g.decLog2 = 0 then 0 else g.decLog2 - 1 }))

-- ## The log

/-- LOG_READ: the records from a sequence on, and how many of those asked for were lost (R426). -/
def execLogRead (q : ReqId) (first : W64) (count : BitVec 11) (s : State) : Host.Outcome State Fault Refusal :=
  .next (s.request q 0x04 0 (fun s =>
    if count = 0 || 1024 < count.toNat then s.respond q 0x04 0x04 [] else
    let oldest := s.mgmt.logSeq.toNat - s.mgmt.log.length
    let got := (s.mgmt.log.filter (fun r => decide (first.toNat ≤ r.seq.toNat))).take count.toNat
    s.respond q 0x04 0 (Config.bodyLayout 0x04 [oldest - first.toNat] ++ got.flatMap LogRec.bytes)))

-- ## Power

/-- POWER: a write of PWR_CMD on the operator's behalf, answered when the command ends (R402, R403).
[DEDUCED, unsafe: log 143] -/
def execPower (q : ReqId) (cmd : W32) (s : State) : Host.Outcome State Fault Refusal :=
  .next (s.request q 0x10 1 (fun s =>
    let w := cmd.toNat
    let kind := BitVec.ofNat 2 w
    let taken := match s.pwr.cmd with
      | some c => kind ≠ 3 || c.moving
      | none => false
    if !s.start.ready then s.respond q 0x10 0x05 []
    else if taken then s.respond q 0x10 0x02 []
    else (s.awaitReply q 0x10).pwrCmd kind (BitVec.ofNat 7 (fld w 2 7)) (BitVec.ofNat 2 (fld w 9 2)) (BitVec.ofNat 11 (fld w 11 11))
      (some q)))

-- ## Life cycle, anchor, SPDM

/-- The mailbox codes that an operator may send (Table 17-2). -/
def operatorCode (code : Byte) : Bool := (1 ≤ code.toNat && decide (code.toNat ≤ 6)) || (0x10 ≤ code.toNat && decide (code.toNat ≤ 0x12))

/-- LIFE_CYCLE: the RTP serves the command as one of the mailbox and answers when it ends. [DEDUCED, unsafe: log 112] -/
def execLifeCycle (q : ReqId) (code : Byte) (args : List Byte) (s : State) : Host.Outcome State Fault Refusal :=
  .next (s.request q 0x40 3 (fun s =>
    if !operatorCode code then s.respond q 0x40 0x04 []
    else if s.sec.busy then s.respond q 0x40 0x02 []
    else ((s.awaitReply q 0x40).modSec (fun c => { c with
      busy := true, code := code, served := false, asker := some q, opArg := args, opRsp := [] })).mbxServe []))

/-- Writes the anchor, as an update of slot 6 (R358); every open session closes at its commit (R417).
[DEDUCED, unsafe: log 129] -/
def State.writeAnchor (s : State) (der : List Byte) : State :=
  (s.modSec (fun c => c.writeSlot 6 (fun x => { gen := x.gen, cls := 2, kind := 2, epoch := c.epoch, body := der }))).closeSessions
    (fun _ => true)

/-- ANCHOR_SET: the response goes out before the session closes. [DEDUCED, unsafe: log 129] -/
def execAnchorSet (q : ReqId) (der : List Byte) (s : State) : Host.Outcome State Fault Refusal :=
  .next (s.request q 0x41 3 (fun s =>
    if der.isEmpty || 1952 < der.length then s.respond q 0x41 0x04 []
    else if !s.tlsReady then s.respond q 0x41 0x05 []
    else if !Config.anchorWellFormed der || (s.sec.slot 6).isNone then s.respond q 0x41 0x06 []
    else (s.respond q 0x41 0 []).writeAnchor der))

/-- Bytes of MGT_ANCHOR_DATA. -/
def Mgmt.anchorBytes (g : Mgmt) (n : Nat) : List Byte :=
  (List.range n).map (fun i => BitVec.ofNat 8 (fld (sget g.anchorData (i / 4) 0).toNat (8 * (i % 4)) 8))

/-- Set-up address of MGT_ANCHOR_CTRL. -/
def anchorCtrl : Nat := 0xC004

/-- INSTALL: the first anchor, accepted only while slot 6 is empty (R417, Table 17-12). -/
def State.installAnchor (s : State) (len : BitVec 11) : State :=
  let s := s.modMgmt (fun g => { g with anchorLen := len })
  let der := s.mgmt.anchorBytes len.toNat
  let empty := match s.sec.slot 6 with
    | some x => x.cls = 0
    | none => false
  if empty && decide (1 ≤ len.toNat) && decide (len.toNat ≤ 1952) && Config.anchorWellFormed der && s.sec.state ≠ 3 &&
     !s.sec.pending && !s.sec.locked then
    (s.writeAnchor der).modMgmt (fun g => { g with installed := true })
  else (s.modMgmt (fun g => { g with refused := true })).writeErr anchorCtrl

/-- INSTALL. [DEDUCED, unsafe: log 129] -/
def execInstall (len : BitVec 11) (s : State) : Host.Outcome State Fault Refusal := .next (s.installAnchor len)

/-- SPDM (R424). -/
def execSpdm (q : ReqId) (msg : List Byte) (s : State) : Host.Outcome State Fault Refusal :=
  .next (s.request q 0x50 0 (fun s =>
    (s.modSec (fun c => { c with draws := c.draws + 1 })).respond q 0x50 0 (Config.spdmResponse s.sec.draws msg)))

/-- MGC_WATCHDOG (R421). -/
def execMgcWatchdog (s : State) : Host.Outcome State Fault Refusal := .next (if s.pwr.alive then s.mgcRestart else s)

end Sys2Proof.Machine
end

