-- ==== Sys2Proof/Machine/TestPath.lean ====
section
/-! DEFINITION. Requested tests: how they are asked for, when they start, and what they leave (R66, R427 to R431). -/

namespace Sys2Proof.Machine

/-- The fields of a request are in range for its code (Table 17-8); a channel that is already lost is not retrained. -/
def State.testFields (s : State) (a : TestArgs) : Bool :=
  let r := a.race.toNat
  match a.code.toNat with
  | 0x01 | 0x02 | 0x04 | 0x05 => decide (r < 8) && a.ticks ≠ 0
  | 0x03 => r = 15 && decide (a.unit.toNat < 2) && a.ticks ≠ 0
  | 0x10 => decide (r < 8) && decide (a.unit.toNat ≤ 24)
  | 0x11 => decide (r < 8)
  | 0x12 => decide (r < 8) && decide (a.unit.toNat < 46) && !(s.races[(Fin.ofNat 8 r)]).mem.lost (Fin.ofNat 46 a.unit.toNat)
  | _ => false

/-- The range of a march: aligned, and inside the tenant range of one tier of its race (R429). -/
def marchSpan (race : BitVec 4) (start : W48) (length : W32) : Option Span :=
  if start.toNat % 4096 ≠ 0 then none else
  match devAddr start.toNat with
  | none => none
  | some (r, b, off) =>
    let len := length.toNat * 4096
    if r.val = race.toNat && decide (off + len ≤ (if b then tenantTb else 64 * gib)) then
      some { race := r, tierB := b, off := off, len := len } else none

/-- The unit of a destructive test is one that segment items of an open round use: a class mill of the round's class, or
any memory of a race of its tenant (R66, R153). [DEDUCED, unsafe: log 130] -/
def State.roundUses (s : State) (code : Byte) (race : BitVec 4) (unit : BitVec 6) : Bool :=
  match s.owner (Fin.ofNat 8 race.toNat) with
  | none => false
  | some t => (List.finRange 64).any (fun k => match s.rounds[k] with
      | none => false
      | some r => r.tenant = t &&
          (code ≠ 0x10 || (s.classMills (Fin.ofNat 8 race.toNat) r.cls).any (fun m =>
            (s.races[m.race].map[m.mill]).toNat = unit.toNat)))

/-- The result with which a destructive request ends at once, if any. [DEDUCED, unsafe: log 130] -/
def State.testRefused (s : State) (x : TestRun) : Option Byte :=
  if x.code = 0x11 && (marchSpan x.race x.start x.length).isNone then some 0x04
  else if destructive x.code && s.roundUses x.code x.race x.unit then some 0x03 else none

/-- A request as the test it asks for. -/
def testOf (a : TestArgs) (src : Option ReqId) : TestRun :=
  { code := a.code, race := a.race, unit := a.unit, start := a.start, length := a.length, ticks := a.ticks, from? := src }

/-- Nothing found. -/
def noFinding : TestFound := { ok := 0, bad := 0, detail := 0 }

/-- A test is accepted: a destructive one waits with TEST_PENDING set, any other runs at once in idle windows (R65, R66). -/
def State.takeTest (s : State) (x : TestRun) : State :=
  match s.testRefused x with
  | some res => s.testResult x res noFinding
  | none =>
    let x := { x with running := !destructive x.code }
    let s := s.modMgmt (fun g => { g with tests := sset g.tests x.race.toNat x })
    if h : x.race.toNat < 8 then
      s.modRace ⟨x.race.toNat, h⟩ (fun r => { r with testPending := destructive x.code }) else s

/-- TEST: acceptance only (Table 17-2). -/
def execTest (q : ReqId) (a : TestArgs) (s : State) : Host.Outcome State Fault Refusal :=
  .next (s.request q 0x20 1 (fun s =>
    if !s.testFields a then s.respond q 0x20 0x04 []
    else if (s.test? a.race.toNat).isSome then s.respond q 0x20 0x02 []
    else (s.respond q 0x20 0 []).takeTest (testOf a (some q))))

/-- The arguments in MGT_TEST_ARG (Table 17-14). -/
def Mgmt.hostArgs (g : Mgmt) (code : Byte) (race : BitVec 4) (unit : BitVec 6) : TestArgs :=
  { code := code, race := race, unit := unit, start := BitVec.ofNat 48 (g.args[0].toNat + g.args[1].toNat % 2 ^ 16 * 2 ^ 32),
    length := g.args[2], ticks := BitVec.ofNat 16 g.args[3].toNat }

/-- GO: the host's request. While one is pending or running it ends with BUSY (R427, R433). [DEDUCED, safe: log 142] -/
def State.goTest (s : State) (code : Byte) (race : BitVec 4) (unit : BitVec 6) : State :=
  let s := s.modMgmt (fun g => { g with reqCode := code, reqRace := race, reqUnit := unit })
  let a := s.mgmt.hostArgs code race unit
  if s.mgmt.hostTest.isSome then (s.testResult (testOf a none) 0x07 noFinding).writeErr 0xC100
  else if s.testFields a && (s.test? race.toNat).isSome then s.testResult (testOf a none) 0x07 noFinding
  else if !s.testFields a then s.testResult (testOf a none) 0x08 noFinding
  else s.takeTest (testOf a none)

/-- GO. -/
def execGo (code : Byte) (race : BitVec 4) (unit : BitVec 6) (s : State) : Host.Outcome State Fault Refusal :=
  .next (s.goTest code race unit)

/-- A cancel: a pending test ends with CANCELLED, a running march stops, any other running test goes on (R431).
[DEDUCED, unsafe: log 132] -/
def State.cancelTest (s : State) (race : Nat) : State :=
  match s.test? race with
  | none => s
  | some x =>
    if !x.running then s.endTest race 0x05 noFinding
    else if x.code = 0x11 then s.modMgmt (fun g => { g with tests := sset g.tests race { x with cancel := true } })
    else s

/-- TEST_CANCEL: the test of a race; with none there, STATE. [DEDUCED, unsafe: log 132] -/
def execTestCancel (q : ReqId) (race : BitVec 4) (s : State) : Host.Outcome State Fault Refusal :=
  .next (s.request q 0x21 1 (fun s =>
    if 8 ≤ race.toNat && race ≠ 15 then s.respond q 0x21 0x04 []
    else if (s.test? race.toNat).isNone then s.respond q 0x21 0x05 []
    else (s.respond q 0x21 0 []).cancelTest race.toNat))

/-- CANCEL of MGT_TEST_REQ: the host's test. -/
def State.cancelHost (s : State) : State :=
  match s.mgmt.hostTest with
  | some x => s.cancelTest x.race.toNat
  | none => s

/-- MGT_TEST_CANCEL. -/
def execMgtTestCancel (s : State) : Host.Outcome State Fault Refusal := .next s.cancelHost

/-- The race's tenant is in its scrub: a pending test starts after it (Table 17-10). -/
def State.scrubbing (s : State) (r : RaceId) : Bool :=
  match s.owner r with
  | some t => s.tenants[t].state = .scrubbing
  | none => false

/-- TEST_START: at the first boundary at which the race is held; a round opened meanwhile refuses it (R66).
[DEDUCED, unsafe: log 130] -/
def execTestStart (r : RaceId) (s : State) : Host.Outcome State Fault Refusal :=
  .next (match s.test? r.val with
    | none => s
    | some x =>
      if x.running || !s.boundary || !s.raceHeld r || s.scrubbing r then s else
      match s.testRefused x with
      | some res => s.endTest r.val res noFinding
      | none => s.modMgmt (fun g => { g with tests := sset g.tests r.val { x with running := true } }))

-- ## What a test leaves (R428, R429)

/-- The logical mill at a physical position. -/
def State.millAt (s : State) (r : RaceId) (p : Nat) : Option (Fin 24) :=
  (List.finRange 24).find? (fun k => (s.races[r].map[k]).toNat = p)

/-- A failed self-test retires the mill under R327; without a spare the race goes out of service (R103).
[DEDUCED, unsafe: log 131] -/
def State.retireMill (s : State) (r : RaceId) (p : Nat) : State :=
  match s.millAt r p with
  | none => s.modRace r (fun x => if x.sparePos.toNat = p && !x.spareUse then { x with spareBad := true } else x)
  | some k =>
    let s := (s.modRace r (fun x => { x with retired := true })).raiseRace r { cls := 2, part := 1, index := BitVec.ofNat 16 p }
    if s.races[r].spareUse || s.races[r].spareBad then s.raceOut r
    else s.modRace r (fun x => { x with toMap := if x.toMap.contains k then x.toMap else x.toMap ++ [k] })

/-- A checksum mismatch that a pattern test finds falls under R102 and R103. -/
def State.patternFailed (s : State) (r : RaceId) (p : Nat) : State :=
  match s.millAt r p with
  | some k => s.checkFailed { race := r, mill := k } s.tick.nextItem
  | none => s.modRace r (fun x => { x with mismatch := true, lastPm := BitVec.ofNat 5 p, mismCnt := satInc x.mismCnt })

/-- The march leaves its range zero, and a remap entry for every burst that failed (R429). -/
def State.marched (s : State) (x : TestRun) (bursts : List (Fin 46 × BitVec 29)) : State :=
  match marchSpan x.race x.start x.length with
  | none => s
  | some sp =>
    let s := s.zeroSpan sp
    forEach bursts s (fun s b => s.remapWord sp.race b.1 b.2.toNat (List.replicate 32 0))

/-- Words of the device-reserved range of a race (Table 8-3). -/
def reservedWords : Nat := 4 * gib / 32

/-- The device-reserved range is scrubbed: every listed row is looked at and repaired (R233, R428).
[DEDUCED, unsafe: log 131] -/
def State.scrubReserved (s : State) (r : RaceId) : State :=
  forEach (s.listedRows r (ceilDiv tenantTb 1792) ((tenantTb + 4 * gib - 1) / 1792)) s (fun s row => (s.scrubRow r row true {}).1)

/-- What a test that has run leaves, and its result. [DEDUCED, unsafe: log 131] -/
def State.testEffect (s : State) (x : TestRun) (f : TestFound) : State × Byte × TestFound :=
  let r : RaceId := Fin.ofNat 8 x.race.toNat
  let pass : Byte := if f.bad = 0 then 0x00 else 0x01
  match x.code.toNat with
  | 0x01 => (if f.bad = 0 then s else s.patternFailed r f.detail.toNat, pass, f)
  | 0x05 => (s.scrubReserved r, if f.ok.toNat + f.bad.toNat < reservedWords then 0x02 else pass, { f with detail := 0 })
  | 0x10 =>
    let s : State := { s with mem := memZero s.mem (scratchAddr r x.unit.toNat 0) (2 ^ 21) }
    (if f.bad = 0 then s else s.retireMill r x.unit.toNat, pass, f)
  | 0x11 => if x.cancel then (s.marched x f.bursts, 0x05, f) else (s.marched x f.bursts, pass, f)
  | 0x12 => (if f.bad = 0 then s else s.loseChannel r (Fin.ofNat 46 x.unit.toNat) false, pass, f)
  | _ => (s, pass, f)

/-- TEST_DONE (R430). -/
def execTestDone (race : BitVec 4) (found : TestFound) (s : State) : Host.Outcome State Fault Refusal :=
  .next (match s.test? race.toNat with
    | none => s
    | some x =>
      if !x.running then s else
      let r := s.testEffect x found
      r.1.endTest race.toNat r.2.1 r.2.2)

end Sys2Proof.Machine
end

