-- ==== Sys2Proof/Machine/VectorUnit.lean ====
section
/-! DEFINITION. The vector unit: element-wise operations, conversions, reductions, the tree mask and the random values
(Table 3-11, R95, R117 to R120, R172, R178). The shape of an element-wise operation is D's. -/

namespace Sys2Proof.Machine

/-- The elements of an operand that row `i` of D meets: row 0 under BROW, element 0 for all under BSCAL. -/
def operandRow (t : Tile) (m : List Host.Cell) (b : SpadBase) (brow bscal : Bool) (i n : Nat) :
    Except Byte (List (W32 × Flags)) :=
  if bscal then
    match t.f32s m b 0 1 with
    | .ok xs => .ok (List.replicate n (xs.getD 0 (0, {})))
    | .error e => .error e
  else t.f32s m b (if brow then 0 else i) n

/-- An element-wise operation of up to three operands: `f` gives each fp32 result and its flags, which is then
converted into D (R95). -/
def vecOp (td : Tile) (srcs : List (Tile × Bool × Bool)) (f : List W32 → W32 × Flags) (sat : Bool)
    (m : List Host.Cell) (b : SpadBase) : Except Byte (List Host.Cell × Flags) :=
  if !td.check || srcs.any (fun x => !x.1.check) then .error stFormat else
  overRows (fun m i =>
    match collect (srcs.map (fun x => operandRow x.1 m b x.2.1 x.2.2 i td.elems)) with
    | .error e => .error e
    | .ok cs =>
      let rs := (List.range td.elems).map (fun j =>
        let xs := cs.map (fun c => c.getD j (0, {}))
        let r := f (xs.map (·.1))
        (r.1, (xs.map (·.2)).foldl Flags.or r.2))
      match td.writeRow m b sat i (rs.map (fun r => ofF32 r.1)) with
      | .error e => .error e
      | .ok (m, g) => .ok (m, (rs.map (·.2)).foldl Flags.or g)) (List.range td.rows) m {}

/-- A tile register of a mill as an operand without the modifiers of B. -/
def plainOperand (x : Mill) (t : Fin 16) : Tile × Bool × Bool := (tileOf x.t[t], false, false)

/-- B with its modifiers. -/
def modOperand (x : Mill) (t : Fin 16) (mods : VMods) : Tile × Bool × Bool := (tileOf x.t[t], mods.brow, mods.bscal)

/-- Runs a two-operand element-wise operation. -/
def State.vec2 (s : State) (m : MillName) (d a b : Fin 16) (mods : VMods) (f : W32 → W32 → W32 × Flags) : State :=
  s.spadOp m d (fun x sb => vecOp (tileOf x.t[d]) [plainOperand x a, modOperand x b mods]
    (fun xs => f (xs.getD 0 0) (xs.getD 1 0)) mods.sat s.mem sb)

/-- Runs a one-operand element-wise operation. -/
def State.vec1 (s : State) (m : MillName) (d a : Fin 16) (mods : VMods) (f : W32 → W32 × Flags) : State :=
  s.spadOp m d (fun x sb => vecOp (tileOf x.t[d]) [plainOperand x a] (fun xs => f (xs.getD 0 0)) mods.sat s.mem sb)

/-- VADD: D = A + B. -/
def execVadd (m : MillName) (d a b : Fin 16) (mods : VMods) (s : State) : Host.Outcome State Fault Refusal :=
  .next (s.vec2 m d a b mods f32Add)

/-- VSUB: D = A − B. -/
def execVsub (m : MillName) (d a b : Fin 16) (mods : VMods) (s : State) : Host.Outcome State Fault Refusal :=
  .next (s.vec2 m d a b mods f32Sub)

/-- VMUL: D = A × B. -/
def execVmul (m : MillName) (d a b : Fin 16) (mods : VMods) (s : State) : Host.Outcome State Fault Refusal :=
  .next (s.vec2 m d a b mods f32Mul)

/-- VMAX: the larger; a NaN operand gives NaN. -/
def execVmax (m : MillName) (d a b : Fin 16) (mods : VMods) (s : State) : Host.Outcome State Fault Refusal :=
  .next (s.vec2 m d a b mods (fun x y => (f32Max x y, {})))

/-- VMIN: the smaller; a NaN operand gives NaN. -/
def execVmin (m : MillName) (d a b : Fin 16) (mods : VMods) (s : State) : Host.Outcome State Fault Refusal :=
  .next (s.vec2 m d a b mods (fun x y => (f32Min x y, {})))

/-- VFMA: D = A × B + C, rounded once. -/
def execVfma (m : MillName) (d a b c : Fin 16) (mods : VMods) (s : State) : Host.Outcome State Fault Refusal :=
  .next (s.spadOp m d (fun x sb => vecOp (tileOf x.t[d]) [plainOperand x a, modOperand x b mods, plainOperand x c]
    (fun xs => f32Fma (xs.getD 0 0) (xs.getD 1 0) (xs.getD 2 0)) mods.sat s.mem sb))

/-- VSEL: A where C ≠ 0, else B. -/
def execVsel (m : MillName) (d a b c : Fin 16) (mods : VMods) (s : State) : Host.Outcome State Fault Refusal :=
  .next (s.spadOp m d (fun x sb => vecOp (tileOf x.t[d]) [plainOperand x a, modOperand x b mods, plainOperand x c]
    (fun xs => (if fld (xs.getD 2 0).toNat 0 31 = 0 then xs.getD 1 0 else xs.getD 0 0, {})) mods.sat s.mem sb))

/-- VCVT: D = A, converted under R89. -/
def execVcvt (m : MillName) (d a : Fin 16) (mods : VMods) (s : State) : Host.Outcome State Fault Refusal :=
  .next (s.vec1 m d a mods (fun x => (x, {})))

/-- VEXP2: 2^A within 1 ulp. -/
def execVexp2 (m : MillName) (d a : Fin 16) (mods : VMods) (s : State) : Host.Outcome State Fault Refusal :=
  .next (s.vec1 m d a mods (ulpApply .exp2))

/-- VLOG2: log2 A within 1 ulp. -/
def execVlog2 (m : MillName) (d a : Fin 16) (mods : VMods) (s : State) : Host.Outcome State Fault Refusal :=
  .next (s.vec1 m d a mods (ulpApply .log2))

/-- VRCP: 1 ÷ A within 1 ulp. -/
def execVrcp (m : MillName) (d a : Fin 16) (mods : VMods) (s : State) : Host.Outcome State Fault Refusal :=
  .next (s.vec1 m d a mods (ulpApply .rcp))

/-- VRSQ: 1 ÷ √A within 1 ulp. -/
def execVrsq (m : MillName) (d a : Fin 16) (mods : VMods) (s : State) : Host.Outcome State Fault Refusal :=
  .next (s.vec1 m d a mods (ulpApply .rsq))

/-- VQMX: A quantised to D's MX format; a D of another format stops the item. -/
def execVqmx (m : MillName) (d a : Fin 16) (mods : VMods) (s : State) : Host.Outcome State Fault Refusal :=
  .next (s.spadOp m d (fun x sb =>
    if !fmtMx (tileOf x.t[d]).fmt then .error stFormat else
    vecOp (tileOf x.t[d]) [plainOperand x a] (fun xs => (xs.getD 0 0, {})) mods.sat s.mem sb))

-- ## Reductions

/-- A reduction: `f` takes the first elements of D's row (the initial ones unless ACC) and the row of A, and gives the
elements that it writes (R117). See R121. -/
def reduceOp (td ta : Tile) (acc : Bool) (init : List W32) (f : List W32 → List W32 → List W32 × Flags)
    (m : List Host.Cell) (b : SpadBase) : Except Byte (List Host.Cell × Flags) :=
  if !td.check || td.fmt ≠ 0x5 || !ta.check then .error stFormat else
  overRows (fun m i =>
    match ta.f32s m b i ta.elems, spadGet m b (td.rowAt i) (4 * init.length) with
    | .ok xs, .ok ob =>
      let old := if acc then (chunks 4 ob).map (fun x => BitVec.ofNat 32 (natLE x)) else init
      let r := f old (xs.map (·.1))
      .ok (memPuts m (b + td.rowAt i) (r.1.map (fun w => bytesLE 4 w.toNat)).flatten,
           (xs.map (·.2)).foldl Flags.or r.2)
    | .error e, _ => .error e
    | _, .error e => .error e) (List.range ta.rows) m {}

/-- The sum of a row in element order (R118). -/
def vredRow (acc : W32) (fl : Flags) : List W32 → W32 × Flags
  | [] => (acc, fl)
  | x :: xs => let r := f32Add acc x; vredRow r.1 (fl.or r.2) xs

/-- The sum of squares of a row, each step fused (R118). -/
def vssqRow (acc : W32) (fl : Flags) : List W32 → W32 × Flags
  | [] => (acc, fl)
  | x :: xs => let r := f32Fma x x acc; vssqRow r.1 (fl.or r.2) xs

/-- The largest element of a row (R120). -/
def vrmaxRow (acc : W32) : List W32 → W32
  | [] => acc
  | x :: xs => vrmaxRow (f32Max acc x) xs

/-- One Welford update of count, mean and M2 (R119). -/
def welStep (n mean m2 x : W32) : W32 × W32 × W32 × Flags :=
  let full := decide (n = 0xFFFFFFFF#32)
  let n := if full then n else n + 1
  let fn := f32OfNat n.toNat
  let d := f32Sub x mean
  let q := f32Div d.1 fn
  let mean' := f32Add mean q.1
  let d2 := f32Sub x mean'.1
  let m2' := f32Fma d.1 d2.1 m2
  (n, mean'.1, m2'.1, [d.2, q.2, mean'.2, d2.2, m2'.2].foldl Flags.or { sat := full })

/-- The Welford update over a row (R119). -/
def vwelRow (n mean m2 : W32) (fl : Flags) : List W32 → List W32 × Flags
  | [] => ([n, mean, m2], fl)
  | x :: xs => let r := welStep n mean m2 x; vwelRow r.1 r.2.1 r.2.2.1 (fl.or r.2.2.2) xs

/-- VRED (R118). -/
def execVred (m : MillName) (d a : Fin 16) (mods : VMods) (s : State) : Host.Outcome State Fault Refusal :=
  .next (s.spadOp m d (fun x sb => reduceOp (tileOf x.t[d]) (tileOf x.t[a]) mods.acc [0]
    (fun o xs => let r := vredRow (o.getD 0 0) {} xs; ([r.1], r.2)) s.mem sb))

/-- VSSQ (R118). -/
def execVssq (m : MillName) (d a : Fin 16) (mods : VMods) (s : State) : Host.Outcome State Fault Refusal :=
  .next (s.spadOp m d (fun x sb => reduceOp (tileOf x.t[d]) (tileOf x.t[a]) mods.acc [0]
    (fun o xs => let r := vssqRow (o.getD 0 0) {} xs; ([r.1], r.2)) s.mem sb))

/-- VWEL (R119). -/
def execVwel (m : MillName) (d a : Fin 16) (mods : VMods) (s : State) : Host.Outcome State Fault Refusal :=
  .next (s.spadOp m d (fun x sb => reduceOp (tileOf x.t[d]) (tileOf x.t[a]) mods.acc [0, 0, 0]
    (fun o xs => vwelRow (o.getD 0 0) (o.getD 1 0) (o.getD 2 0) {} xs) s.mem sb))

/-- VRMAX (R120). -/
def execVrmax (m : MillName) (d a : Fin 16) (mods : VMods) (s : State) : Host.Outcome State Fault Refusal :=
  .next (s.spadOp m d (fun x sb => reduceOp (tileOf x.t[d]) (tileOf x.t[a]) mods.acc [0xFF800000#32]
    (fun o xs => ([vrmaxRow (o.getD 0 0) xs], {})) s.mem sb))

-- ## Split mode (R123)

/-- Partial sums combined in ascending part order. [DESIGN CHOICE, unsafe: log 22] -/
def combineSums (start : W32) (parts : List W32) : W32 × Flags := vredRow start {} parts

/-- Partial int32 sums combined, saturating. [DESIGN CHOICE, unsafe: log 22] -/
def combineInts (start : Int) (parts : List Int) : Int × Flags :=
  parts.foldl (fun acc p => let r := satInt32 (acc.1 + p); (r.1, acc.2.or { sat := r.2 })) (start, {})

/-- One Welford partial combined into the running one (R123). -/
def welCombine (a b : W32 × W32 × W32) : (W32 × W32 × W32) × Flags :=
  if b.1 = 0 then (a, {}) else if a.1 = 0 then (b, {}) else
  let sum := a.1.toNat + b.1.toNat
  let full := decide (2 ^ 32 ≤ sum)
  let n : W32 := if full then 0xFFFFFFFF#32 else BitVec.ofNat 32 sum
  let fn := f32OfNat n.toNat
  let fa := f32OfNat a.1.toNat
  let fb := f32OfNat b.1.toNat
  let d := f32Sub b.2.1 a.2.1
  let q := f32Div fb fn
  let mean := f32Fma d.1 q.1 a.2.1
  let p := f32Mul fa fb
  let w := f32Div p.1 fn
  let dd := f32Mul d.1 d.1
  let mm := f32Add a.2.2 b.2.2
  let m2 := f32Fma dd.1 w.1 mm.1
  ((n, mean.1, m2.1), [d.2, q.2, mean.2, p.2, w.2, dd.2, mm.2, m2.2].foldl Flags.or { sat := full })

/-- Welford partials combined in ascending part order. [DESIGN CHOICE, unsafe: log 22] -/
def combineWels (parts : List (W32 × W32 × W32)) : (W32 × W32 × W32) × Flags :=
  parts.foldl (fun acc p => let r := welCombine acc.1 p; (r.1, acc.2.or r.2)) ((0, 0, 0), {})

/-- The parts of a split-mode reduction over `g` granules in `n` parts: earlier parts take the extra ones (R122).
[DESIGN CHOICE, unsafe: log 22] -/
def splitParts (g n : Nat) : List Nat := (List.range n).map (fun i => g / n + (if i < g % n then 1 else 0))

-- ## The tree mask and the random values

/-- VTMSK on memory (R172). -/
def tmskOp (td ta : Tile) (m : List Host.Cell) (b : SpadBase) : Except Byte (List Host.Cell × Flags) :=
  if !td.check || (td.fmt ≠ 0x5 && td.fmt ≠ 0x3) || td.rows ≠ 64 || td.elems < 64 then .error stFormat else
  match ta.rowBytes m b with
  | .error e => .error e
  | .ok bs =>
    let ns := nodesOf (padTo 512 bs)
    let n := treeCount ns none
    overRows (fun m i =>
      td.writeRow m b false i ((List.range 64).map (fun j =>
        if maskKeeps ns n i j then Fp.fin false 0 0 else Fp.inf true))) (List.range 64) m {}

/-- VTMSK: the attention mask of the tree in A (R172). -/
def execVtmsk (m : MillName) (d a : Fin 16) (s : State) : Host.Outcome State Fault Refusal :=
  .next (s.spadOp m d (fun x sb => tmskOp (tileOf x.t[d]) (tileOf x.t[a]) s.mem sb))

/-- The sampler key of an item: its session's SEED, 0 in an item bound to no session (R178). [DEDUCED, unsafe: log 56] -/
def State.samplerKey (s : State) (i : Item) : W64 :=
  let seed (c : BitVec 18) : W64 := match sget? s.ctxs c.toNat with
    | some (.session x) => x.seed
    | _ => 0
  match i.kind with
  | .draft c => seed c
  | .slice c => seed c
  | _ => 0

/-- VRNG on memory (R178). -/
def vrngOp (key : W64) (td ta : Tile) (m : List Host.Cell) (b : SpadBase) : Except Byte (List Host.Cell × Flags) :=
  if !td.check || (td.fmt ≠ 0x5 && td.fmt ≠ 0x6) || !ta.checkBytes then .error stFormat else
  overRows (fun m i =>
    match spadGet m b (ta.rowAt i) 8 with
    | .error e => .error e
    | .ok bs =>
      let pos := BitVec.ofNat 32 (leAt bs 0 4)
      let strm := BitVec.ofNat 32 (leAt bs 4 4)
      let words := ((List.range (ceilDiv td.elems 4)).map (fun k =>
        philox (BitVec.ofNat 32 k, strm, pos, 0) (key.setWidth 32) ((key >>> 32).setWidth 32))).flatten
      let codes : List Nat := (words.take td.elems).map (fun (w : W32) =>
        if td.fmt = 0x6 then w.toNat else ((toF32 (.fin false (w >>> 8).toNat (-24))).1).toNat)
      match spadPut m b (td.rowAt i) (packCodes 32 codes) with
      | .error e => .error e
      | .ok m => .ok (m, {})) (List.range td.rows) m {}

/-- VRNG: counter-based random values under the session's key (R178). [DEDUCED, unsafe: log 56] -/
def execVrng (m : MillName) (d a : Fin 16) (s : State) : Host.Outcome State Fault Refusal :=
  let key := ((((s.mill m).issuing).bind s.item?).map s.samplerKey).getD 0
  .next (s.spadOp m d (fun x sb => vrngOp key (tileOf x.t[d]) (tileOf x.t[a]) s.mem sb))

end Sys2Proof.Machine
end

