-- ==== Sys2Proof/Machine/Debug.lean ====
section
/-! DEFINITION. Race debug (R351, R352, R432): engagement, halting and stepping mills, and debug reads. -/

namespace Sys2Proof.Machine

-- ## Engagement

/-- Race debug is engaged on a race. -/
def State.engaged (s : State) (r : RaceId) : Bool := s.mgmt.engaged.getLsbD r.val

/-- A mask with one bit set. -/
def raceBit (r : RaceId) : Byte := BitVec.ofNat 8 (2 ^ r.val)

/-- A round of the tenant is open, or an item in the tick opens one. -/
def State.hasRound (s : State) (t : TenantId) : Bool :=
  s.rounds.toList.any (fun r => match r with
    | some r => r.tenant = t
    | none => false) ||
  s.tick.items.any (fun i => i.tenant = t && i.effects.any (fun e => match e with
    | .aggOpen _ => true
    | _ => false))

/-- Race debug is engaged: the race is marked for its tenant, which hears of it, and whose rounds end at its next commit
(R351). [DEDUCED, unsafe: log 103] -/
def State.engage (s : State) (r : RaceId) : State :=
  if s.engaged r then s else
  let s := s.modMgmt (fun g => { g with engaged := g.engaged ||| raceBit r })
  match s.owner r with
  | none => s
  | some t =>
    let due := s.tenants[t].debugAbort || s.hasRound t
    (s.modTenant t (fun x => { x with debugRaces := x.debugRaces ||| raceBit r, debugAbort := due })).raise t
      { cls := 0x20, race := BitVec.ofNat 8 r.val }

/-- DEBUG_ENGAGE. -/
def execDebugEngage (q : ReqId) (r : RaceId) (s : State) : Host.Outcome State Fault Refusal :=
  .next (s.request q 0x30 2 (fun s => (s.engage r).respond q 0x30 0 []))

/-- The mark of a race goes where no tenant owns it any longer (R352, R432). -/
def State.unmark (s : State) (r : RaceId) : State :=
  forEach (allTenants.filter (fun t => !s.tenants[t].state.owns)) s (fun s t =>
    s.modTenant t (fun x => { x with debugRaces := x.debugRaces &&& ~~~(raceBit r) }))

/-- DEBUG_END: every halted mill of the race resumes; the marking stays until the tenant's scrub has ended (R352, R432). -/
def execDebugEnd (q : ReqId) (r : RaceId) (s : State) : Host.Outcome State Fault Refusal :=
  .next (s.request q 0x31 2 (fun s =>
    if !s.engaged r then s.respond q 0x31 0x05 []
    else
      let s := (s.modMgmt (fun g => { g with engaged := g.engaged &&& ~~~(raceBit r) })).unmark r
      (s.modRace r (fun x => { x with mills := x.mills.map (fun m => { m with halted := false }) })).respond q 0x31 0 []))

-- ## Halted mills

/-- The sequencer state of Table 3-4, without the seed slots. -/
def Mill.report (x : Mill) : List Nat :=
  x.pc :: x.s.toList.map (·.toNat) ++ x.t.toList.map (·.toNat) ++ x.lc.toList.map (·.toNat) ++
    x.tags.toList.map (fun t => b2n t.isSome) ++ [b2n x.ended, b2n x.bar.isSome, x.loops.length]

/-- The message body that carries a mill's sequencer state. -/
def State.millBody (s : State) (op : Nat) (m : MillName) : List Byte := Config.bodyLayout op (s.mill m).report

/-- A mill under a running self-test. -/
def State.millTested (s : State) (m : MillName) : Bool :=
  match s.test? m.race.val with
  | some x => x.running && x.code = 0x10 && x.unit.toNat = (s.races[m.race].map[m.mill]).toNat
  | none => false

/-- DEBUG_HALT. [DEDUCED, unsafe: log 133] -/
def execDebugHalt (q : ReqId) (m : MillName) (s : State) : Host.Outcome State Fault Refusal :=
  .next (s.request q 0x32 2 (fun s =>
    if !s.engaged m.race || s.millTested m then s.respond q 0x32 0x05 []
    else
      let s := s.modMill m (fun x => { x with halted := true })
      s.respond q 0x32 0 (s.millBody 0x32 m)))

/-- DEBUG_RESUME. -/
def execDebugResume (q : ReqId) (m : MillName) (s : State) : Host.Outcome State Fault Refusal :=
  .next (s.request q 0x34 2 (fun s =>
    if !s.engaged m.race || !(s.mill m).halted then s.respond q 0x34 0x05 []
    else (s.modMill m (fun x => { x with halted := false })).respond q 0x34 0 []))

-- ## One bundle (R80, R83, Tables 3-6, 3-7, 3-10, 3-11, 3-12, 3-14)

/-- The state that a meaning gives; every meaning gives one. -/
def outState (o : Host.Outcome State Fault Refusal) (s : State) : State :=
  match o with
  | .next s => s
  | _ => s

/-- A four-bit register number. -/
def reg4 (w lo : Nat) : Fin 16 := Fin.ofNat 16 (fld w lo 4)

/-- The move slot. -/
def State.runMove (s : State) (m : MillName) (w : Nat) : State :=
  outState (match fld w 20 4 with
    | 1 => execMld m (reg4 w 16) (Fin.ofNat 8 (fld w 13 3)) (reg4 w 9) (reg4 w 5) s
    | 2 => execMst m (reg4 w 16) (Fin.ofNat 8 (fld w 13 3)) (reg4 w 9) (reg4 w 5) s
    | 3 => execMcpy m (reg4 w 16) (reg4 w 9) (reg4 w 5) s
    | _ => .next s) s

/-- The matrix slot, its column checks passing. -/
def State.runMatrix (s : State) (m : MillName) (w : Nat) : State :=
  outState (match fld w 21 3 with
    | 1 => execWld m (reg4 w 17) s
    | 2 => execMma m (bitOf w 20) (reg4 w 16) (reg4 w 12) (bitOf w 11) false s
    | 3 => execMout m (reg4 w 17) (reg4 w 13) (reg4 w 9) (Fin.ofNat 3 (fld w 7 2)) (bitOf w 6) false s
    | _ => .next s) s

/-- The vector slot. -/
def State.runVector (s : State) (m : MillName) (w : Nat) : State :=
  let d := reg4 w 19
  let a := reg4 w 15
  let b := reg4 w 11
  let c := reg4 w 7
  let v : VMods := { brow := bitOf w 6, bscal := bitOf w 5, acc := bitOf w 4, sat := bitOf w 0 }
  outState (match fld w 23 5 with
    | 0x01 => execVadd m d a b v s
    | 0x02 => execVsub m d a b v s
    | 0x03 => execVmul m d a b v s
    | 0x04 => execVfma m d a b c v s
    | 0x05 => execVmax m d a b v s
    | 0x06 => execVmin m d a b v s
    | 0x07 => execVcvt m d a v s
    | 0x08 => execVexp2 m d a v s
    | 0x09 => execVlog2 m d a v s
    | 0x0A => execVrcp m d a v s
    | 0x0B => execVrsq m d a v s
    | 0x0C => execVred m d a v s
    | 0x0D => execVssq m d a v s
    | 0x0E => execVwel m d a v s
    | 0x0F => execVrmax m d a v s
    | 0x10 => execVqmx m d a v s
    | 0x11 => execVtmsk m d a s
    | 0x12 => execVrng m d a s
    | 0x13 => execVsel m d a b c v s
    | _ => .next s) s

/-- The ring slot. -/
def State.runRing (s : State) (m : MillName) (w : Nat) : State :=
  let wide := bitOf w 23
  let d := reg4 w 19
  let a := reg4 w 15
  let b := reg4 w 11
  let slot : Fin 4 := Fin.ofNat 4 (fld w 9 2)
  outState (match fld w 24 4 with
    | 1 => execRadd m wide d a b s
    | 2 => execRsub m wide d a b s
    | 3 => execRneg m wide d a s
    | 4 => execRcpy m wide d a s
    | 5 => execRzero m wide d s
    | 6 => execRxgen m wide d slot (reg4 w 5) s
    | 7 => execRxadd m wide d a slot (reg4 w 5) s
    | 8 => execRxsub m wide d a slot (reg4 w 5) s
    | _ => .next s) s

/-- The control slot, which ends the bundle. -/
def State.runControl (s : State) (m : MillName) (w : Nat) : State :=
  let x := reg4 w 15
  outState (match fld w 19 5 with
    | 0x01 => execLoop m (Fin.ofNat 4 (fld w 17 2)) (reg4 w 13) (BitVec.ofNat 12 (fld w 1 12)) s
    | 0x02 => execSkipz m x (BitVec.ofNat 8 (fld w 7 8)) s
    | 0x03 => execSkipnz m x (BitVec.ofNat 8 (fld w 7 8)) s
    | 0x04 => execSaddi m x (reg4 w 11) (BitVec.ofNat 11 w) s
    | 0x05 => execSop m x (reg4 w 11) (reg4 w 7) (Fin.ofNat 8 (fld w 4 3)) s
    | 0x06 => execSli m x (BitVec.ofNat 15 w) s
    | 0x07 => execSldc m x (BitVec.ofNat 12 (fld w 3 12)) s
    | 0x08 => execArg m x (Fin.ofNat 8 (fld w 12 3)) s
    | 0x09 => execTset m x (Fin.ofNat 5 (fld w 12 3)) (reg4 w 8) s
    | 0x0A => execTadd m x (reg4 w 11) s
    | 0x0B => execTld m x (BitVec.ofNat 12 (fld w 3 12)) s
    | 0x0C => execBar m (BitVec.ofNat 5 (fld w 14 5)) (fld w 12 2 = 1) (BitVec.ofNat 10 (fld w 2 10)) s
    | 0x0D => execWaitm m (BitVec.ofNat 16 (fld w 3 16)) s
    | 0x0E => execRngrd m x s
    | 0x0F => execTflg m x (reg4 w 11) s
    | 0x10 => execEndMill m s
    | _ => execNop m s) s

/-- One bundle of a mill's program, every slot of it. [DEDUCED, unsafe: log 135] -/
def State.runBundle (s : State) (m : MillName) : State :=
  match (s.mill m).image with
  | none => s
  | some f =>
    let b := imgBundle f (s.mill m).pc
    ((((s.runMove m (slotMove b)).runMatrix m (slotMatrix b)).runVector m (slotVector b)).runRing m (slotRing b)).runControl m
      (slotCtl b)

/-- DEBUG_STEP: exactly one bundle of a halted mill. [DEDUCED, unsafe: log 135] -/
def execDebugStep (q : ReqId) (m : MillName) (s : State) : Host.Outcome State Fault Refusal :=
  .next (s.request q 0x33 2 (fun s =>
    if !s.engaged m.race || !(s.mill m).halted then s.respond q 0x33 0x05 []
    else
      let s := (s.modMill m (fun x => { x with halted := false })).runBundle m
      let s := s.modMill m (fun x => { x with halted := true })
      s.respond q 0x33 0 (s.millBody 0x33 m)))

-- ## Debug reads (R352, R432)

/-- Bytes of consecutive registers of a race block. -/
def State.regBytes (s : State) (r : RaceId) (off len : Nat) : List Byte :=
  (List.range (len / 4)).flatMap (fun i => bytesLE 4 (s.regValue (raceReg r (off + 4 * i))))

/-- The tenant's rounds have not yet been zero-filled, or the race is in a scrub (R351, Table 13-6). -/
def State.debugSealed (s : State) (r : RaceId) : Bool :=
  match s.owner r with
  | some t => s.tenants[t].debugAbort || s.tenants[t].state = .scrubbing
  | none => false

/-- What a debug read gives: the bytes, or the status with which it is refused. [DESIGN CHOICE, unsafe: log 134] -/
def State.debugBytes (s : State) (r : RaceId) (kind : Nat) (mill : Fin 24) (off len : Nat) : State × Except Byte (List Byte) :=
  let tier (b : Bool) (size : Nat) : State × Except Byte (List Byte) :=
    if size < off + len then (s, .error 0x06) else
    match s.readSpan { race := r, tierB := b, off := off, len := len } false with
    | (s, .ok bs) => (s, .ok bs)
    | (s, .status _) => (s, .error 0x03)
    | (s, _) => (s, .error 0x03)
  match kind with
  | 0 => if 2 ^ 21 < off + len then (s, .error 0x04) else (s, .ok (s.spadRead { race := r, mill := mill } off len))
  | 1 => if 2 ^ 24 < off + len then (s, .error 0x04) else (s, .ok (memBytes s.mem (bufferAddr r off) len))
  | 2 => tier false (64 * gib)
  | 3 => tier true tenantTb
  | 4 => if off % 4 ≠ 0 || len % 4 ≠ 0 || 0x80000 < off + len then (s, .error 0x04) else (s, .ok (s.regBytes r off len))
  | _ => (s, .error 0x04)

/-- DEBUG_READ of 4 B to 60 KiB. [DEDUCED, unsafe: log 133] -/
def execDebugRead (q : ReqId) (r : RaceId) (kind : Byte) (mill : Fin 24) (off : W48) (len : W16) (s : State) :
    Host.Outcome State Fault Refusal :=
  .next (s.request q 0x35 2 (fun s =>
    if !s.engaged r then s.respond q 0x35 0x05 []
    else if len.toNat < 4 || 60 * 1024 < len.toNat then s.respond q 0x35 0x04 []
    else if s.debugSealed r then s.respond q 0x35 0x06 []
    else match s.debugBytes r kind.toNat mill off.toNat len.toNat with
      | (s, .ok bs) => s.respond q 0x35 0 bs
      | (s, .error st) => s.respond q 0x35 st []))

end Sys2Proof.Machine
end

