-- ==== Sys2Proof/Machine/Plan.lean ====
section
/-! DEFINITION. The plan phase (R39, R40, R49 to R52, R61, R64, R139, R165 to R168, R272, R276, R279, R320): which
descriptors are fetched, and which items are placed in the tick. -/

namespace Sys2Proof.Machine

/-- What a tenant's plan has used so far: budgets by class and component, journal bytes, classes that a cut item blocks. -/
structure PlanUse where
  used    : List (Nat × Nat) := []
  bytes   : Nat := 0
  blocked : List ClassId := []
deriving DecidableEq, Repr

/-- Budget of a class in a component, mill by mill. -/
def State.capacity (s : State) (t : TenantId) (c : ClassId) (comp : Nat) : Nat :=
  if 1000 ≤ comp then s.tick.cycles else s.budget t c comp

/-- Key of a class's component. -/
def useKey (c : ClassId) (comp : Nat) : Nat := c.val * 4096 + comp

/-- What a class has left in a component. -/
def State.left (s : State) (t : TenantId) (c : ClassId) (u : PlanUse) (comp : Nat) : Nat :=
  s.capacity t c comp - sget u.used (useKey c comp) 0

/-- The price fits what the class has left. -/
def State.fitsLeft (s : State) (t : TenantId) (c : ClassId) (u : PlanUse) (p : List (Nat × Nat)) : Bool :=
  p.all (fun x => decide (x.2 ≤ s.left t c u x.1))

/-- The price fits a whole tick's budget (R165). -/
def State.fitsTick (s : State) (t : TenantId) (c : ClassId) (p : List (Nat × Nat)) : Bool := s.fitsLeft t c {} p

/-- Takes a price and journal bytes. -/
def PlanUse.take (u : PlanUse) (c : ClassId) (p : List (Nat × Nat)) (jb : Nat) : PlanUse :=
  { u with bytes := u.bytes + jb, used := p.foldl (fun m x => smod m (useKey c x.1) 0 (· + x.2)) u.used }

/-- Tier A of a race waits for the restore into its fallback region (R218). -/
def State.waitsRestore (s : State) (i : Item) : Bool :=
  allRaces.any (fun r => s.races[r].mem.taLost ≠ 0 && !s.races[r].mem.fbRestored && i.uses r false)

/-- An item may be placed: the class's mills, its budgets, the log and the restore allow it. See R28. -/
def State.mayPlace (s : State) (i : Item) (u : PlanUse) (jb : Nat) : Bool :=
  let t := i.tenant
  let mills := s.tenantMills t i.cls
  i.mills.all (fun m => mills.contains m) && s.fitsLeft t i.cls u (expandPrice i.price i.mills) &&
    decide (u.bytes + jb ≤ 260480) && decide (447 ≤ s.tenants[t].jnl.free) && !s.waitsRestore i

/-- Places a new item. See R59. -/
def State.placeNew (s : State) (u : PlanUse) (i : Item) (jb : Nat) : Option (State × PlanUse) :=
  if s.mayPlace i u jb then
    some (s.modTick (fun k => { k with items := k.items ++ [{ i with id := k.nextItem }], nextItem := k.nextItem + 1 }),
          u.take i.cls (expandPrice i.price i.mills) jb)
  else none

-- ## Replays (R61)

/-- Journal bytes of a segment item (Table 12-5). -/
def segBytes (units : List Nat) : Nat :=
  let n := units.getD 0 0 + units.getD 1 0
  64 + 16 * ceilDiv (4 * n) 16 + 128 * n

/-- A cut item as it is replayed: a segment item takes the units that wait now (R139); none where nothing is left to do. -/
def State.replayOf (s : State) (i : Item) (u : PlanUse) : Option (Option Item) :=
  match i.kind with
  | .segment slot g =>
    (match s.rounds[slot] with
     | none => none
     | some r =>
       if !r.pendingWork g then none else
       match s.segMill r g with
       | none => some none
       | some m =>
         match s.segPlan slot r g (fun comp => s.left i.tenant i.cls u (if comp = 0 then cMill m else comp)) with
         | none => some none
         | some (units, price) =>
           some (some { i with mills := [m], args := units.map (BitVec.ofNat 32), price := price }))
  | .desc => (match s.desc? i.tenant i.ring i.seq with
    | some d => if d.done then none else some (some i)
    | none => none)
  | _ => (match i.session.bind s.session? with
    | some x => if x.pass.isSome then some (some i) else none
    | none => none)

/-- Journal bytes of an item that runs again. -/
def Item.journal (i : Item) : Nat :=
  match i.kind with
  | .segment _ _ => segBytes (i.args.map (·.toNat))
  | .accept _ => 32 + 96 + 64
  | .desc => journalBytes i.line (i.index = 0)
  | _ => 32

/-- Replays one cut item first in its class; one that cannot be placed blocks the class. -/
def State.replay (acc : State × PlanUse) (i : Item) : State × PlanUse :=
  let s := acc.1
  let u := acc.2
  match s.replayOf i u with
  | none => (s.modTick (fun k => { k with items := k.items.filter (fun j => j.id ≠ i.id) }), u)
  | some none => (s, { u with blocked := i.cls :: u.blocked })
  | some (some j) =>
    if u.blocked.contains i.cls || !s.mayPlace j u j.journal then (s, { u with blocked := i.cls :: u.blocked })
    else (s.modItem i.id (fun _ => { j with state := .placed, replayed := true }),
          u.take j.cls (expandPrice j.price j.mills) j.journal)

-- ## Segment items (R139)

/-- Plans an item for one segment with work pending and no item in the tick. -/
def State.planSegment (slot : Fin 64) (acc : State × PlanUse) (g : Nat) : State × PlanUse :=
  let s := acc.1
  let u := acc.2
  match s.rounds[slot] with
  | none => acc
  | some r =>
    if r.opening || !r.pendingWork g || u.blocked.contains r.cls ||
       s.tick.items.any (fun i => i.kind = .segment slot g) then acc else
    match s.segMill r g with
    | none => acc
    | some m =>
      match s.segPlan slot r g (fun comp => s.left r.tenant r.cls u (if comp = 0 then cMill m else comp)) with
      | none => acc
      | some (units, price) =>
        (s.placeNew u { id := 0, tenant := r.tenant, cls := r.cls, kind := .segment slot g, mills := [m], index := g
                        args := units.map (BitVec.ofNat 32), price := price } (segBytes units)).getD acc

/-- Plans the segment items of a tenant's rounds. -/
def State.planSegments (acc : State × PlanUse) (t : TenantId) : State × PlanUse :=
  (List.finRange 64).foldl (fun acc slot => match acc.1.roundAt t slot with
    | none => acc
    | some r => (List.range r.nseg).foldl (State.planSegment slot) acc) acc

-- ## Passes (R165 to R168, R276)

/-- Places items in order as long as each fits; answers whether all were placed. -/
def State.placeAll : List (Item × Nat) → State × PlanUse → (State × PlanUse) × Bool
  | [], acc => (acc, true)
  | (i, jb) :: rest, acc =>
    match acc.1.placeNew acc.2 i jb with
    | some acc => State.placeAll rest acc
    | none => (acc, false)

/-- Promotion items of a page in a race, split like a memory move (R166). [DEDUCED, unsafe: log 29] -/
def State.promotionItems (s : State) (x : Session) (m : Model) (c : BitVec 18) (r : RaceId) (page frame : Nat) :
    Option (List Item) :=
  let src : Span := { race := r, tierB := true, off := 0, len := m.frameBytes }
  let dst : Span := { race := r, tierB := false, off := 0, len := m.frameBytes }
  let sh := s.copyShape x.tenant [src] [dst] m.frameBytes
  (sh.items none (s.budget x.tenant x.cls)).map (fun gs =>
    (indexed gs).map (fun p =>
      let first := ((gs.take p.1).map (·.1)).sum
      { id := 0, tenant := x.tenant, cls := x.cls, kind := .promotion c, index := p.1, first := first, gran := p.2.1
        last := p.1 + 1 = gs.length, price := sh.itemPrice p.2.1 (p.1 = 0)
        args := [r.val, page, frame, first, p.2.1].map (BitVec.ofNat 32) }))

/-- The promotion items of a pass, race by race; none where one is too large. -/
def State.passPromotions (s : State) (x : Session) (m : Model) (c : BitVec 18) (p : Pass) : Option (List Item) :=
  let n := ceilDiv (x.position.toNat + p.width) 64
  (s.racesOf x.tenant).foldl (fun acc r =>
    ((promotionsOf m c.toNat r (s.promoting x.tenant x.model r) n).filter (fun q => (s.pageFrame x r q.1).isSome)).foldl (fun acc q =>
      match acc, s.promotionItems x m c r q.1 q.2 with
      | some xs, some ys => some (xs ++ ys)
      | _, _ => none) acc) (some [])

/-- The arguments of R164. -/
def decodeArgs (x : Session) (c : BitVec 18) (p : Pass) (n : Nat) : List W32 :=
  [x.position, BitVec.ofNat 32 n, c.setWidth 32, BitVec.ofNat 32 (b2n p.prefill), BitVec.ofNat 32 x.model.val]

/-- The items of a pass from its draft on that have not committed, in the order of Table 6-4. -/
def State.passItems (s : State) (x : Session) (m : Model) (c : BitVec 18) (p : Pass) : List Item :=
  let mills := s.tenantMills x.tenant x.cls
  let f := (s.setImage mills).getD []
  let base : Item := { id := 0, tenant := x.tenant, cls := x.cls }
  let draft : Item := { base with
    kind := .draft c, mills := if m.draft.isSome && !p.prefill then mills else [], price := s.draftPrice x m p f
    args := decodeArgs x c p p.width }
  let slicePrice := s.entryPrice x.tenant f m.target (ceilDiv x.position.toNat 64) p.width 1
  let slice (k : Nat) : Item := { base with
    kind := .slice c, mills := mills, index := k, first := k, gran := 1, price := slicePrice, args := decodeArgs x c p p.nodes }
  let accept : Item := { base with kind := .accept c, price := s.acceptPrice x m p }
  (if p.stage < 2 then [draft] else []) ++ ((List.range m.slices).filter (fun k => p.slice ≤ k)).map slice ++ [accept]

/-- A session's run ends at the next commit with a status, and its pass is given up (Table 6-8). -/
def State.endPass (s : State) (c : BitVec 18) (status : Byte) : State :=
  (s.modSession c (fun x => { x with ending := x.endAs status })).dropPassItems c

/-- Staging entries of a completion ring in use: counted ones and those that generation passes hold (R276).
[DEDUCED, unsafe: log 46] -/
def State.stagingHeld (s : State) (t : TenantId) (ring : BitVec 4) : Nat :=
  (s.cring t ⟨ring.toNat, by omega⟩).held.toNat +
    (s.ctxs.filter (fun c => match c.2 with
      | .session x => x.tenant = t && x.compRing = ring && (match x.pass with
        | some p => !p.prefill
        | none => false)
      | .part _ => false)).length

/-- Places the next items of a session's pass. See R31. [DEDUCED, unsafe: log 29; DEDUCED, unsafe: log 30] -/
def State.planPass (acc : State × PlanUse) (c : BitVec 18) (x : Session) (m : Model) (p : Pass) : State × PlanUse :=
  let s := acc.1
  if s.tick.items.any (fun i => i.session = some c) || acc.2.blocked.contains x.cls then acc else
  let promos := if p.stage = 0 then s.passPromotions x m c p else some []
  let items := s.passItems x m c p
  match promos with
  | none => (s.endPass c 0x01, acc.2)
  | some ps =>
    if items.any (fun i => !s.fitsTick x.tenant x.cls (expandPrice i.price i.mills)) then (s.endPass c 0x01, acc.2) else
    match State.placeAll (ps.map (fun i => (i, i.journal))) acc with
    | (acc, false) => acc
    | (acc, true) =>
      let acc := (acc.1.modPass c (fun p => { p with stage := max 1 p.stage }), acc.2)
      (State.placeAll (items.map (fun i => (i, i.journal))) acc).1

/-- Gives the turn of a model slot and class to the first session in order that has a pass or can start one; a session
without room ends its run with KV_FULL (R168). -/
def State.planTurn : List (Nat × Session) → State × PlanUse → State × PlanUse
  | [], acc => acc
  | (id, x) :: rest, acc =>
    let c := BitVec.ofNat 18 id
    match acc.1.model? x.tenant x.model.val, x.pass with
    | some m, some p => State.planPass acc c x m p
    | some m, none =>
      if x.ending.isSome then State.planTurn rest acc else
      (match acc.1.nextPass x with
       | none => State.planTurn rest (acc.1.modSession c (fun x => { x with ending := x.endAs 0x35 }), acc.2)
       | some p =>
         if !p.prefill && decide (256 ≤ acc.1.stagingHeld x.tenant x.compRing) then acc else
         State.planPass (acc.1.modSession c (fun x => { x with pass := some p }), acc.2) c { x with pass := some p } m p)
    | none, _ => State.planTurn rest (acc.1.endPass c 0x31, acc.2)

/-- A session with a pass first, then the order of the turns. -/
def Session.turn (x : Session) : Nat := if x.pass.isSome then 0 else x.order + 1

/-- Plans the passes of a tenant's sessions, one at a time for each model slot and class. -/
def State.planPasses (acc : State × PlanUse) (t : TenantId) : State × PlanUse :=
  let mine := acc.1.ctxs.filterMap (fun c => match c.2 with
    | .session x => if x.tenant = t && x.state ≠ .idle then some (c.1, x) else none
    | .part _ => none)
  let groups := (mine.map (fun p => (p.2.model, p.2.cls))).dedup
  groups.foldl (fun acc g =>
    State.planTurn ((mine.filter (fun p => (p.2.model, p.2.cls) = g)).insertionSort (fun a b => a.2.turn ≤ b.2.turn)) acc) acc

-- ## Descriptors

/-- An earlier descriptor of the ring stands in the way: one not yet started, or with FENCE one not yet completed. -/
def State.ringWaits (s : State) (t : TenantId) (d : Desc) : Bool :=
  s.tenants[t].descs.any (fun e => e.ring = d.ring && seqBefore e.seq d.seq &&
    ((!e.started && !e.done) || (dFence d.line && !(e.done && e.accepted))))

/-- An item of this tick is an earlier WSET that names the descriptor's window set (R279). -/
def State.wsetWaits (s : State) (t : TenantId) (d : Desc) : Bool :=
  (dOp d.line = 0x04 || dOp d.line = 0x05) &&
    (let w := if dOp d.line = 0x04 then dF d.line 0x10 1 else dF d.line 0x11 1
     s.tick.items.any (fun i => i.tenant = t && i.kind = .desc && dOp i.line = 0x04 && dF i.line 0x10 1 = w))

/-- The next item of an admitted descriptor. -/
def State.itemOf (s : State) (t : TenantId) (d : Desc) : Item :=
  let g := d.todo.headD 0
  let o := (d.ords.headD none)
  let isFirst := d.nextItem = 0
  let shape : Shape := { per := d.shape.1, fixed := d.shape.2.1, first := d.shape.2.2 }
  let check := dOp d.line = 0x44 && isFirst
  { id := 0, tenant := t, cls := d.cls, ring := d.ring, seq := d.seq, line := d.line, index := d.nextItem
    ordBase := o.getD 0, first := d.nextGran, gran := g, last := decide (d.todo.length ≤ 1)
    mills := match o with
      | none => d.mills
      | some k => (d.mills[k]?).toList
    wins := if dOp d.line = 0x05 then (List.range 8).map (fun n => (sget s.tenants[t].wsets (dF d.line 0x11 1) []).getD n {}) else []
    args := if dOp d.line = 0x05 then (List.range 5).map (fun k => BitVec.ofNat 32 (dF d.line (0x18 + 4 * k) 4)) else []
    price := if check then [] else shape.itemPrice g isFirst }

/-- The admission of a descriptor at the plan at which it may start (R52, R279). -/
def State.admitDesc (s : State) (t : TenantId) (d : Desc) : State :=
  match s.admission t d.line with
  | .error st => s.modDesc t d.ring d.seq (fun d => { d with refused := true, started := true, done := true, status := st })
  | .ok (x, items) =>
    let check : List (Nat × Option Nat) := if dOp d.line = 0x44 then [(0, none)] else []
    let all := check ++ items
    s.modDesc t d.ring d.seq (fun d => { d with
      todo := all.map (·.1), ords := all.map (·.2), split := all.map (·.1), shape := (x.per, x.fixed, x.first), mills := x.mills
      items := all.length })

/-- The transfer items of a release run only while the round is Releasing for it (Table 5-2). -/
def State.releaseReady (s : State) (t : TenantId) (d : Desc) : Bool :=
  dOp d.line ≠ 0x44 || d.nextItem = 0 ||
    (match s.roundOf t (dF d.line 0x10 4) with
     | some (_, r) => r.state = .releasing && (match r.release with
       | some x => x.ring = d.ring && x.seq = d.seq
       | none => false)
     | none => false)

/-- Places the next item of a descriptor, one for each descriptor and tick. -/
def State.placeDesc (s : State) (u : PlanUse) (t : TenantId) (d : Desc) : Option (State × PlanUse) :=
  if d.todo.isEmpty || u.blocked.contains d.cls || !s.releaseReady t d then none else
  (s.placeNew u (s.itemOf t d) (journalBytes d.line (d.nextItem = 0))).map (fun out =>
    (out.1.modDesc t d.ring d.seq (fun d => { d with
      started := true, todo := d.todo.tail, ords := d.ords.tail, nextGran := d.nextGran + d.todo.headD 0
      nextItem := d.nextItem + 1 }), out.2))

/-- A power command that waits names a mill group of the set: no new item is placed there (R329).
[DEDUCED, unsafe: log 32] -/
def State.groupPending (s : State) (ms : List MillName) : Bool :=
  match s.pwr.cmd with
  | some c => s.pwr.pending && c.kind = 0 && decide (c.domain.toNat < 40) && ms.any (fun m =>
      m.race.val = c.domain.toNat / 5 && (s.races[m.race].map[m.mill]).toNat / 5 = c.domain.toNat % 5)
  | none => false

/-- One descriptor's turn: a started one goes on; one that may start is admitted and placed. [DEDUCED, unsafe: log 27] -/
def State.planDesc (t : TenantId) (mayStart : Bool) (acc : State × PlanUse) (key : Fin 64 × W48) : State × PlanUse :=
  let s := acc.1
  match s.desc? t key.1 key.2 with
  | none => acc
  | some d =>
    if d.done || d.withdrawn || s.hasItem d t || (d.waits && dOp d.line ≠ 0x44 && dOp d.line ≠ 0x70) then acc
    else if d.started then (s.placeDesc acc.2 t d).getD acc
    else if !mayStart || s.ringWaits t d || s.wsetWaits t d then acc
    else
      let s := if d.todo.isEmpty then s.admitDesc t d else s
      match s.desc? t key.1 key.2 with
      | some d => if d.done || s.groupPending d.mills then (s, acc.2) else (s.placeDesc acc.2 t d).getD (s, acc.2)
      | none => (s, acc.2)

/-- Elements of lists taken in turn; `fuel` bounds the turns. -/
def interleave {α : Type} : Nat → List (List α) → List α
  | 0, _ => []
  | fuel + 1, xs =>
    let xs := xs.filter (fun l => !l.isEmpty)
    xs.filterMap List.head? ++ interleave fuel (xs.map List.tail)

/-- The rings from the one after the last served. [DEDUCED, unsafe: log 27] -/
def ringOrder (cursor : Fin 64) : List (Fin 64) := (List.range 64).map (fun i => cursor + 1 + Fin.ofNat 64 i)

/-- Plans the tenant's descriptors, ring by ring in turn from the ring after the last one served in the previous tick
(R51). -/
def State.planDescs (acc : State × PlanUse) (t : TenantId) (cursor : Fin 64) (mayStart : Bool) : State × PlanUse :=
  let ds := acc.1.tenants[t].descs
  let rings := (ringOrder cursor).filter (fun w => ds.any (fun d => d.ring = w))
  let lists := rings.map (fun w => ((ds.filter (fun d => d.ring = w)).insertionSort (fun a b => a.order ≤ b.order)).map (fun d => (d.ring, d.seq)))
  (interleave (ds.length + 1) lists).foldl (fun acc key =>
    let next := State.planDesc t mayStart acc key
    if next.1.tick.nextItem = acc.1.tick.nextItem then next
    else (next.1.modTenant t (fun x => { x with cursor := key.1 }), next.2)) acc

-- ## Fetching (R40, R52, R272, R276)

/-- A job of the RTP: PKG_OPEN or ATTEST, one for each tenant at a time (R340, R374). [DEDUCED, unsafe: log 31] -/
def rtpOp (l : Line) : Bool := dOp l = 0x88 || dOp l = 0x89

/-- The ring's staging queue is full: 128 fetched descriptors of 8 words of which no item has been placed (Tables 7-7,
7-9). [DEDUCED, unsafe: log 46; DEDUCED, unsafe: log 60] -/
def State.ringStaged (s : State) (t : TenantId) (w : Fin 64) : Bool :=
  decide (128 ≤ (s.tenants[t].descs.filter (fun d => d.ring = w && !d.started && !d.done)).length)

/-- Fetches the next descriptor of a ring; answers whether one was taken.
[DEDUCED, unsafe: log 27; DEDUCED, unsafe: log 31] -/
def State.fetchOne (s : State) (t : TenantId) (w : Fin 64) : State × Bool :=
  let x := s.wring t w
  if !x.enable || x.stop ≠ 0 || x.next = x.producer || decide (256 ≤ s.stagingHeld t x.cring) || s.ringStaged t w then
    (s, false) else
  match s.fetchLine t w x.next with
  | (s, none) => (s, false)
  | (s, some l) =>
    if dSeq l ≠ x.next then (s.ringStatus (s.lowest t) w (fun x => { x with stop := 1 }), false)
    else if rtpOp l && !s.cancelled t w x.next l && (s.tenants[t].job.isSome || s.tenants[t].descs.any (fun d => rtpOp d.line && !d.done)) then (s, false)
    else
      let gone := s.cancelled t w x.next l
      let d : Desc := { ring := w, seq := x.next, line := l, cls := dClass l, readIn := s.tick.count, withdrawn := gone
                        done := gone, status := if gone then 0x03 else 0 }
      let s := s.ringStatus (s.lowest t) w (fun x => { x with next := x.next + 1 })
      let s := s.modCring (s.lowest t) ⟨x.cring.toNat, by omega⟩ (fun c => { c with held := c.held + 1 })
      (s.modTenant t (fun y => { y with descs := y.descs ++ [d], cursor := w }), true)

/-- Fetches at most 128 descriptors, the enabled rings in turn until each gives none. -/
def State.fetchAll (s : State) (t : TenantId) : State :=
  let rings := (ringOrder s.tenants[t].cursor).filter (fun w => (s.wring t w).enable && (s.wring t w).next ≠ (s.wring t w).producer)
  ((List.range 128).foldl (fun (acc : State × Nat × List (Fin 64)) _ =>
    acc.2.2.foldl (fun (acc : State × Nat × List (Fin 64)) w =>
      if 128 ≤ acc.2.1 then acc else
      match acc.1.fetchOne t w with
      | (s, true) => (s, acc.2.1 + 1, acc.2.2)
      | (s, false) => (s, acc.2.1, acc.2.2.filter (· ≠ w))) acc) (s, 0, rings)).1

-- ## The plan of a tenant and of the tick

/-- A hopper partition of the tenant waits for its reset or the rebuild of its queues (R199). -/
def State.hopRecovering (s : State) (t : TenantId) : Bool :=
  (((s.racesOf t).map (fun r => s.hops[(Fin.ofNat 17 r.val)])) ++ [s.hops[(Fin.ofNat 17 (8 + t.val))]]).any (fun h => h.recover || h.rebuild)

/-- A hold reaches the tenant at this plan: unaccepted descriptors go back, runs end HELD (R64, Table 6-8).
[DEDUCED, unsafe: log 38] -/
def State.holdTenant (s : State) (t : TenantId) : State :=
  let s := s.giveBack t
  { s with ctxs := s.ctxs.map (fun c => match c.2 with
      | .session x => if x.tenant = t && x.state = .running then
          (c.1, .session { x with ending := x.endAs 0x38, state := if x.pass.isSome then .stopping else x.state }) else c
      | .part _ => c) }

/-- The plan of one tenant. -/
def State.planTenant (s : State) (t : TenantId) : State :=
  let hold := s.holding t
  let cursor := s.tenants[t].cursor
  let s := if hold then s.holdTenant t else s
  if s.hopRecovering t then s else
  let mayStart := s.tick.run && !hold
  let s := if mayStart && s.tenants[t].state = .inService && s.link.up then s.fetchAll t else s
  let acc := (s.tick.items.filter (fun i => i.tenant = t && i.state = .cut)).foldl State.replay (s, {})
  let acc := State.planPasses (State.planSegments acc t) t
  (State.planDescs acc t cursor mayStart).1

/-- The boundary's error against the source shrinks by at most 100 ns a tick while the source is there (R44). -/
def Tick.slew (k : Tick) : Tick :=
  if (k.source = 1 || k.source = 2) && k.ppsMiss = 0 then
    let e := k.phaseErr.toInt
    let e := if 100 < e then e - 100 else if e < -100 then e + 100 else 0
    { k with phaseErr := BitVec.ofInt 32 e, locked := decide (-1000 ≤ e) && decide (e ≤ 1000) }
  else k

/-- The link constants follow the widths at a tick boundary; cut items then have their attempts back (R255).
[DEDUCED, unsafe: log 79] -/
def State.newConstants (s : State) : State :=
  let h := BitVec.ofNat 8 (10 * s.link.rxLanes)
  let d := BitVec.ofNat 8 (10 * s.link.txLanes)
  if s.link.constH2D = h && s.link.constD2H = d then s else
  (s.modLink (fun l => { l with constH2D := h, constD2H := d })).modTick (fun k => { k with
    items := k.items.map (fun i => if i.state = .cut then { i with cuts := 0 } else i) })

/-- What takes effect at a tick boundary at which a tick begins: the count, the time, path lists, event rings, and the
counts of uncorrectable addresses (R38, R238, R286, R335, R392). -/
def State.newTick (s : State) : State :=
  let s := s.modTick (fun k => { k.slew with count := k.count + 1, phase := .execute })
  let s := s.newConstants
  let s := s.modNet (fun n => ({ n with time := n.time + BitVec.ofNat 64 (s.tick.period.toNat * 1000) } : Net).newLists)
  let s := forEach allTenants s (fun s t => s.modJnl t (fun j => { j with eventNow := (j.eventRing, j.eventEn) }))
  let s := forEach allRaces s (fun s r => s.modMem r (fun m => { m with chans := m.chans.map (fun c => { c with bad := [] }) }))
  if s.rng.rawActive && !s.rng.rawReq then s.endRaw else s

/-- The device is Active and stays so: no tick runs in another device state (R405). -/
def State.deviceActive (s : State) : Bool :=
  s.pwr.devState = 0 && (match s.pwr.cmd with
    | some c => !(c.kind = 1 && c.moving)
    | none => true)

/-- PLAN: a tick begins. A marker that was not acknowledged has abandoned its tenant's tick (R318).
[DESIGN CHOICE, unsafe: log 3; DEDUCED, unsafe: log 26; DEDUCED, unsafe: log 38; DEDUCED, unsafe: log 60] -/
def execPlan (s : State) : Host.Outcome State Fault Refusal :=
  .next (
    if !s.tick.running || !s.boundary || s.tick.warmReq || !s.deviceActive then s else
    let s := (forEach (allTenants.filter (fun t => s.tenants[t].jnl.marker)) s (fun s t => s.abandonTick t)).dueResets
    forEach (allTenants.filter s.serves) s.newTick (fun s t => s.planTenant t))

end Sys2Proof.Machine
end

