-- ==== Sys2Proof/Machine/Tick.lean ====
section
/-! DEFINITION. The general descriptors (Tables 10-11, 10-12), the start and the end of items (R60, R71 to R77, R99), the
sequencer's controls (R43 to R45, R64, R474), and the writing of completion records (R41, R275). -/

namespace Sys2Proof.Machine

-- ## General descriptors

/-- NOP. -/
def execNopDescriptor (item : Nat) (s : State) : Host.Outcome State Fault Refusal :=
  .next (s.work item 0x01 (fun _ s => s.endItem item 0 0 []))

/-- MOVE: the granules of the item, between device memory and device or host memory. -/
def execMove (item : Nat) (host : List Byte) (s : State) : Host.Outcome State Fault Refusal :=
  .next (s.work item 0x02 (fun i s =>
    let rg := i.range (dF i.line 0x20 8)
    let src := dF i.line 0x10 8 + rg.1
    let dst := dF i.line 0x18 8 + rg.1
    let dir := dF i.line 0x28 1
    let got : State × Access := if dir = 1 then (s, .ok (padTo rg.2 host)) else s.devRead i.tenant src rg.2
    s.endWith item got (fun s bs =>
      if dir = 2 then (s.hostWrite dst bs).endItem item 0 0 []
      else s.endWith item (s.devWrite i.tenant dst bs) (fun s _ => s.endItem item 0 0 []))))

/-- LOAD_IMAGE: the checks of R104 on the file; the stores of the named mills hold it from the commit (R42, R104).
[DEDUCED, unsafe: log 39] -/
def execLoadImage (item : Nat) (host : List Byte) (s : State) : Host.Outcome State Fault Refusal :=
  .next (s.work item 0x03 (fun i s =>
    let f := padTo (dF i.line 0x18 4) host
    if imageOk f then s.endItem item 0 0 [.image (maskMills i.line) f] else s.stopItem item 0x09))

/-- A window record (Table 10-12). -/
def winOf (bs : List Byte) : Win :=
  { base := BitVec.ofNat 64 (leAt bs 0 8), length := BitVec.ofNat 40 (leAt bs 8 5), kind := BitVec.ofNat 8 (leAt bs 13 1)
    access := BitVec.ofNat 8 (leAt bs 14 1) }

/-- WSET: the eight records become the window set at the commit. -/
def execWset (item : Nat) (host : List Byte) (s : State) : Host.Outcome State Fault Refusal :=
  .next (s.work item 0x04 (fun i s =>
    s.endItem item 0 0 [.wset (BitVec.ofNat 8 (dF i.line 0x10 1)) ((chunks 16 (padTo 128 host)).map winOf)]))

-- ## The start of an item

/-- A mill's sequencer at the start of an item (R71). -/
def Mill.start (m : Mill) (item ord entry : Nat) : Mill :=
  let f := m.image.getD []
  { m with
    item := some item, ord := ord, pc := imgEntry f entry, ended := false, halted := false
    s := Vector.replicate 16 0, lc := Vector.replicate 4 0, loops := [], late := [], bar := none
    tags := Vector.replicate 16 none, t := Vector.ofFn (fun k => BitVec.ofNat 64 (imgTile f k.val)) }

/-- The program entry that an item runs, none for the device's own work. -/
def State.itemEntry (s : State) (i : Item) : Option Nat :=
  let model (c : BitVec 18) : Option Model := (s.session? c).bind (fun x => s.model? x.tenant x.model.val)
  match i.kind with
  | .desc => if dOp i.line = 0x05 then some (dF i.line 0x10 1) else none
  | .draft c => if i.mills.isEmpty then none else (model c).bind Model.draft
  | .slice c => (model c).map Model.target
  | _ => none

/-- What the device does before the program of a pass item starts: the arguments of R164, and the tree of a generation
draft (Table 6-4). -/
def State.beforeStart (s : State) (i : Item) : State × Access :=
  match i.session with
  | none => (s, .ok [])
  | some c =>
    match s.session? c with
    | none => (s, .ok [])
    | some x =>
      match x.pass, i.kind with
      | some p, .slice _ =>
        let p := s.passNow c p
        (s.modItem i.id (fun i => { i with args := decodeArgs x c p p.nodes }), .ok [])
      | some _, .draft _ => s.draftStart x
      | _, _ => (s, .ok [])

/-- Starts a placed item; an item of a program takes its mills when all of them are free and the items before it in its
session have ended. -/
def State.startItem (s : State) (id : Nat) : State :=
  match s.item? id with
  | none => s
  | some i =>
    if i.state ≠ .placed || s.tick.phase ≠ .execute || (i.session.isSome && !s.passTurn i) then s else
    match s.itemEntry i with
    | none => s.modItem id (fun i => { i with state := .running })
    | some e =>
      if i.mills.any (fun m => (s.mill m).item.isSome) then s else
      match s.beforeStart i with
      | (s, .ok _) =>
        let s := s.modItem id (fun i => { i with state := .running })
        forEach (indexed i.mills) s (fun s m => s.modMill m.2 (fun x => x.start id (m.1 + i.ordBase) e))
      | (s, y) => s.accessFail id y

/-- ITEM_START. -/
def execItemStart (item : Nat) (s : State) : Host.Outcome State Fault Refusal := .next (s.startItem item)

-- ## The end of an item

/-- A mill of the item waits at a barrier that another, having ended, can no longer join, and no mill still runs (R99). -/
def State.barrierBroken (s : State) (i : Item) : Bool :=
  i.mills.all (fun m => (s.mill m).item = some i.id && ((s.mill m).ended || (s.mill m).bar.isSome)) &&
    i.mills.any (fun m => match (s.mill m).bar with
      | some b => (i.joined (if b.scope then none else some m.race)).any (fun k => (s.mill k).ended)
      | none => false)

/-- The item ends when every mill of its set has executed END and every move has completed (R77); one that ends while a
barrier is incomplete stops (R99). -/
def State.finishItem (s : State) (id : Nat) : State :=
  match s.item? id with
  | none => s
  | some i =>
    if i.state ≠ .running || i.mills.isEmpty then s
    else if s.barrierBroken i then s.stopItem id 0x08
    else if !s.millsDone i then s
    else match i.kind with
      | .desc => s.endItem id 0 0 []
      | .slice c => s.endItem id 0 0 [.sliced c]
      | _ => s

/-- ITEM_END. [DESIGN CHOICE, unsafe: log 3; DEDUCED, unsafe: log 21] -/
def execItemEnd (item : Nat) (s : State) : Host.Outcome State Fault Refusal := .next (s.finishItem item)

/-- RUN, the descriptor: a placed item of it starts its entry on the mill set, and a running one ends with its mills. -/
def execRunDescriptor (item : Nat) (s : State) : Host.Outcome State Fault Refusal :=
  .next (s.work item 0x05 (fun i s => if i.state = .placed then s.startItem item else s.finishItem item))

/-- PRICE_EXCEEDED (R76). -/
def execPriceExceeded (item : Nat) (s : State) : Host.Outcome State Fault Refusal :=
  .next (match s.item? item with
    | some i => if i.live then s.stopItem item 0x05 else s
    | none => s)

/-- EXECUTE_END: every item that has not ended is cut (R60). [DEDUCED, unsafe: log 28] -/
def execExecuteEnd (s : State) : Host.Outcome State Fault Refusal :=
  .next (
    if s.tick.phase ≠ .execute then s else
    (forEach (s.tick.items.filter Item.live) s (fun s i => s.cutItem i.id)).modTick (fun k => { k with phase := .drain }))

-- ## Controls of the sequencer

/-- RUN: the sequencer starts, or stops after the commit at which every accepted item has completed (Table 2-9).
[DEDUCED, unsafe: log 23] -/
def State.setRun (s : State) (on : Bool) : State :=
  if on then s.modTick (fun k => { k with run := true, running := true })
  else
    let s := s.modTick (fun k => { k with run := false })
    if s.boundary then s.stopCheck else s

/-- RUN. [DEDUCED, unsafe: log 23] -/
def execRun (on : Bool) (s : State) : Host.Outcome State Fault Refusal := .next (s.setRun on)

/-- HOLD: a tenant none of whose races holds it any longer is not held (R64). [DEDUCED, unsafe: log 24] -/
def State.setHold (s : State) (r : RaceId) (on : Bool) : State :=
  let s := s.modRace r (fun x => { x with hold := on })
  match s.owner r with
  | none => s
  | some t => if s.holding t then s else forEach (s.racesOf t) s (fun s r => s.modRace r (fun x => { x with held := false }))

/-- HOLD. [DEDUCED, unsafe: log 24] -/
def execHold (r : RaceId) (on : Bool) (s : State) : Host.Outcome State Fault Refusal := .next (s.setHold r on)

/-- Every item of the tenant's accepted descriptors has completed: segment items run on (R64, R152). -/
def State.quiet (s : State) (t : TenantId) : Bool :=
  s.tenants[t].descs.all (fun d => !d.accepted || d.done || d.todo.isEmpty) &&
    s.tick.items.all (fun i => i.tenant ≠ t || i.isSegment) &&
    s.ctxs.all (fun c => match c.2 with
      | .session x => x.tenant ≠ t || x.state = .idle
      | .part _ => true)

/-- HELD (R64). -/
def execHeld (t : TenantId) (s : State) : Host.Outcome State Fault Refusal :=
  .next (if s.tenants[t].state.owns && s.holding t && s.quiet t then
      forEach (s.racesOf t) s (fun s r => s.modRace r (fun x => { x with held := true }))
    else s)

/-- PPS_EDGE: the error of the last boundary against a second edge of the selected source (R44, Table 2-12). -/
def execPpsEdge (errNs : W32) (s : State) : Host.Outcome State Fault Refusal :=
  .next (s.modTick (fun k =>
    if k.source = 1 || k.source = 2 then
      { k with
        phaseErr := errNs, ppsMiss := 0, locked := decide (-1000 ≤ errNs.toInt) && decide (errNs.toInt ≤ 1000) }
    else k))

/-- LOCK_LOST (R45): the tick runs free at the last corrected rate. -/
def execLockLost (s : State) : Host.Outcome State Fault Refusal :=
  .next s.loseLock

-- ## Completion records

/-- COMPLETION_RECORD_WRITE: the oldest staged record of a ring goes to its entry while the ring has room (R41, R275); it
counts as written when its flit is acknowledged (R273). -/
def execCompletionRecordWrite (t : TenantId) (c : Fin 16) (s : State) : Host.Outcome State Fault Refusal :=
  .next (
    let x := s.cring t c
    match x.staged with
    | [] => s
    | r :: rest =>
      let w := x.written.toNat + x.flying.length
      let m := 2 ^ x.log2m.toNat
      let phase := 1 - w / m % 2
      let tx := txHeader 0x13 2 0 0xFFFFFFFF (x.base.toNat + 32 * (w % m)) ::
        toSlots (bytesLE 32 (r.data.toNat + phase * 2 ^ 31))
      if !x.enable || !s.tenants[t].state.owns || m ≤ (BitVec.ofNat 48 w - x.consumed).toNat || !s.link.txq.isEmpty ||
         !s.link.maySend tx then s else
      let s := s.modLink (fun l => l.sendTx tx)
      s.modCring (s.lowest t) c (fun x => { x with staged := rest, flying := x.flying ++ [(s.link.txNext - 1, r)] }))

end Sys2Proof.Machine
end

