-- ==== Sys2Proof/Machine/Registers.lean ====
section
/-! DEFINITION. Writes of set-up registers: what each stores, the rules under which it is accepted (R453, Table 19-5), and
the commands that a write gives. -/

namespace Sys2Proof.Machine

/-- The set-up address written and the value. -/
structure RegWrite where
  addr : Nat
  v    : Nat
deriving DecidableEq, Repr

/-- A bit of the value. -/
def RegWrite.bit (w : RegWrite) (i : Nat) : Bool := bitOf w.v i
/-- A field of the value. [DEDUCED, unsafe: log 137] -/
def RegWrite.f (w : RegWrite) (lo len : Nat) : Nat := fld w.v lo len

/-- A flag that a write of 1 clears. See R15. -/
def w1c (old : Bool) (one : Bool) : Bool := old && !one

-- ## The tick (R37, R43, R46, R58, Tables 2-9 to 2-17)

/-- A refusal whose flag is TCK_STATUS.PARAM_ERR. -/
def State.refuseParam (s : State) (addr : Nat) : State := (s.modTick (fun k => { k with paramErr := true })).writeErr addr

/-- TCK_CTRL: MARGIN_PCT only while stopped and up to 25; RUN in every case (Table 2-9). -/
def State.wTickCtrl (s : State) (w : RegWrite) : State :=
  let m := BitVec.ofNat 5 (w.f 4 5)
  let s := if m = s.tick.margin then s
    else if s.tick.running || 25 < m.toNat then s.refuseParam w.addr
    else s.modTick (fun k => { k with margin := m })
  s.setRun (w.bit 0)

/-- TCK_PERIOD: only while stopped, both fields in range and F no higher than the fabric frequency (R37, R46). -/
def State.wTickPeriod (s : State) (w : RegWrite) : State :=
  let p := w.f 0 15
  let f := w.f 16 11
  if s.tick.running || p < 25 || 20000 < p || f < 100 || 1250 < f || s.pwr.curMhz.toNat < f then s.refuseParam w.addr
  else s.modTick (fun k => { k with period := BitVec.ofNat 15 p, priceMhz := BitVec.ofNat 11 f })

/-- TCK_LOCK: 1PPS and 1588 time need 1,000,000 to be a multiple of P (R43). -/
def State.wTickLock (s : State) (w : RegWrite) : State :=
  let x := BitVec.ofNat 2 w.v
  if (x = 1 || x = 2) && 1000000 % s.tick.period.toNat ≠ 0 then s.refuseParam w.addr
  else s.modTick (fun k => if x = k.source then k else { k with source := x, locked := false, phaseErr := 0, ppsMiss := 2 })

/-- TCK_STATUS: clearing OVERRUN clears its count (R62). -/
def State.wTickStatus (s : State) (w : RegWrite) : State :=
  s.modTick (fun k => { k with
    lockLost := w1c k.lockLost (w.bit 2), paramErr := w1c k.paramErr (w.bit 3), planErr := w1c k.planErr (w.bit 4)
    overrun := w1c k.overrun (w.bit 5), overrunCnt := if w.bit 5 then 0 else k.overrunCnt })

/-- A tenant that a slot-table entry names is in service (R58). -/
def State.entryServed (s : State) (e : BitVec 4) : Bool := e.toNat < 8 && s.serves (Fin.ofNat 8 e.toNat)

/-- TCK_SLOT: each entry that changes is accepted under R58. -/
def State.wTickSlot (s : State) (path : Fin 13) (word : Nat) (w : RegWrite) : State :=
  forEach (List.finRange 64) s (fun s i =>
    if i.val / 8 ≠ word then s else
    let e := BitVec.ofNat 4 (w.f (4 * (i.val % 8)) 4)
    let old := s.tick.slots[path][i]
    if e = old then s
    else if s.entryServed e || s.entryServed old then s.refusePlan w.addr
    else s.modTick (fun k => { k with slots := k.slots.set path (k.slots[path].set i e) }))

/-- Several refusals within one write are one refused write: MULTIPLE is not set where REFUSED was clear (Table 19-9).
[DEDUCED, unsafe: log 25; DEDUCED, unsafe: log 137] -/
def State.oneRefusal (s after : State) : State :=
  if s.start.errSet then after else after.modStart (fun x => { x with errMore := x.errMore && s.start.errMore })

/-- TCK_CLASS_SHARE (R58). -/
def State.wShare (s : State) (t : TenantId) (w : RegWrite) : State :=
  let v : Vector (BitVec 4) 4 := Vector.ofFn (fun c => BitVec.ofNat 4 (w.f (4 * c.val) 4))
  if v = s.tenants[t].share then s
  else if s.serves t then s.refusePlan w.addr
  else s.modTenant t (fun x => { x with share := v })

/-- TCK_CLASS_MILLS (R58). [DEDUCED, unsafe: log 137] -/
def State.wClassMills (s : State) (r : RaceId) (w : RegWrite) : State :=
  let v : Vector (BitVec 5) 4 := Vector.ofFn (fun c => BitVec.ofNat 5 (w.f (5 * c.val) 5))
  if v = s.races[r].classMills then s
  else if s.raceServed r then s.refusePlan w.addr
  else s.modRace r (fun x => { x with classMills := v })

/-- The TCK registers of the device block. [DEDUCED, unsafe: log 25] -/
def State.wTick (s : State) (w : RegWrite) : State :=
  match w.addr with
  | 0x2000 => s.wTickCtrl w
  | 0x2004 => s.wTickPeriod w
  | 0x2008 => s.wTickLock w
  | 0x200C => s.modTick (fun k => { k with offset := BitVec.ofNat 20 w.v })
  | 0x2010 => s.wTickStatus w
  | _ => s

-- ## The hopper (R204, Tables 7-10 to 7-14)

/-- The tenant number of a partition is in service. -/
def State.hopServed (s : State) (p : HopName) : Bool :=
  match s.hopTenant p with
  | some t => s.serves t
  | none => false

/-- HOP_CTRL: MODE_NEXT under R204; RESET_REQ. -/
def State.wHopCtrl (s : State) (p : HopName) (w : RegWrite) : State :=
  let s := if w.bit 1 = (s.hop p).modeNext then s
    else if s.hopServed p && !s.hopHeld p then s.refusePlan w.addr
    else s.modHop (hopIndex p) (fun h => { h with modeNext := w.bit 1 })
  if w.bit 2 then s.modHop (hopIndex p) (fun h => { h with resetPend := true }) else s

/-- HOP_STATUS. -/
def State.wHopStatus (s : State) (p : HopName) (w : RegWrite) : State :=
  s.modHop (hopIndex p) (fun h => { h with
    poison := w1c h.poison (w.bit 0), overrun := w1c h.overrun (w.bit 1), wm := w1c h.wm (w.bit 2)
    recovered := w1c h.recovered (w.bit 3) })

/-- A word of a partition's registers. -/
def State.wHop (s : State) (p : HopName) (word : Nat) (w : RegWrite) : State :=
  match word with
  | 0 => s.wHopCtrl p w
  | 1 => s.wHopStatus p w
  | _ => s

/-- HOP_QSTAT. -/
def State.wQueue (s : State) (p : HopName) (q : Nat) (w : RegWrite) : State :=
  s.modHopQ p q (fun x => { x with
    overrun := w1c x.overrun (w.bit 19), wmLevel := BitVec.ofNat 7 (w.f 24 7), wmCnt := if w.bit 31 then 0 else x.wmCnt })

/-- HOP_DPOOL: the rule of R58, the reserves of Table 7-8, and 114,688 cells in all (R204). -/
def State.wPool (s : State) (t : TenantId) (w : RegWrite) : State :=
  let v := w.f 0 17
  let others := ((allTenants.filter (· ≠ t)).map (fun u => (s.hop (.tenant u)).cells.toNat)).sum
  if v = (s.hop (.tenant t)).cells.toNat then s
  else if s.serves t || v < 4416 || 114688 < v + others then s.refusePlan w.addr
  else s.modHop (hopIndex (.tenant t)) (fun h => { h with cells := BitVec.ofNat 17 v })

-- ## Tenants (R342 to R344, Tables 13-10 to 13-14)

/-- The set-up of a tenant number accepts writes: not from an accepted ACTIVATE on (R342, R343).
[DEDUCED, unsafe: log 102] -/
def State.setupOpen (s : State) (t : TenantId) : Bool :=
  (s.tenants[t].state = .free || s.tenants[t].state = .configured) && !s.tenants[t].activating

/-- A write that is accepted only in Free or Configured. [DEDUCED, unsafe: log 102] -/
def State.wSetup (s : State) (t : TenantId) (w : RegWrite) (f : Tenant → Tenant) : State :=
  if s.setupOpen t then s.modTenant t f else s.refusePlan w.addr

/-- MGT_TEN_*: a non-zero RACES in Free enters Configured, and RACES 0 returns to Free (Table 13-2, R341). -/
def State.wTenant (s : State) (t : TenantId) (off : Nat) (w : RegWrite) : State :=
  match off with
  | 0x0 => (s.wSetup t w (fun x => { x with
      races := BitVec.ofNat 8 w.v, rounds := BitVec.ofNat 5 (w.f 8 5), keySlots := BitVec.ofNat 11 (w.f 13 11)
      state := if w.f 0 8 = 0 then .free else .configured })).settleFw
  | 0x4 => s.wSetup t w (fun x => { x with draftBase := BitVec.ofNat 7 w.v, draftSize := BitVec.ofNat 7 (w.f 7 7) })
  | 0x8 =>
    let s := if w.bit 0 then s.activate t else s
    if w.bit 1 then s.release t (w.bit 2) else s
  | 0xC => s.modTenant t (fun x => { x with scrubDone := w1c x.scrubDone (w.bit 10) })
  | _ => s

-- ## The link

/-- HLK_LINK_* and HLK_CLASS_CANCEL and HLK_DB_MAP. -/
def State.wLink (s : State) (w : RegWrite) : State :=
  match arrayAt w.addr 0x4200 4 8, arrayAt w.addr 0x4400 4 256 with
  | some (t, _), _ => s.cancelClasses (Fin.ofNat 8 t) (BitVec.ofNat 4 w.v)
  | _, some (g, _) => s.writeDbMap (BitVec.ofNat 8 g) (BitVec.ofNat 11 w.v) w.addr
  | _, _ =>
    if w.addr = 0x4000 then s.modLink (fun l => { l with
      degraded := w1c l.degraded (w.bit 9), downEvent := w1c l.downEvent (w.bit 10) })
    else if w.addr = 0x400C && w.bit 0 then s.requestRetrain else s

-- ## The network (R281, R311, R437, R448, Tables 11-10 to 11-16)

/-- A refusal whose flag is NET_STATUS.CFG_ERR. -/
def State.refuseNet (s : State) (addr : Nat) : State := (s.modNet (fun n => { n with cfgErr := true })).writeErr addr

/-- NET_CTRL: MODE_800G only while ENABLE is 0 and every port is disabled, TIME_SRC and DSCP only while ENABLE is 0, all as
before the write; ENABLE is held until READY (R437). [DEDUCED, unsafe: log 139] -/
def State.wNetCtrl (s : State) (w : RegWrite) : State :=
  let n := s.net
  let dscp := BitVec.ofNat 6 (w.f 3 6)
  let modeBad := w.bit 1 ≠ n.mode800 && (n.enable || n.portEn ≠ 0)
  let restBad := n.enable && (w.bit 2 ≠ n.timeSrc || dscp ≠ n.dscp)
  let keep := n.enable && (modeBad || restBad)
  let s := s.modNet (fun n => { n with
    mode800 := if modeBad || keep then n.mode800 else w.bit 1
    timeSrc := if keep then n.timeSrc else w.bit 2
    dscp := if keep then n.dscp else dscp
    portEn := BitVec.ofNat 8 (w.f 9 8)
    enable := if s.start.ready then w.bit 0 else n.enable
    held := if s.start.ready then false else w.bit 0 })
  if modeBad || restBad then s.refuseNet w.addr else s

/-- A write that is accepted only while ENABLE is 0 (R311). -/
def State.wNetOpen (s : State) (w : RegWrite) (f : Net → Net) : State :=
  if s.net.enable then s.refuseNet w.addr else s.modNet f

/-- Identity, address and timeout registers. -/
def State.wNetId (s : State) (w : RegWrite) : State :=
  let v := BitVec.ofNat 32 w.v
  match w.addr with
  | 0x6004 => s.wNetOpen w (fun n => { n with moduleId := BitVec.ofNat 16 w.v, pathsM1 := BitVec.ofNat 4 (w.f 16 4) })
  | 0x6008 => s.wNetOpen w (fun n => { n with site := v })
  | 0x600C => s.wNetOpen w (fun n => { n with dstPort := BitVec.ofNat 16 w.v, srcBase := BitVec.ofNat 16 (w.f 16 16) })
  | 0x6010 => s.wNetOpen w (fun n => { n with addr4 := v })
  | 0x6014 => s.wNetOpen w (fun n => { n with addr6 := n.addr6.set 0 v })
  | 0x6018 => s.wNetOpen w (fun n => { n with addr6 := n.addr6.set 1 v })
  | 0x601C => s.wNetOpen w (fun n => { n with addr6 := n.addr6.set 2 v })
  | 0x6020 => s.wNetOpen w (fun n => { n with addr6 := n.addr6.set 3 v })
  | 0x6024 => s.wNetOpen w (fun n => { n with disc4 := v })
  | 0x6028 => s.wNetOpen w (fun n => { n with disc6 := n.disc6.set 0 v })
  | 0x602C => s.wNetOpen w (fun n => { n with disc6 := n.disc6.set 1 v })
  | 0x6030 => s.wNetOpen w (fun n => { n with disc6 := n.disc6.set 2 v })
  | 0x6034 => s.wNetOpen w (fun n => { n with disc6 := n.disc6.set 3 v })
  | 0x6040 =>
    if s.net.enable || w.f 0 10 < 5 || 1000 < w.f 0 10 then s.refuseNet w.addr
    else s.modNet (fun n => { n with reasmMs := BitVec.ofNat 10 w.v })
  | _ => s

/-- NET_PTP: while the clock does not run its servo is not locked. [DEDUCED, unsafe: log 139] -/
def State.wPtp (s : State) (w : RegWrite) : State :=
  (s.modNet (fun n => { n with
    ptpEn := w.bit 0, ptpPort := BitVec.ofNat 3 (w.f 1 3), ptpLocked := n.ptpLocked && w.bit 0
    ptpGood := if w.bit 0 then n.ptpGood else 0, ptpBad := if w.bit 0 then n.ptpBad else 0 })).servoLost s.net.ptpLocked

/-- NET_TIME_LO and NET_TIME_HI: ignored while TIME_SRC is 1 (Table 11-15); the high word is held (R448). -/
def State.wNetTime (s : State) (hi : Bool) (w : RegWrite) : State :=
  if s.net.timeSrc then s.writeErr w.addr
  else if hi then s.modNet (fun n => { n with timeHi := some (BitVec.ofNat 32 w.v) })
  else s.writeNetTime (BitVec.ofNat 32 w.v)

/-- A word of a peer's address. -/
def putAddr (a : BitVec 128) (i v : Nat) : BitVec 128 := BitVec.ofNat 128 (putFld a.toNat (96 - 32 * i) 32 v)

/-- NET_PEER: an entry that the host sets or clears starts with no path state (Table 11-16, R286).
[DEDUCED, unsafe: log 139] -/
def Peer.write (p : Peer) (off : Nat) (w : RegWrite) : Peer :=
  match off with
  | 0x00 =>
    let p := if w.bit 0 = p.valid then p else
      { p with disc := false, stale := false, down := [], up := [], missed := [], probes := [], reply := false }
    { p with valid := w.bit 0, v6 := w.bit 1, mask := BitVec.ofNat 8 (w.f 4 8) }
  | 0x04 => { p with id := BitVec.ofNat 16 w.v }
  | 0x08 => { p with addr := putAddr p.addr 0 w.v }
  | 0x0C => { p with addr := putAddr p.addr 1 w.v }
  | 0x10 => { p with addr := putAddr p.addr 2 w.v }
  | 0x14 => { p with addr := putAddr p.addr 3 w.v }
  | _ => p

/-- A write of a peer entry; one that makes two entries in use hold one module ID is an ID conflict (R308). -/
def State.wPeer (s : State) (e : Nat) (w : RegWrite) : State :=
  let old := sget s.net.peers e {}
  let new := old.write (w.addr % 0x20) w
  let s := s.modNet (fun n => { n with peers := sset n.peers e new })
  if new.valid && !(old.valid && old.id = new.id) && s.net.peers.any (fun p => p.1 ≠ e && p.2.valid && p.2.id = new.id) then
    (s.modNet (fun n => { n with idConflict := true })).logEvent 0xFF { cls := 0x0A, part := 4 }
  else s

/-- NET_PORT_CFG. -/
def Port.write (p : Port) (off : Nat) (w : RegWrite) : Port :=
  match off with
  | 0x0 => { p with vlanEn := w.bit 0, vlanId := BitVec.ofNat 12 (w.f 1 12) }
  | 0x4 => { p with nhMac := BitVec.ofNat 48 (putFld p.nhMac.toNat 0 32 w.v) }
  | 0x8 => { p with nhMac := BitVec.ofNat 48 (putFld p.nhMac.toNat 32 16 w.v) }
  | _ => p

/-- The network registers. -/
def State.wNet (s : State) (w : RegWrite) : State :=
  if 0x7000 ≤ w.addr then s.wPeer ((w.addr - 0x7000) / 0x20) w
  else match arrayAt w.addr 0x6080 0x10 8 with
    | some (q, off) => s.modNet (fun n => { n with ports := n.ports.set (Fin.ofNat 8 q) ((n.ports[(Fin.ofNat 8 q)]).write off w) })
    | none =>
      match w.addr with
      | 0x6000 => s.wNetCtrl w
      | 0x6044 => s.modNet (fun n => { n with
          cfgErr := w1c n.cfgErr (w.bit 8), idConflict := w1c n.idConflict (w.bit 9), peerFull := w1c n.peerFull (w.bit 10) })
      | 0x6200 => s.wPtp w
      | 0x6208 => s.wNetTime false w
      | 0x620C => s.wNetTime true w
      | _ => s.wNetId w

-- ## Random numbers, journal, power, management

/-- RNG_CTRL: RAW_VANE and FB_FREEZE only while RAW_ACTIVE is 0 (R395). -/
def State.wRngCtrl (s : State) (w : RegWrite) : State :=
  let v := BitVec.ofNat 2 (w.f 3 2)
  let same := v = s.rng.rawVane && w.bit 5 = s.rng.freeze
  let s := if same then s
    else if s.rng.rawActive then s.writeErr w.addr
    else s.modRng (fun g => { g with rawVane := v, freeze := w.bit 5 })
  if w.bit 0 = s.rng.rawReq then s else s.setRawReq (w.bit 0)

/-- The RNG registers. -/
def State.wRng (s : State) (w : RegWrite) : State :=
  match w.addr with
  | 0x9000 => s.wRngCtrl w
  | 0x9004 => s.modRng (fun g => { g with
      blockFail := w1c g.blockFail (w.bit 12), retireEvent := w1c g.retireEvent (w.bit 13) })
  | 0x9050 => s.modRng (fun g => { g with underrun := w1c g.underrun (w.bit 9), overflow := w1c g.overflow (w.bit 10) })
  | _ => s

/-- JNL_WARM_RESET: the key asks for a warm reset after the current commit; any other value is ignored (Table 12-12).
[DEDUCED, unsafe: log 140] -/
def State.wWarm (s : State) (w : RegWrite) : State :=
  if w.v = 0x57525354 then s.modTick (fun k => { k with warmReq := true }) else s

/-- The journal registers of the device block. -/
def State.wJnl (s : State) (w : RegWrite) : State :=
  if w.addr = 0xA000 then { s with warmDone := w1c s.warmDone (w.bit 1), recoverErr := w1c s.recoverErr (w.bit 2) }
  else if w.addr = 0xA004 then s.wWarm w
  else match arrayAt w.addr 0xA10C 0x10 8 with
    | some (t, 0) => s.modJnl (Fin.ofNat 8 t) (fun j => { j with eventRing := BitVec.ofNat 4 w.v, eventEn := w.bit 4 })
    | _ => s

/-- The power registers. -/
def State.wPwr (s : State) (w : RegWrite) : State :=
  if w.addr = 0xB000 then
    s.pwrCmd (BitVec.ofNat 2 w.v) (BitVec.ofNat 7 (w.f 2 7)) (BitVec.ofNat 2 (w.f 9 2)) (BitVec.ofNat 11 (w.f 11 11)) none
  else if w.addr = 0xB004 then s.modPwr (fun p => { p with
    done := w1c p.done (w.bit 2), cmdErr := w1c p.cmdErr (w.bit 3), pfWarn := w1c p.pfWarn (w.bit 10)
    phaseFault := w1c p.phaseFault (w.bit 11) })
  else if w.addr = 0xB034 then (if w.bit 31 then s.clearPeak else s)
  else match arrayAt w.addr 0xB080 4 15 with
    | some (r, _) => s.modPwr (fun p =>
        let i := Fin.ofNat 15 r
        let x := p.rails[i]
        { p with rails := p.rails.set i { x with fault := w1c x.fault (w.bit 31) } })
    | none => s

/-- MGT_ANCHOR_CTRL. -/
def State.wAnchor (s : State) (w : RegWrite) : State :=
  let s := s.modMgmt (fun g => { g with
    anchorLen := BitVec.ofNat 11 (w.f 1 11), installed := w1c g.installed (w.bit 12), refused := w1c g.refused (w.bit 13) })
  if w.bit 0 then s.installAnchor (BitVec.ofNat 11 (w.f 1 11)) else s

/-- MGT_TEST_REQ. -/
def State.wTestReq (s : State) (w : RegWrite) : State :=
  let code := BitVec.ofNat 8 w.v
  let race := BitVec.ofNat 4 (w.f 8 4)
  let unit := BitVec.ofNat 6 (w.f 12 6)
  let s := s.modMgmt (fun g => { g with reqCode := code, reqRace := race, reqUnit := unit, done := w1c g.done (w.bit 22) })
  let s := if w.bit 19 then s.cancelHost else s
  if w.bit 18 then s.goTest code race unit else s

/-- MGT_TEST_ARG: only while the host's test is neither pending nor running (R433). -/
def State.wTestArg (s : State) (k : Fin 4) (w : RegWrite) : State :=
  if s.mgmt.hostTest.isSome then s.writeErr w.addr
  else
    let v := if k = 1 || k = 3 then w.f 0 16 else w.f 0 32
    s.modMgmt (fun g => { g with args := g.args.set k (BitVec.ofNat 32 v) })

/-- The management registers. -/
def State.wMgmt (s : State) (w : RegWrite) : State :=
  if w.addr = 0xC000 then s.modMgmt (fun g => { g with authFail := w1c g.authFail (w.bit 13) })
  else if w.addr = 0xC004 then s.wAnchor w
  else if w.addr = 0xC100 then s.wTestReq w
  else match arrayAt w.addr 0xC104 4 4, arrayAt w.addr 0xC800 4 488 with
    | some (k, _), _ => s.wTestArg (Fin.ofNat 4 k) w
    | _, some (i, _) => s.modMgmt (fun g => { g with anchorData := sset g.anchorData i (BitVec.ofNat 32 w.v) })
    | _, _ => s

-- ## The blocks

/-- The head of the device block: MGT_SCRATCH and MGT_WRITE_ERR, whose own write is never refused. -/
def State.wHead (s : State) (w : RegWrite) : State :=
  match w.addr with
  | 0x10 => s.modStart (fun x => { x with scratch := BitVec.ofNat 32 w.v })
  | 0x14 => s.modStart (fun x => { x with errSet := w1c x.errSet (w.bit 24), errMore := w1c x.errMore (w.bit 25) })
  | _ => s

/-- A write in the device block. -/
def State.writeDevice (s : State) (w : RegWrite) : State :=
  let o := w.addr
  if o < 0x1000 then s.wHead w
  else if o < 0x2000 then match arrayAt o 0x1000 0x20 8 with
    | some (t, off) => s.wTenant (Fin.ofNat 8 t) off w
    | none => s
  else if o < 0x2100 then s.wTick w
  else if o < 0x3000 then match arrayAt o 0x2100 0x20 13, arrayAt o 0x2300 4 8 with
    | some (p, off), _ => s.wTickSlot (Fin.ofNat 13 p) (off / 4) w
    | _, some (t, _) => s.wShare (Fin.ofNat 8 t) w
    | _, _ => s
  else if o < 0x4000 then match arrayAt o 0x3000 0x10 9, arrayAt o 0x3100 4 8 with
    | some (p, off), _ => s.wHop (copyPart p) (off / 4) w
    | _, some (t, _) => s.wPool (Fin.ofNat 8 t) w
    | _, _ => s
  else if o < 0x5000 then s.wLink w
  else if o < 0x6000 then s
  else if o < 0x9000 then s.wNet w
  else if o < 0xA000 then s.wRng w
  else if o < 0xB000 then s.wJnl w
  else if o < 0xC000 then s.wPwr w
  else if o < 0xE000 then s.wMgmt w
  else match arrayAt o 0xE000 8 8, arrayAt o 0x440000 4 16384 with
    | some (t, off), _ => s.wSetup (Fin.ofNat 8 t) w (fun x =>
        if off = 0 then { x with ctxBase := BitVec.ofNat 18 w.v } else { x with ctxCount := BitVec.ofNat 19 w.v })
    | _, some (q, _) => s.wQueue (devicePart q) q w
    | _, _ => s

/-- A write in the security block (R342, R379, R380); `o` is the block offset. -/
def State.writeSec (s : State) (o : Nat) (w : RegWrite) : State :=
  if o = 0x800 then s.mbxWrite (BitVec.ofNat 8 w.v)
  else if o = 0x804 then s.modSec (fun c => { c with done := w1c c.done (w.bit 1), err := w1c c.err (w.bit 2) })
  else match arrayAt o 0x100 0x40 8, arrayAt o 0x1000 4 1024 with
    | some (t, off), _ =>
      if off < 0x20 then s.wSetup (Fin.ofNat 8 t) w (fun x => { x with domain := BitVec.ofNat 256 (putFld x.domain.toNat (8 * off) 32 w.v) })
      else if off = 0x20 then s.wSetup (Fin.ofNat 8 t) w (fun x => { x with cells := BitVec.ofNat 11 w.v })
      else if off = 0x24 then s.wSetup (Fin.ofNat 8 t) w (fun x => { x with flocks := BitVec.ofNat 32 w.v })
      else s
    | _, some (i, _) => s.modSec (fun c => { c with arg := sset c.arg i (BitVec.ofNat 32 w.v) })
    | _, _ => s

/-- MIL_CSUM_CTRL: only while no tenant has the race in service (R105); a TOL_EXP outside 8 to 23 is ignored. -/
def State.wCsum (s : State) (r : RaceId) (w : RegWrite) : State :=
  if s.raceServed r then s.writeErr w.addr
  else
    let e := w.f 2 5
    let ok := 8 ≤ e && decide (e ≤ 23)
    let s := s.modRace r (fun x => { x with
      intEn := w.bit 0, floatEn := w.bit 1, tolExp := if ok then BitVec.ofNat 5 e else x.tolExp })
    if ok then s else s.writeErr w.addr

/-- The memory registers of a race. See R449. [DEDUCED, unsafe: log 141] -/
def State.wMem (s : State) (r : RaceId) (o : Nat) (w : RegWrite) : State :=
  match o with
  | 0x804 => s.modMem r (fun m => { m with unregLost := w1c m.unregLost (w.bit 7) })
  | 0x808 => s.modMem r (fun m => { m with
      rebuildDone := w1c m.rebuildDone (w.bit 20), retrainFail := w1c m.retrainFail (w.bit 21) })
  | 0x80C =>
    let ch := BitVec.ofNat 4 (w.f 1 4)
    if w.bit 0 then s.rebuildReq r ch else s.modMem r (fun m => { m with tbChannel := ch })
  | 0x814 => s.modMem r (fun m => { m with derateSeen := w1c m.derateSeen (w.bit 4) })
  | 0xA00 => s.modMem r (fun m => { m with bucketCap := BitVec.ofNat 10 w.v, leakMs := BitVec.ofNat 16 (w.f 10 16) })
  | 0xA04 => s.modMem r (fun m => { m with
      bucketOvf := w1c m.bucketOvf (w.bit 0), uncorr := w1c m.uncorr (w.bit 1), remapAlloc := w1c m.remapAlloc (w.bit 2)
      failing := w1c m.failing (w.bit 3) })
  | 0xA08 => (s.modMem r (fun m => { m with fired := w1c m.fired (w.bit 7), refused := w1c m.refused (w.bit 8) })).writeArm r
      (w.bit 0) (BitVec.ofNat 6 (w.f 1 6))
  | 0xA0C => s.modMem r (fun m => { m with flipBurst := BitVec.ofNat 29 w.v })
  | _ =>
    match arrayAt o 0xA10 4 9, arrayAt o 0xB00 4 46 with
    | some (i, _), _ => s.modMem r (fun m => { m with flipMask := BitVec.ofNat 288 (putFld m.flipMask.toNat (32 * i) 32 w.v) })
    | _, some (ch, _) => s.modChan r (Fin.ofNat 46 ch) (fun c => { c with ovf := w1c c.ovf (w.bit 10) })
    | _, _ => s

/-- A write in a race block; `o` is the block offset. -/
def State.writeRace (s : State) (r : RaceId) (o : Nat) (w : RegWrite) : State :=
  match o with
  | 0x200 => s.wClassMills r w
  | 0x204 => s.setHold r (w.bit 0)
  | 0x300 => s.wCsum r w
  | 0x304 => s.modRace r (fun x => { x with mismatch := w1c x.mismatch (w.bit 0), retired := w1c x.retired (w.bit 1) })
  | 0x400 => s.wHop (.race r) 0 w
  | 0x404 => s.wHop (.race r) 1 w
  | 0x600 => if w.bit 0 then s.requestReset r else s
  | _ =>
    if o < 0x800 then s
    else if o < 0x2000 then s.wMem r o w
    else match arrayAt o 0x2000 0x10 64, arrayAt o 0x2400 0x10 16, arrayAt o 0x10000 4 4096 with
      | some (k, off), _, _ =>
        if off = 0 then s.writeWringBase r (Fin.ofNat 64 k) false w.v
        else if off = 4 then s.writeWringBase r (Fin.ofNat 64 k) true w.v
        else if off = 8 then s.writeWringCfg r (Fin.ofNat 64 k) w.v else s
      | _, some (k, off), _ =>
        if off = 0 then s.writeCringBase r (Fin.ofNat 16 k) false w.v
        else if off = 4 then s.writeCringBase r (Fin.ofNat 16 k) true w.v
        else if off = 8 then s.writeCringCfg r (Fin.ofNat 16 k) w.v else s
      | _, _, some (q, _) => s.wQueue (.race r) q w
      | _, _, _ => s

/-- Before READY a write takes effect only in the network registers (R437). -/
def State.writeServed (s : State) (a : Nat) : Bool :=
  s.start.ready || (s.pwr.alive && 0x6000 ≤ a && decide (a < 0x9000))

/-- A host write of a set-up register. [DEDUCED, unsafe: log 138] -/
def State.writeReg (s : State) (a v : Nat) : State :=
  let w : RegWrite := { addr := a, v := v }
  if setupHole a || !s.writeServed a then s
  else s.oneRefusal (
    if a < 0x800000 then s.writeDevice w
    else if a < 0x810000 then s.writeSec (a - 0x800000) w
    else s.writeRace (Fin.ofNat 8 ((a - 0xC00000) / 0x80000)) ((a - 0xC00000) % 0x80000) w)

/-- REGISTER_WRITE: of the aligned word at the address (R453). -/
def execRegisterWrite (addr : BitVec 24) (value : W32) (s : State) : Host.Outcome State Fault Refusal :=
  .next (if addr.toNat % 4 ≠ 0 then s else s.writeReg addr.toNat value.toNat)

end Sys2Proof.Machine
end

