-- ==== Sys2Proof/Machine/Link.lean ====
section
/-! DEFINITION. Flits and transactions that reach the device (R258 to R268, Table 10-6), the requests that it sends, and
the acknowledgement with which a completion record counts as written (R273). -/

namespace Sys2Proof.Machine

-- ## Records written (R273 to R276)

/-- The lowest sequence of a ring whose slot is not released: that of its oldest descriptor, or the next to be fetched. -/
def lowestHeld (w : WorkRing) (held : List W48) : W48 :=
  w.released + BitVec.ofNat 48 (held.foldl (fun n q => min n (q - w.released).toNat) (w.next - w.released).toNat)

/-- A record's descriptor is over: its slot is released once every earlier one of its ring is (R273). -/
def State.dropDesc (s : State) (t : TenantId) (ring : Fin 64) (seq : W48) : State :=
  let s := s.modTenant t (fun x => { x with descs := x.descs.filter (fun d => !(d.ring = ring && d.seq = seq)) })
  let held := (s.tenants[t].descs.filter (fun d => d.ring = ring)).map (·.seq)
  if lowestHeld (s.wring t ring) held = (s.wring t ring).released then s
  else s.ringStatus (s.lowest t) ring (fun w => { w with released := lowestHeld w held })

/-- A record counts as written: WRITTEN advances, its staging entry is free, and the journal no longer keeps it. -/
def State.recordDone (s : State) (r : RaceId) (c : Fin 16) (x : Rec) : State :=
  let s := (s.snoopPage s.races[r].crings[c].page 1).modCring r c (fun k => { k with
    written := k.written + 1, held := if k.held = 0 then 0 else k.held - 1 })
  match s.owner r with
  | none => s
  | some t =>
    let s := s.modJnl t (fun j => j.recordWritten x)
    match x.desc with
    | some (ring, seq) => s.dropDesc t ring seq
    | none => s

/-- The records of a ring that the acknowledged flits carried, in order. -/
def State.ringAcked (s : State) (r : RaceId) (c : Fin 16) (fs : List (BitVec 12)) : State :=
  let k := s.races[r].crings[c]
  let hit := k.flying.filter (fun p => fs.contains p.1)
  if hit.isEmpty then s else
  let s := s.modCring r c (fun k => { k with flying := k.flying.filter (fun p => !fs.contains p.1) })
  forEach hit s (fun s p => s.recordDone r c p.2)

/-- Flits up to a sequence are acknowledged: they leave the replay buffer (R259). -/
def State.ackFlits (s : State) (n : BitVec 12) : State :=
  if !s.link.unacked.any (fun f => f.1 = n) then s else
  let kept := (s.link.unacked.dropWhile (fun f => f.1 ≠ n)).drop 1
  let fs := (s.link.unacked.take (s.link.unacked.length - kept.length)).map (·.1)
  let s := s.modLink (fun l => { l with unacked := kept })
  forEach allRaces s (fun s r => forEach (List.finRange 16) s (fun s c => s.ringAcked r c fs))

-- ## Host requests

/-- BE selects exactly one aligned group of four bytes: the group (R446). -/
def beGroup (be : W32) : Option Nat :=
  match fld be.toNat 0 16 with
  | 0x000F => some 0
  | 0x00F0 => some 1
  | 0x0F00 => some 2
  | 0xF000 => some 3
  | _ => none

/-- The set-up address that a configuration request names; none where it breaks a rule of R446 or names a hole. -/
def cfgAddr (addr : W64) (be : W32) : Option Nat :=
  match beGroup be with
  | none => none
  | some g => if addr.toNat % 16 ≠ 0 || setupHole addr.toNat then none else some (addr.toNat + 4 * g)

/-- CFG_RD: all 32 bits, in the bytes that BE selects (R268, R446, R447). -/
def State.cfgRd (s : State) (tag : BitVec 12) (addr : W64) (be : W32) : State :=
  let s := s.credit 8 1
  match cfgAddr addr be with
  | none => s.sendCpl tag 1
  | some a =>
    let r := s.readReg a
    r.1.sendCplData tag [BitVec.ofNat 128 (r.2 * 2 ^ (8 * (a % 16)))]

/-- CFG_RD. -/
def execCfgRd (tag : BitVec 12) (addr : W64) (be : W32) (s : State) : Host.Outcome State Fault Refusal :=
  .next (s.cfgRd tag addr be)

/-- CFG_WR: it takes effect before its CPL is sent (R447). -/
def State.cfgWr (s : State) (tag : BitVec 12) (addr : W64) (be : W32) (value : W32) : State :=
  let s := s.credit 8 2
  match cfgAddr addr be with
  | none => s.sendCpl tag 1
  | some a => if s.writeServed a then (s.writeReg a value.toNat).sendCpl tag 0 else s.sendCpl tag 1

/-- CFG_WR. -/
def execCfgWr (tag : BitVec 12) (addr : W64) (be : W32) (value : W32) (s : State) : Host.Outcome State Fault Refusal :=
  .next (s.cfgWr tag addr be value)

/-- SNP_INV from the host: the line leaves every partition of the link cache, a fill on its way is used once, and the
device answers (R263, R264). [DESIGN CHOICE, unsafe: log 81] -/
def State.snoopIn (s : State) (tag : BitVec 12) (addr : W64) : State :=
  let line (a : W64) : Bool := a.toNat / 64 = addr.toNat / 64
  let s := s.modLink (fun l => { l with
    cache := l.cache.map (fun c => c.filter (fun p => !line p.1))
    reqs := l.reqs.map (fun q => match q.2 with
      | .ringRead t w a keep => (q.1, .ringRead t w a (keep && !line a))
      | _ => q)
    credits := l.credits ++ [(snpPool, 1)] })
  s.sendCpl tag 0

/-- SNP_INV. -/
def execSnpInv (tag : BitVec 12) (addr : W64) (s : State) : Host.Outcome State Fault Refusal := .next (s.snoopIn tag addr)

-- ## Responses (Table 10-6)

/-- The request of a tag, which is then no longer outstanding. [DEDUCED, unsafe: log 73] -/
def State.closeReq (s : State) (tag : BitVec 12) : State := s.modLink (fun l => { l with reqs := sdel l.reqs tag.toNat })

/-- A response with an unknown tag is discarded, with a fault event. [DESIGN CHOICE, unsafe: log 74] -/
def State.unknownTag (s : State) : State := s.logEvent 0xFF { cls := Config.unknownTagClass }

/-- A read that failed stops its ring with STOP, or its item with a status (Table 10-6). -/
def State.readFailed (s : State) (q : LinkReq) (stop : BitVec 2) (status : Byte) : State :=
  match q with
  | .ringRead t w _ _ => if s.serves t then s.ringStatus (s.lowest t) w (fun x => { x with stop := stop }) else s
  | .itemRead i => match s.item? i with
    | some x => if x.live then s.stopItem i status else s
    | none => s
  | .snoop _ => s

/-- A line that arrives: into the link cache, or for the fetch in progress only (R264). [DEDUCED, unsafe: log 100] -/
def State.lineArrives (s : State) (t : TenantId) (a : W64) (keep : Bool) (x : Line) : State :=
  if !s.serves t then s
  else if keep then s.modLink (fun l => { l with cache := l.cache.set t (cacheFill l.cache[t] a x) })
  else s.modLink (fun l => { l with once := l.once.set t ((a, x) :: l.once[t]) })

/-- CPL: a snoop is done; a read that it answers brought no data. [DEDUCED, unsafe: log 73] -/
def State.cplIn (s : State) (tag : BitVec 12) (_status : Byte) : State :=
  match sget? s.link.reqs tag.toNat with
  | none => s.unknownTag
  | some q => (s.closeReq tag).readFailed q 2 0x0F

/-- CPL. -/
def execCpl (tag : BitVec 12) (status : Byte) (s : State) : Host.Outcome State Fault Refusal := .next (s.cplIn tag status)

/-- CPL_DATA: the data of a read, or POISON, which stops the ring or the item. [DEDUCED, unsafe: log 73] -/
def State.cplDataIn (s : State) (tag : BitVec 12) (status : Byte) (data : List (BitVec 128)) : State :=
  match sget? s.link.reqs tag.toNat with
  | none => s.unknownTag
  | some q =>
    let s := s.closeReq tag
    if status ≠ 0 then s.readFailed q 2 0x0F else
    match q with
    | .ringRead t _ a keep => s.lineArrives t a keep (BitVec.ofNat 512 (natLE (slotBytes data)))
    | _ => s

/-- CPL_DATA. -/
def execCplData (tag : BitVec 12) (status : Byte) (data : List (BitVec 128)) (s : State) : Host.Outcome State Fault Refusal :=
  .next (s.cplDataIn tag status data)

/-- HOST_TIMEOUT: no response within 50 µs. -/
def execHostTimeout (tag : BitVec 12) (s : State) : Host.Outcome State Fault Refusal :=
  .next (match sget? s.link.reqs tag.toNat with
    | none => s
    | some (.snoop _) => s
    | some q => (s.closeReq tag).readFailed q 3 0x10)

-- ## Device requests

/-- RD_SHARED: a ring line that the link cache does not hold is read (R263, R272). -/
def execRdShared (t : TenantId) (w : Fin 64) (seq : W48) (s : State) : Host.Outcome State Fault Refusal :=
  .next (
    let a := (s.wring t w).slotAddr seq
    if !s.serves t || s.link.cache[t].any (fun p => p.1 = a) || s.link.once[t].any (fun p => p.1 = a) then s
    else (s.fetchLine t w seq).1)

/-- A transfer stays inside 256 B of host memory, in whole slots (R472). -/
def hostChunk (addr slots : Nat) : Bool := addr % 16 = 0 && decide (1 ≤ slots) && decide (addr % 256 + 16 * slots ≤ 256)

/-- RD_NC for a running item; what it brings is an operand of the item's own command. -/
def execRdNc (item : Nat) (addr : W64) (slots : Fin 17) (s : State) : Host.Outcome State Fault Refusal :=
  .next (match s.item? item with
    | none => s
    | some i =>
      if !i.live || !hostChunk addr.toNat slots.val then s else
      match s.openReq (.itemRead item) with
      | none => s
      | some (tag, s) => s.issue [txHeader 0x12 0 tag (slots.val * 2 ^ 16) addr.toNat])

/-- WR_NC: posted. -/
def execWrNc (addr : W64) (data : List (BitVec 128)) (s : State) : Host.Outcome State Fault Refusal :=
  .next (if hostChunk addr.toNat data.length then s.postWrite addr.toNat data else s)

-- ## Flits (R258 to R260)

/-- The four bytes that BE selects of a data slot. -/
def cfgValue (be : W32) (d : BitVec 128) : W32 := BitVec.ofNat 32 (fld d.toNat (32 * (beGroup be).getD 0) 32)

/-- A transaction from the host: one that Table 10-5 does not let it send receives CPL with UR. -/
def State.transaction (s : State) (h : BitVec 128) (data : List (BitVec 128)) : State :=
  let tag := BitVec.ofNat 12 (fld h.toNat 16 12)
  let be := BitVec.ofNat 32 (fld h.toNat 32 32)
  let addr := BitVec.ofNat 64 (fld h.toNat 64 64)
  match slotOpc h, data with
  | 0x01, [] => s.cfgRd tag addr be
  | 0x02, [d] => s.cfgWr tag addr be (cfgValue be d)
  | 0x03, [] => s.dbRd tag addr
  | 0x04, [d] => s.dbWr tag addr be (BitVec.ofNat 64 d.toNat)
  | 0x20, [] => s.snoopIn tag addr
  | 0x30, _ => s.cplIn tag (BitVec.ofNat 8 be.toNat)
  | 0x31, _ => s.cplDataIn tag (BitVec.ofNat 8 be.toNat) data
  | _, _ => (s.credit 8 (1 + data.length)).sendCpl tag 1

/-- Reads the transactions that are complete in the slot stream; `fuel` bounds them. -/
def State.readSlots : Nat → State → State
  | 0, s => s
  | fuel + 1, s =>
    match s.link.rxPart with
    | [] => s
    | h :: rest =>
      if slotOpc h = 0 then State.readSlots fuel (s.modLink (fun l => { l with rxPart := rest }))
      else if rest.length < slotLen h then s
      else State.readSlots fuel
        ((s.modLink (fun l => { l with rxPart := rest.drop (slotLen h) })).transaction h (rest.take (slotLen h)))

/-- Delivers the flits that stand in order: the slots join the stream and its transactions are read; `fuel` bounds them. -/
def State.deliver : Nat → State → State
  | 0, s => s
  | fuel + 1, s =>
    match s.link.rxHeld.find? (fun f => f.1 = s.link.rxNext) with
    | none => s
    | some f =>
      let s := s.modLink (fun l => { l with
        rxHeld := l.rxHeld.filter (fun g => g.1 ≠ f.1), rxNext := l.rxNext + 1
        rxPart := l.rxPart ++ (f.2 ++ List.replicate 15 0).take 15 })
      State.deliver fuel (State.readSlots (s.link.rxPart.length + 1) s)

/-- Asks for the replay from the first missing flit; every data flit until it arrives is discarded (R259).
[DEDUCED, unsafe: log 75] -/
def State.nak (s : State) : State := s.modLink (fun l => ({ l with replay := true, rxHeld := [] } : Link).idle true)

/-- The reach, in flits, of the board's skew between the halves: beyond it a missing flit is lost (R258).
[DEDUCED, unsafe: log 75] -/
def skewFlits : Nat := 44

/-- A data flit. -/
def State.dataFlit (s : State) (n : BitVec 12) (slots : List (BitVec 128)) : State :=
  let ahead := (n - s.link.rxNext).toNat
  if 2048 ≤ ahead || s.link.rxHeld.any (fun f => f.1 = n) || (s.link.replay && ahead ≠ 0) then s
  else
    let s := s.modLink (fun l => { l with replay := false, rxHeld := l.rxHeld ++ [(n, slots)] })
    let s := State.deliver (s.link.rxHeld.length + 1) s
    if skewFlits < s.link.rxHeld.length then s.nak else s

/-- Acknowledgement, replay request and credits of a flit (Table 10-3). -/
def State.flitControl (s : State) (f : Flit) : State :=
  let w := f.ackW.toNat
  let s := if bitOf w 12 then s.ackFlits (BitVec.ofNat 12 w) else s
  let s := if bitOf w 13 then s.modLink (fun l => ({ l with nakCnt := satInc l.nakCnt } : Link).replayAll) else s
  s.modLink (fun l => ({ l with reqCr := l.reqCr + f.crReq.toNat, snpCr := l.snpCr + f.crSnp.toNat } : Link).pump)

/-- The receive direction of a half carries flits. -/
def Link.rxOn (l : Link) (half : Bool) : Bool := (if half then l.width[3] else l.width[1]) ≠ 0

/-- FLIT_RECEIVE: a data flit is acknowledged at once, by an idle flit where nothing else was sent (R259).
[DEDUCED, unsafe: log 75; DEDUCED, unsafe: log 76] -/
def State.flitIn (s : State) (half : Bool) (f : Flit) : State :=
  if !s.link.rxOn half then s
  else if flitSeal f ≠ f then (s.modLink (fun l => { l with crcCnt := satInc l.crcCnt })).nak
  else
    let sent := s.link.out.length
    match fld f.fseqW.toNat 12 4 with
    | 0 =>
      let s := (s.flitControl f).dataFlit (BitVec.ofNat 12 f.fseqW.toNat) f.slots
      if s.link.out.length = sent then s.modLink (fun l => l.idle false) else s
    | 1 => s.flitControl f
    | _ => s

/-- FLIT_RECEIVE. -/
def execFlitReceive (half : Bool) (f : Flit) (s : State) : Host.Outcome State Fault Refusal := .next (s.flitIn half f)

end Sys2Proof.Machine
end

