-- ==== Sys2Proof/Machine/Reset.lean ====
section
/-! DEFINITION. Warm and cold reset (R330, R332), and the mapping of a spare mill (R327, R328). -/

namespace Sys2Proof.Machine

/-- The link after a warm reset: sequencing, replay, credits, requests and the cache start anew; its registers, the map of
doorbell pages and the lines that the host may hold stay (R280, R330). [DESIGN CHOICE, unsafe: log 68] -/
def Link.reinit (l : Link) : Link :=
  { ({} : Link) with
    width := l.width, laneFail := l.laneFail, degraded := l.degraded, downEvent := l.downEvent, down := l.down
    constH2D := l.constH2D, constD2H := l.constD2H, crcCnt := l.crcCnt, nakCnt := l.nakCnt, retrainCnt := l.retrainCnt
    retrainPend := l.retrainPend, out := l.out, dbMap := l.dbMap, hostLines := l.hostLines }

/-- Records sent and not acknowledged are written again (R332). -/
def Race.restage (r : Race) : Race :=
  { r with crings := r.crings.map (fun c => { c with staged := c.flying.map (·.2) ++ c.staged, flying := [] }) }

/-- A warm reset and the recovery of every tenant (R330 to R332, Table 12-8). See R14, R225, R353, R414.
[DEDUCED, unsafe: log 45] -/
def State.warmReset (s : State) (lanesGood : Vector Byte 4) : State :=
  let s := forEach (allTenants.filter (fun t => s.tenants[t].jnl.marker)) s (fun s t => s.abandonTick t)
  let s : State := { s with races := s.races.map Race.restage, hops := s.hops.map (fun h => { h.clear true with rebuild := false }) }
  let s := s.modLink Link.reinit
  let s := forEach (allRaces.filter (fun r => (s.owner r).isNone)) s State.resetRace
  let s := (s.abortTest 15).train lanesGood
  let s := forEach (allTenants.filter (fun t => s.tenants[t].state.owns)) s (fun s t => s.resetTenant t)
  let s := (s.setRawReq false).endRaw
  let s := (s.fwApply 2).fwApply 3
  let s := s.modTick (fun k => { k with phase := .none, running := k.run, warmReq := false })
  let s : State := { s with warmDone := true }
  s.raiseDevice { cls := 0x0D }

/-- What lasts until the next power-on: retired vanes and the fatal alarm, retired hopper cells, the lock and the firmware
of the RTP, the log of the MGC (R200, R330, R355, R384, R393). [DEDUCED, unsafe: log 44] -/
def State.keepToPowerOn (fresh s : State) : State :=
  { fresh with
    sec := s.sec, mgmt := { s.mgmt with tests := [] }, pwr := { fresh.pwr with fatalN := s.pwr.fatalN }
    rng := { fresh.rng with fatal := s.rng.fatal, vanes := Vector.ofFn (fun v =>
      if s.rng.vanes[v].state = 3 then s.rng.vanes[v] else fresh.rng.vanes[v]) }
    hops := Vector.ofFn (fun p => { fresh.hops[p] with erred := s.hops[p].erred, retired := s.hops[p].retired, oos := s.hops[p].oos }) }

/-- A reset before READY, and a cold reset, run steps 4 to 12 again (R330, Table 18-2). -/
def State.restartSteps (s : State) (su : StartUp) : State := (s.powerOff.keepToPowerOn s).startUp su

/-- WARM_RESET: by the pin at its release; by the key at the boundary after the commit of the tick in progress.
[DEDUCED, unsafe: log 140] -/
def execWarmReset (cause : WarmCause) (lanesGood : Vector Byte 4) (s : State) : Host.Outcome State Fault Refusal :=
  .next (match cause with
    | .pin =>
      if !s.pwr.alive then s
      else if !s.start.ready && s.start.step ≠ 0 then s.restartSteps { s.start.su with lanesGood := lanesGood, millRef := true }
      else s.warmReset lanesGood
    | .key =>
      if !s.start.ready then s
      else if s.boundary && !allTenants.any (fun t => s.tenants[t].jnl.marker) then s.warmReset lanesGood
      else s.modTick (fun k => { k with warmReq := true }))

/-- COLD_RESET: everything but the rails, the RTP, the MGC and the security MRAM starts again (R330, R333). -/
def execColdReset (su : StartUp) (s : State) : Host.Outcome State Fault Refusal :=
  .next (if s.pwr.alive then s.restartSteps { su with millRef := true } else s)

-- ## Spare mills

/-- A physical mill's scratchpad, copied to another's: zeros, and every listed byte. -/
def copyScratch (m : List Host.Cell) (r : RaceId) (p q : Nat) : List Host.Cell :=
  (m.filter (fun c => decide (scratchAddr r p 0 ≤ c.1) && decide (c.1 < scratchAddr r p 0 + 2 ^ 21))).foldl (fun m c =>
    memPut m (scratchAddr r q (c.1 - scratchAddr r p 0)) c.2) (memZero m (scratchAddr r q 0) (2 ^ 21))

/-- The event of an unreadable scratchpad carries SCRATCH_LOST (R328): the record of the retirement where it is still to be
journaled, a further one otherwise. [DEDUCED, unsafe: log 43] -/
def State.scratchLost (s : State) (r : RaceId) (p : Nat) : State :=
  let mine (e : Event) : Bool := e.cls = 2 && e.race.toNat = r.val && e.index.toNat = p
  match s.owner r with
  | some t =>
    if s.tenants[t].jnl.events.any mine then
      s.modJnl t (fun j => { j with events := j.events.map (fun e => if mine e then { e with flags := e.flags ||| 1 } else e) })
    else s.raiseRace r { cls := 2, flags := 1, part := 1, index := BitVec.ofNat 16 p }
  | none => s.raiseRace r { cls := 2, flags := 1, part := 1, index := BitVec.ofNat 16 p }

/-- The spare takes the name of a retired mill: its stores and its scratchpad are copied, and the replay counts as a first
attempt (R327). [DEDUCED, unsafe: log 43] -/
def State.mapSpare (s : State) (r : RaceId) (k : Fin 24) (readable : Bool) : State :=
  let p := (s.races[r].map[k]).toNat
  let q := s.races[r].sparePos
  let s : State := if readable then { s with mem := copyScratch s.mem r p q.toNat } else s.scratchLost r p
  let s := s.modRace r (fun x => { x with
    map := x.map.set k q, sparePos := BitVec.ofNat 5 p, spareUse := true, toMap := x.toMap.filter (· ≠ k)
    mills := x.mills.set k { image := x.mills[k].image, imageBy := x.mills[k].imageBy } })
  s.modTick (fun t => { t with items := t.items.map (fun i =>
    if i.state = .cut && i.mills.contains { race := r, mill := k } then { i with cuts := 0 } else i) })

/-- SPARE_MAP: at the boundary after the commit of the tick of the retirement. -/
def execSpareMap (r : RaceId) (readable : Bool) (s : State) : Host.Outcome State Fault Refusal :=
  .next (
    let waits := match s.owner r with
      | some t => s.tenants[t].jnl.marker
      | none => false
    match s.races[r].toMap with
    | [] => s
    | k :: _ =>
      if !s.tick.running || !s.boundary || waits || s.races[r].spareUse || s.races[r].spareBad then s else s.mapSpare r k readable)

end Sys2Proof.Machine
end

