-- ==== Sys2Proof/Machine/Dispatch.lean ====
section
/-! DEFINITION. The dispatch: one arm for each command, each a direct call of its meaning. -/

namespace Sys2Proof.Machine

/-- The effect of a command on everything but the queue. -/
def exec (i : Instr) (s : State) : Host.Outcome State Fault Refusal :=
  match i with
  | .plan => Sys2Proof.Machine.execPlan s
  | .uploadTimeout slot participant => Sys2Proof.Machine.execUploadTimeout slot participant s
  | .itemStart item => Sys2Proof.Machine.execItemStart item s
  | .itemEnd item => Sys2Proof.Machine.execItemEnd item s
  | .priceExceeded item => Sys2Proof.Machine.execPriceExceeded item s
  | .executeEnd => Sys2Proof.Machine.execExecuteEnd s
  | .commit => Sys2Proof.Machine.execCommit s
  | .commitAcknowledged t => Sys2Proof.Machine.execCommitAcknowledged t s
  | .tickAbandoned t => Sys2Proof.Machine.execTickAbandoned t s
  | .completionRecordWrite t c => Sys2Proof.Machine.execCompletionRecordWrite t c s
  | .journalApply t => Sys2Proof.Machine.execJournalApply t s
  | .run on => Sys2Proof.Machine.execRun on s
  | .hold r on => Sys2Proof.Machine.execHold r on s
  | .held t => Sys2Proof.Machine.execHeld t s
  | .ppsEdge errNs => Sys2Proof.Machine.execPpsEdge errNs s
  | .lockLost => Sys2Proof.Machine.execLockLost s
  | .keyLoadLate t => Sys2Proof.Machine.execKeyLoadLate t s
  | .nop m => Sys2Proof.Machine.execNop m s
  | .loop m lc reg len => Sys2Proof.Machine.execLoop m lc reg len s
  | .skipz m reg n => Sys2Proof.Machine.execSkipz m reg n s
  | .skipnz m reg n => Sys2Proof.Machine.execSkipnz m reg n s
  | .saddi m sd sa imm => Sys2Proof.Machine.execSaddi m sd sa imm s
  | .sop m sd sa sb func => Sys2Proof.Machine.execSop m sd sa sb func s
  | .sli m sd imm => Sys2Proof.Machine.execSli m sd imm s
  | .sldc m sd index => Sys2Proof.Machine.execSldc m sd index s
  | .arg m sd index => Sys2Proof.Machine.execArg m sd index s
  | .tset m t field reg => Sys2Proof.Machine.execTset m t field reg s
  | .tadd m t reg => Sys2Proof.Machine.execTadd m t reg s
  | .tld m t index => Sys2Proof.Machine.execTld m t index s
  | .bar m id setScope timeout => Sys2Proof.Machine.execBar m id setScope timeout s
  | .barrierComplete item id scope => Sys2Proof.Machine.execBarrierComplete item id scope s
  | .barrierTimeout m => Sys2Proof.Machine.execBarrierTimeout m s
  | .waitm m tags => Sys2Proof.Machine.execWaitm m tags s
  | .rngrd m sd => Sys2Proof.Machine.execRngrd m sd s
  | .tflg m sd t => Sys2Proof.Machine.execTflg m sd t s
  | .endMill m => Sys2Proof.Machine.execEndMill m s
  | .wld m tW => Sys2Proof.Machine.execWld m tW s
  | .mma m acc tA tC swap mismatch => Sys2Proof.Machine.execMma m acc tA tC swap mismatch s
  | .mout m tC tD tE fuse sat mismatch => Sys2Proof.Machine.execMout m tC tD tE fuse sat mismatch s
  | .vadd m d a b mods => Sys2Proof.Machine.execVadd m d a b mods s
  | .vsub m d a b mods => Sys2Proof.Machine.execVsub m d a b mods s
  | .vmul m d a b mods => Sys2Proof.Machine.execVmul m d a b mods s
  | .vfma m d a b c mods => Sys2Proof.Machine.execVfma m d a b c mods s
  | .vmax m d a b mods => Sys2Proof.Machine.execVmax m d a b mods s
  | .vmin m d a b mods => Sys2Proof.Machine.execVmin m d a b mods s
  | .vcvt m d a mods => Sys2Proof.Machine.execVcvt m d a mods s
  | .vexp2 m d a mods => Sys2Proof.Machine.execVexp2 m d a mods s
  | .vlog2 m d a mods => Sys2Proof.Machine.execVlog2 m d a mods s
  | .vrcp m d a mods => Sys2Proof.Machine.execVrcp m d a mods s
  | .vrsq m d a mods => Sys2Proof.Machine.execVrsq m d a mods s
  | .vred m d a mods => Sys2Proof.Machine.execVred m d a mods s
  | .vssq m d a mods => Sys2Proof.Machine.execVssq m d a mods s
  | .vwel m d a mods => Sys2Proof.Machine.execVwel m d a mods s
  | .vrmax m d a mods => Sys2Proof.Machine.execVrmax m d a mods s
  | .vqmx m d a mods => Sys2Proof.Machine.execVqmx m d a mods s
  | .vtmsk m d a => Sys2Proof.Machine.execVtmsk m d a s
  | .vrng m d a => Sys2Proof.Machine.execVrng m d a s
  | .vsel m d a b c mods => Sys2Proof.Machine.execVsel m d a b c mods s
  | .radd m w d a b => Sys2Proof.Machine.execRadd m w d a b s
  | .rsub m w d a b => Sys2Proof.Machine.execRsub m w d a b s
  | .rneg m w d a => Sys2Proof.Machine.execRneg m w d a s
  | .rcpy m w d a => Sys2Proof.Machine.execRcpy m w d a s
  | .rzero m w d => Sys2Proof.Machine.execRzero m w d s
  | .rxgen m w d slot reg => Sys2Proof.Machine.execRxgen m w d slot reg s
  | .rxadd m w d a slot reg => Sys2Proof.Machine.execRxadd m w d a slot reg s
  | .rxsub m w d a slot reg => Sys2Proof.Machine.execRxsub m w d a slot reg s
  | .mld m tag window reg t => Sys2Proof.Machine.execMld m tag window reg t s
  | .mst m tag window reg t => Sys2Proof.Machine.execMst m tag window reg t s
  | .mcpy m tag src t => Sys2Proof.Machine.execMcpy m tag src t s
  | .moveComplete m tag => Sys2Proof.Machine.execMoveComplete m tag s
  | .nopDescriptor item => Sys2Proof.Machine.execNopDescriptor item s
  | .move item host => Sys2Proof.Machine.execMove item host s
  | .loadImage item host => Sys2Proof.Machine.execLoadImage item host s
  | .wset item host => Sys2Proof.Machine.execWset item host s
  | .runDescriptor item => Sys2Proof.Machine.execRunDescriptor item s
  | .aggOpen item => Sys2Proof.Machine.execAggOpen item s
  | .aggSeeds item host => Sys2Proof.Machine.execAggSeeds item host s
  | .aggDrop item host => Sys2Proof.Machine.execAggDrop item host s
  | .aggClose item => Sys2Proof.Machine.execAggClose item s
  | .aggRelease item => Sys2Proof.Machine.execAggRelease item s
  | .aggFree item => Sys2Proof.Machine.execAggFree item s
  | .aggAbort item => Sys2Proof.Machine.execAggAbort item s
  | .aggQuery item => Sys2Proof.Machine.execAggQuery item s
  | .segmentItem item => Sys2Proof.Machine.execSegmentItem item s
  | .chainTimeout slot => Sys2Proof.Machine.execChainTimeout slot s
  | .decModel item => Sys2Proof.Machine.execDecModel item s
  | .decOpen item host => Sys2Proof.Machine.execDecOpen item host s
  | .decPages item host => Sys2Proof.Machine.execDecPages item host s
  | .decRun item host => Sys2Proof.Machine.execDecRun item host s
  | .decStop item => Sys2Proof.Machine.execDecStop item s
  | .decClose item => Sys2Proof.Machine.execDecClose item s
  | .promotion item => Sys2Proof.Machine.execPromotion item s
  | .draft item host => Sys2Proof.Machine.execDraft item host s
  | .slice item => Sys2Proof.Machine.execSlice item s
  | .accept item => Sys2Proof.Machine.execAccept item s
  | .push p q data tag => Sys2Proof.Machine.execPush p q data tag s
  | .pop p q => Sys2Proof.Machine.execPop p q s
  | .hopperPartitionReset p => Sys2Proof.Machine.execHopperPartitionReset p s
  | .queueRebuild p => Sys2Proof.Machine.execQueueRebuild p s
  | .hopperResetReq p => Sys2Proof.Machine.execHopperResetReq p s
  | .wmAck p q => Sys2Proof.Machine.execWmAck p q s
  | .channelLost r tier ch => Sys2Proof.Machine.execChannelLost r tier ch s
  | .taFallback r => Sys2Proof.Machine.execTaFallback r s
  | .rebuildReq r ch => Sys2Proof.Machine.execRebuildReq r ch s
  | .rebuildStart r trained => Sys2Proof.Machine.execRebuildStart r trained s
  | .rebuildDone r => Sys2Proof.Machine.execRebuildDone r s
  | .refresh r tier => Sys2Proof.Machine.execRefresh r tier s
  | .refreshRateRead r ch rate => Sys2Proof.Machine.execRefreshRateRead r ch rate s
  | .bucketLeak r => Sys2Proof.Machine.execBucketLeak r s
  | .scrub item => Sys2Proof.Machine.execScrub item s
  | .arm r on ch => Sys2Proof.Machine.execArm r on ch s
  | .fullTraining lanesGood => Sys2Proof.Machine.execFullTraining lanesGood s
  | .laneLoss h lanesGood => Sys2Proof.Machine.execLaneLoss h lanesGood s
  | .retrainReq => Sys2Proof.Machine.execRetrainReq s
  | .linkRetrainStart lanesGood => Sys2Proof.Machine.execLinkRetrainStart lanesGood s
  | .linkDown => Sys2Proof.Machine.execLinkDown s
  | .linkTrainingRetry lanesGood => Sys2Proof.Machine.execLinkTrainingRetry lanesGood s
  | .flitReceive half f => Sys2Proof.Machine.execFlitReceive half f s
  | .cfgRd tag addr be => Sys2Proof.Machine.execCfgRd tag addr be s
  | .cfgWr tag addr be value => Sys2Proof.Machine.execCfgWr tag addr be value s
  | .dbRd tag addr => Sys2Proof.Machine.execDbRd tag addr s
  | .dbWr tag addr be value => Sys2Proof.Machine.execDbWr tag addr be value s
  | .rdShared t w seq => Sys2Proof.Machine.execRdShared t w seq s
  | .rdNc item addr slots => Sys2Proof.Machine.execRdNc item addr slots s
  | .wrNc addr data => Sys2Proof.Machine.execWrNc addr data s
  | .snpInv tag addr => Sys2Proof.Machine.execSnpInv tag addr s
  | .cpl tag status => Sys2Proof.Machine.execCpl tag status s
  | .cplData tag status data => Sys2Proof.Machine.execCplData tag status data s
  | .hostTimeout tag => Sys2Proof.Machine.execHostTimeout tag s
  | .enable r ring on => Sys2Proof.Machine.execEnable r ring on s
  | .cancel r w => Sys2Proof.Machine.execCancel r w s
  | .restart r w => Sys2Proof.Machine.execRestart r w s
  | .hlkClassCancel t classes => Sys2Proof.Machine.execHlkClassCancel t classes s
  | .weirSend item host => Sys2Proof.Machine.execWeirSend item host s
  | .weirReg item => Sys2Proof.Machine.execWeirReg item s
  | .weirRevoke item => Sys2Proof.Machine.execWeirRevoke item s
  | .data port p => Sys2Proof.Machine.execData port p s
  | .packetPlace t => Sys2Proof.Machine.execPacketPlace t s
  | .ackDue t key => Sys2Proof.Machine.execAckDue t key s
  | .ack port p => Sys2Proof.Machine.execAck port p s
  | .complete port p => Sys2Proof.Machine.execComplete port p s
  | .close port p => Sys2Proof.Machine.execClose port p s
  | .status port p => Sys2Proof.Machine.execStatus port p s
  | .abort port p => Sys2Proof.Machine.execAbort port p s
  | .beacon port p v6 src => Sys2Proof.Machine.execBeacon port p v6 src s
  | .probe port p => Sys2Proof.Machine.execProbe port p s
  | .probeReply port p => Sys2Proof.Machine.execProbeReply port p s
  | .retransmitTimeout t seq => Sys2Proof.Machine.execRetransmitTimeout t seq s
  | .completeWaitTimeout t seq => Sys2Proof.Machine.execCompleteWaitTimeout t seq s
  | .reassemblyTimeout t key => Sys2Proof.Machine.execReassemblyTimeout t key s
  | .duplicateWindowExpire t => Sys2Proof.Machine.execDuplicateWindowExpire t s
  | .windowFree t index => Sys2Proof.Machine.execWindowFree t index s
  | .probeTimeout peer port path => Sys2Proof.Machine.execProbeTimeout peer port path s
  | .pathProbe peer port path => Sys2Proof.Machine.execPathProbe peer port path s
  | .beaconTimer port => Sys2Proof.Machine.execBeaconTimer port s
  | .stale peer => Sys2Proof.Machine.execStale peer s
  | .portLinkChange port up => Sys2Proof.Machine.execPortLinkChange port up s
  | .ptpEventMessage port sync offsetNs => Sys2Proof.Machine.execPtpEventMessage port sync offsetNs s
  | .arpRequest port management v6 target => Sys2Proof.Machine.execArpRequest port management v6 target s
  | .netTimeWrite value => Sys2Proof.Machine.execNetTimeWrite value s
  | .warmReset cause lanesGood => Sys2Proof.Machine.execWarmReset cause lanesGood s
  | .coldReset su => Sys2Proof.Machine.execColdReset su s
  | .raceReset r => Sys2Proof.Machine.execRaceReset r s
  | .spareMap r readable => Sys2Proof.Machine.execSpareMap r readable s
  | .activate t => Sys2Proof.Machine.execActivate t s
  | .inService => Sys2Proof.Machine.execInService s
  | .release t force => Sys2Proof.Machine.execRelease t force s
  | .releasingEnd t => Sys2Proof.Machine.execReleasingEnd t s
  | .tenantScrub t => Sys2Proof.Machine.execTenantScrub t s
  | .scrubDone t => Sys2Proof.Machine.execScrubDone t s
  | .outOfService p => Sys2Proof.Machine.execOutOfService p s
  | .keyLoad item host => Sys2Proof.Machine.execKeyLoad item host s
  | .keyUnload item => Sys2Proof.Machine.execKeyUnload item s
  | .keyGenerate item => Sys2Proof.Machine.execKeyGenerate item s
  | .keyDerive item => Sys2Proof.Machine.execKeyDerive item s
  | .keyWrap item => Sys2Proof.Machine.execKeyWrap item s
  | .keyInvalidate item => Sys2Proof.Machine.execKeyInvalidate item s
  | .keyCellFree item => Sys2Proof.Machine.execKeyCellFree item s
  | .crypt item => Sys2Proof.Machine.execCrypt item s
  | .pkgOpen item => Sys2Proof.Machine.execPkgOpen item s
  | .attest item nonce => Sys2Proof.Machine.execAttest item nonce s
  | .rtpJobDone t => Sys2Proof.Machine.execRtpJobDone t s
  | .lcQuery => Sys2Proof.Machine.execLcQuery s
  | .lcSeal => Sys2Proof.Machine.execLcSeal s
  | .lcUnlockChallenge => Sys2Proof.Machine.execLcUnlockChallenge s
  | .lcUnlock => Sys2Proof.Machine.execLcUnlock s
  | .lcReseal => Sys2Proof.Machine.execLcReseal s
  | .lcRetire => Sys2Proof.Machine.execLcRetire s
  | .flockCreate => Sys2Proof.Machine.execFlockCreate s
  | .flockDelete => Sys2Proof.Machine.execFlockDelete s
  | .identityGet => Sys2Proof.Machine.execIdentityGet s
  | .fwLoad host => Sys2Proof.Machine.execFwLoad host s
  | .cellRelease => Sys2Proof.Machine.execCellRelease s
  | .rtpWatchdog thirdInOneSecond => Sys2Proof.Machine.execRtpWatchdog thirdInOneSecond s
  | .vaneBlockEnd v bits => Sys2Proof.Machine.execVaneBlockEnd v bits s
  | .trimStep v ones => Sys2Proof.Machine.execTrimStep v ones s
  | .vaneSettled v => Sys2Proof.Machine.execVaneSettled v s
  | .drbgReseed idx => Sys2Proof.Machine.execDrbgReseed idx s
  | .drbgFill t => Sys2Proof.Machine.execDrbgFill t s
  | .rawReq on => Sys2Proof.Machine.execRawReq on s
  | .rawTestStart => Sys2Proof.Machine.execRawTestStart s
  | .rngRawData => Sys2Proof.Machine.execRngRawData s
  | .powerGoodRise su => Sys2Proof.Machine.execPowerGoodRise su s
  | .ready => Sys2Proof.Machine.execReady s
  | .clkErr => Sys2Proof.Machine.execClkErr s
  | .lowInputWarning => Sys2Proof.Machine.execLowInputWarning s
  | .powerFail cause => Sys2Proof.Machine.execPowerFail cause s
  | .phaseFault rail phase => Sys2Proof.Machine.execPhaseFault rail phase s
  | .droop r cycles => Sys2Proof.Machine.execDroop r cycles s
  | .thermalShutdown => Sys2Proof.Machine.execThermalShutdown s
  | .domainCommand d st => Sys2Proof.Machine.execDomainCommand d st s
  | .deviceStateCommand st => Sys2Proof.Machine.execDeviceStateCommand st s
  | .frequencyCommand mhz => Sys2Proof.Machine.execFrequencyCommand mhz s
  | .cancelPendingCommand => Sys2Proof.Machine.execCancelPendingCommand s
  | .powerCommandEffect => Sys2Proof.Machine.execPowerCommandEffect s
  | .done => Sys2Proof.Machine.execDone s
  | .linkWake => Sys2Proof.Machine.execLinkWake s
  | .telemetrySample p => Sys2Proof.Machine.execTelemetrySample p s
  | .pmbusRead code => Sys2Proof.Machine.execPmbusRead code s
  | .pmbusWrite code data => Sys2Proof.Machine.execPmbusWrite code data s
  | .clr => Sys2Proof.Machine.execClr s
  | .tlsConnect cert => Sys2Proof.Machine.execTlsConnect cert s
  | .sessionIdle session => Sys2Proof.Machine.execSessionIdle session s
  | .ident q => Sys2Proof.Machine.execIdent q s
  | .telemetryGet q => Sys2Proof.Machine.execTelemetryGet q s
  | .telemetrySub q intervalMs => Sys2Proof.Machine.execTelemetrySub q intervalMs s
  | .telemetry session => Sys2Proof.Machine.execTelemetry session s
  | .decimation backlogHigh => Sys2Proof.Machine.execDecimation backlogHigh s
  | .logRead q first count => Sys2Proof.Machine.execLogRead q first count s
  | .power q cmd => Sys2Proof.Machine.execPower q cmd s
  | .test q a => Sys2Proof.Machine.execTest q a s
  | .testCancel q race => Sys2Proof.Machine.execTestCancel q race s
  | .go code race unit => Sys2Proof.Machine.execGo code race unit s
  | .mgtTestCancel => Sys2Proof.Machine.execMgtTestCancel s
  | .testStart r => Sys2Proof.Machine.execTestStart r s
  | .testDone race found => Sys2Proof.Machine.execTestDone race found s
  | .debugEngage q r => Sys2Proof.Machine.execDebugEngage q r s
  | .debugEnd q r => Sys2Proof.Machine.execDebugEnd q r s
  | .debugHalt q m => Sys2Proof.Machine.execDebugHalt q m s
  | .debugStep q m => Sys2Proof.Machine.execDebugStep q m s
  | .debugResume q m => Sys2Proof.Machine.execDebugResume q m s
  | .debugRead q r kind mill off len => Sys2Proof.Machine.execDebugRead q r kind mill off len s
  | .lifeCycle q code args => Sys2Proof.Machine.execLifeCycle q code args s
  | .anchorSet q der => Sys2Proof.Machine.execAnchorSet q der s
  | .install len => Sys2Proof.Machine.execInstall len s
  | .spdm q msg => Sys2Proof.Machine.execSpdm q msg s
  | .mgcWatchdog => Sys2Proof.Machine.execMgcWatchdog s
  | .latchedRead addr => Sys2Proof.Machine.execLatchedRead addr s
  | .registerWrite addr value => Sys2Proof.Machine.execRegisterWrite addr value s
  | .millReferenceAppears su => Sys2Proof.Machine.execMillReferenceAppears su s
  | .mbxCommandEnd => Sys2Proof.Machine.execMbxCommandEnd s
  | .fillDone domain bad => Sys2Proof.Machine.execFillDone domain bad s
  | .sessionClosed session => Sys2Proof.Machine.execSessionClosed session s

end Sys2Proof.Machine
end

