-- ==== Sys2Proof/Safety.lean ====
section
/-! DEFINITION. What counts as a safe run, and the terms in which the statements speak: what an instruction of a mill
leaves, and which operands a unit accepts. -/

namespace Sys2Proof.Safety

open Sys2Proof.Machine

/-- A step that does not stop. -/
def Completes (s : State) : Prop := ∃ t, step s = .next t

/-- `n` steps from `s` that do not stop. -/
def SafeRun : Nat → State → Prop
  | 0, _ => True
  | n + 1, s => ∃ t, step s = .next t ∧ SafeRun n t

-- ## Mills

/-- The flags of the bundle in progress that reach tile register `j` when the bundle ends (R79, R80). -/
def lateFlags (late : List (Fin 16 × Flags)) (j : Fin 16) (w : W64) : W64 :=
  late.foldl (fun w p => if p.1 = j then tileOr w p.2 else w) w

/-- What a control-slot instruction leaves in its mill: `x` after, `y` before. Registers hold `sregs` and `tiles`, the
sequencer stands where the loops in force `loops`, the bundle `pc` and the counters `lc` lead, and nothing else in the
mill has changed. -/
def ControlEffect (y x : Mill) (sregs : Fin 16 → W32) (tiles : Fin 16 → W64) (loops : List LoopFrame) (pc : Nat)
    (lc : Vector W32 4) : Prop :=
  (∀ j, x.sreg j = if j = 0 then 0 else sregs j) ∧ (∀ j : Fin 16, x.t[j] = lateFlags y.late j (tiles j)) ∧
  (x.pc, x.loops, x.lc) = nextPc loops pc lc ∧ x.late = [] ∧
  { x with s := y.s, t := y.t, pc := y.pc, loops := y.loops, lc := y.lc, late := y.late } = y

/-- `t` is `s` with nothing changed but one mill, which holds `x`. -/
def OnlyMill (m : MillName) (s : State) (x : Mill) (t : State) : Prop :=
  t.mill m = x ∧ (∀ n, n ≠ m → t.mill n = s.mill n) ∧
  (∀ r : RaceId, { t.races[r] with mills := s.races[r].mills } = s.races[r]) ∧ { t with races := s.races } = s

-- ## Races, tenants and memory

/-- `t` is `s` with nothing changed but one race, which is `x`. -/
def OnlyRace (r : RaceId) (s : State) (x : Race) (t : State) : Prop :=
  t.races[r] = x ∧ (∀ q, q ≠ r → t.races[q] = s.races[q]) ∧ { t with races := s.races } = s

/-- `t` is `s` with nothing changed but one tenant, which is `x`. -/
def OnlyTenant (u : TenantId) (s : State) (x : Tenant) (t : State) : Prop :=
  t.tenants[u] = x ∧ (∀ v, v ≠ u → t.tenants[v] = s.tenants[v]) ∧ { t with tenants := s.tenants } = s

/-- The same where only the tenant's Weir state changes. -/
def OnlyWeir (u : TenantId) (s : State) (w : WeirT) (t : State) : Prop := OnlyTenant u s { s.tenants[u] with weir := w } t

/-- A well-formed packet of this type reaches a port that runs. -/
def Arrives (s : State) (port : PortId) (p : WeirPkt) (ty : Nat) : Prop :=
  s.net.portOn port = true ∧ pktOk p = true ∧ pktType p = ty

/-- Every channel of the race serves, every stored word is a code word, and no flip is armed. -/
def healthy (m : RaceMem) : Bool := m.taLost = 0 && m.tbLost = 0 && m.errs = [] && !m.arm

/-- First byte past a race's tier, the parity left out (Table 8-3). -/
def tierEnd (tierB : Bool) : Nat := if tierB then 196 * gib else 64 * gib

-- ## Tiles

/-- A unit can use the first `n` elements of each of the first `rows` rows of a tile: its fields are legal and the
element bytes and scales lie below 2 MiB (R78, R85, R87). -/
def covers (t : Tile) (rows n : Nat) : Bool :=
  t.check && decide (t.rowAt (rows - 1) + ceilDiv (n * fmtBits t.fmt) 8 ≤ spadBytes) &&
    (!fmtMx t.fmt || decide (t.scaleAt + (rows - 1) * (t.elems / 32) + ceilDiv n 32 ≤ spadBytes))

/-- Scratchpad byte `a` belongs to the first `n` elements of the first `rows` rows of a tile, or to their scales. -/
def tileHolds (t : Tile) (rows n a : Nat) : Prop :=
  ∃ i, i < rows ∧ ((t.rowAt i ≤ a ∧ a < t.rowAt i + ceilDiv (n * fmtBits t.fmt) 8) ∨
    (fmtMx t.fmt = true ∧ t.scaleAt + i * (t.elems / 32) ≤ a ∧ a < t.scaleAt + i * (t.elems / 32) + ceilDiv n 32))

/-- An operation through tile register `d` has completed: it gave the memory and flags of `result`, the flags wait for
the bundle's end in the mill and are in the item at once (R79, R80), only the bytes that `writes` names have changed,
and nothing else in the machine has. -/
def TileEffect (s : State) (m : MillName) (id : Nat) (d : Fin 16) (result : Except Byte (List Host.Cell × Flags))
    (writes : Nat → Prop) (t : State) : Prop :=
  ∃ fl, result = .ok (t.mem, fl) ∧
    (memWf s.mem = true → ∀ a, (∀ k, writes k → a ≠ s.spad m 0 + k) → memGet t.mem a = memGet s.mem a) ∧
    t.tick = { s.tick with
      items := s.tick.items.map (fun i => if i.id = id then { i with flags := i.flags.or fl } else i) } ∧
    OnlyMill m { s with mem := t.mem, tick := t.tick } { s.mill m with late := (s.mill m).late ++ [(d, fl)] } t

-- ## Items

/-- The live item `item` is one of a descriptor with opcode `op`. -/
def Works (s : State) (item op : Nat) (i : Item) : Prop :=
  s.item? item = some i ∧ i.live = true ∧ i.kind = .desc ∧ dOp i.line = op

/-- The item as it ends, with its status, completion bytes and the effects that its commit will carry. -/
def ended (i : Item) (status : Byte) (body : Nat) (effects : List Effect) : Item :=
  { i with state := .ended, status := status, body := BitVec.ofNat 128 body, effects := effects }

/-- The item as it stops for good: none of its effects commits. -/
def stopped (i : Item) (status : Byte) : Item := { i with state := .stopped, status := status, body := 0, effects := [] }

/-- The item `id` has left its mills and stands as `u`; every other item, every other mill and the rest of the machine
are as in `s`. -/
def ItemLeft (s : State) (id : Nat) (u : Item) (t : State) : Prop :=
  t.item? id = some u ∧ (∀ j, j ≠ id → t.item? j = s.item? j) ∧ { t.tick with items := s.tick.items } = s.tick ∧
  (∀ m, (t.mill m).item ≠ some id) ∧ (∀ m, (s.mill m).item ≠ some id → t.mill m = s.mill m) ∧
  { t with races := s.races, tick := s.tick } = s

-- ## Operators

/-- The request finds its session open with nothing outstanding, the role held, and room in the device's queue. -/
def Admitted (s : State) (q : ReqId) (role : Nat) (x : OpSess) : Prop :=
  sget? s.mgmt.sessions q.session.val = some x ∧ x.waiting = [] ∧ x.roles.getLsbD role = true ∧ s.hopFull .device 8192 = false

/-- The response to a request. -/
def response (q : ReqId) (op : W16) (status : Byte) (body : List Byte) : MgmtMsg :=
  { session := q.session, op := op, id := q.id, status := status, flags := 1, body := body }

/-- `t` is `s` after this one message has gone out. -/
def Sent (s : State) (m : MgmtMsg) (t : State) : Prop :=
  t.mgmt.out = s.mgmt.out ++ [m] ∧ (∀ k, sget? t.mgmt.sessions k = sget? s.mgmt.sessions k) ∧
  { t with mgmt := { t.mgmt with out := s.mgmt.out, sessions := s.mgmt.sessions } } = s

end Sys2Proof.Safety
end

