-- ==== Sys2Proof/Certificates/Slice0/Obligations.lean ====
section
/-! DEFINITION. The statements for the provers. -/

open Sys2Proof Sys2Proof.Machine Sys2Proof.Safety

/-- A step with a command at the front of the queue is that command's effect with the rest of the queue. -/
def Obligations.StepRunsFrontCommand : Prop :=
  ∀ (c : Instr) (rest : List Instr) (s : State),
    step { s with pending := c :: rest } = exec c { s with pending := rest }

-- ## The mill

/-- Table 3-7, R72, R80: NOP, SADDI, SOP with each function, SLI, SLDC and ARG on a mill that issues: the destination
register's new value (s0 discards it and reads 0), every other register, the sequencer's next bundle, and nothing else
in the machine. -/
def Obligations.ScalarInstructionResults : Prop :=
  ∀ (s : State) (m : MillName) (id : Nat), (s.mill m).issuing = some id →
    let y := s.mill m
    let effect (i : Instr) (sd : Fin 16) (v : W32) : Prop := ∃ t x, exec i s = .next t ∧ OnlyMill m s x t ∧
      ControlEffect y x (fun j => if j = sd then v else y.s[j]) (fun j => y.t[j]) y.loops y.pc y.lc
    effect (.nop m) 0 0 ∧
    (∀ sd sa imm, effect (.saddi m sd sa imm) sd (y.sreg sa + imm.signExtend 32)) ∧
    (∀ sd sa sb,
      effect (.sop m sd sa sb 0) sd (y.sreg sa + y.sreg sb) ∧
      effect (.sop m sd sa sb 1) sd (y.sreg sa - y.sreg sb) ∧
      effect (.sop m sd sa sb 2) sd (y.sreg sa &&& y.sreg sb) ∧
      effect (.sop m sd sa sb 3) sd (y.sreg sa ||| y.sreg sb) ∧
      effect (.sop m sd sa sb 4) sd (y.sreg sa ^^^ y.sreg sb) ∧
      effect (.sop m sd sa sb 5) sd (y.sreg sa <<< ((y.sreg sb).toNat % 32)) ∧
      effect (.sop m sd sa sb 6) sd (y.sreg sa >>> ((y.sreg sb).toNat % 32)) ∧
      effect (.sop m sd sa sb 7) sd (y.sreg sa * y.sreg sb)) ∧
    (∀ sd imm, effect (.sli m sd imm) sd (imm.setWidth 32)) ∧
    (∀ sd index image, y.image = some image →
      effect (.sldc m sd index) sd (BitVec.ofNat 32 (imgConst image index.toNat))) ∧
    (∀ i, s.item? id = some i →
      (∀ sd, effect (.arg m sd 0) sd (BitVec.ofNat 32 i.gran) ∧ effect (.arg m sd 6) sd (BitVec.ofNat 32 y.ord) ∧
        effect (.arg m sd 7) sd (BitVec.ofNat 32 i.first)) ∧
      (∀ sd (k : Fin 5), effect (.arg m sd ⟨k.val + 1, by omega⟩) sd (i.args.getD k.val 0)))

/-- Table 3-7, R79: TSET, TADD and TLD replace one tile register, TFLG reads the flags as they stood before the bundle
and clears them; nothing else in the machine changes but the sequencer's place. -/
def Obligations.TileRegisterResults : Prop :=
  ∀ (s : State) (m : MillName) (id : Nat), (s.mill m).issuing = some id →
    let y := s.mill m
    let effect (i : Instr) (sregs : Fin 16 → W32) (tiles : Fin 16 → W64) : Prop :=
      ∃ t x, exec i s = .next t ∧ OnlyMill m s x t ∧ ControlEffect y x sregs tiles y.loops y.pc y.lc
    (∀ d field c, ∃ w, effect (.tset m d field c) (fun j => y.s[j]) (fun j => if j = d then w else y.t[j]) ∧
      tileFlags w = tileFlags y.t[d] ∧
      tileOf w = match field with
        | 0 => { tileOf y.t[d] with base := (y.sreg c).toNat % 2 ^ 15 }
        | 1 => { tileOf y.t[d] with rows := (y.sreg c).toNat % 2 ^ 9 }
        | 2 => { tileOf y.t[d] with rowlen := (y.sreg c).toNat % 2 ^ 9 }
        | 3 => { tileOf y.t[d] with stride := (y.sreg c).toNat % 2 ^ 15 }
        | 4 => { tileOf y.t[d] with fmt := (y.sreg c).toNat % 2 ^ 4 }) ∧
    (∀ d c, ∃ w, effect (.tadd m d c) (fun j => y.s[j]) (fun j => if j = d then w else y.t[j]) ∧
      tileFlags w = tileFlags y.t[d] ∧
      tileOf w = { tileOf y.t[d] with base := ((tileOf y.t[d]).base + (y.sreg c).toNat) % 2 ^ 15 }) ∧
    (∀ d index image, y.image = some image →
      effect (.tld m d index) (fun j => y.s[j])
        (fun j => if j = d then BitVec.ofNat 64 (imgTile image index.toNat) else y.t[j])) ∧
    (∀ sd d, ∃ w, effect (.tflg m sd d) (fun j => if j = sd then BitVec.ofNat 32 (tileFlags y.t[d]) else y.s[j])
        (fun j => if j = d then w else y.t[j]) ∧ tileOf w = tileOf y.t[d] ∧ tileFlags w = 0)

/-- R84 and Table 3-7: LOOP sets its counter and enters the body, or passes over the whole body when the count is 0;
SKIPZ and SKIPNZ pass over bundles by their condition; and at the last bundle of the innermost loop the counter falls
and the body runs again, until it reaches 0 and the loop is left. -/
def Obligations.LoopsAndSkips : Prop :=
  ∀ (s : State) (m : MillName) (id : Nat), (s.mill m).issuing = some id →
    let y := s.mill m
    let effect (i : Instr) (loops : List LoopFrame) (pc : Nat) (lc : Vector W32 4) : Prop :=
      ∃ t x, exec i s = .next t ∧ OnlyMill m s x t ∧ ControlEffect y x (fun j => y.s[j]) (fun j => y.t[j]) loops pc lc
    (∀ c k (len : BitVec 12), (y.sreg k = 0 → effect (.loop m c k len) y.loops (y.pc + len.toNat) y.lc) ∧
      (y.sreg k ≠ 0 → 0 < len.toNat → ∃ t x, exec (.loop m c k len) s = .next t ∧ OnlyMill m s x t ∧
        x.pc = y.pc + 1 ∧ x.lc[c] = y.sreg k ∧ (∀ d, d ≠ c → x.lc[d] = y.lc[d]) ∧
        x.loops = { lc := c, first := y.pc + 1, last := y.pc + len.toNat } :: y.loops)) ∧
    (∀ k n, (y.sreg k = 0 → effect (.skipz m k n) y.loops (y.pc + n.toNat) y.lc ∧ effect (.skipnz m k n) y.loops y.pc y.lc) ∧
      (y.sreg k ≠ 0 → effect (.skipz m k n) y.loops y.pc y.lc ∧ effect (.skipnz m k n) y.loops (y.pc + n.toNat) y.lc)) ∧
    (∀ f rest, y.loops = f :: rest → y.pc = f.last → 2 ≤ (y.lc[f.lc]).toNat →
      ∃ t, exec (.nop m) s = .next t ∧ (t.mill m).pc = f.first ∧ (t.mill m).loops = y.loops ∧
        (t.mill m).lc[f.lc] = y.lc[f.lc] - 1) ∧
    (∀ f, y.loops = [f] → y.pc = f.last → y.lc[f.lc] = 1 →
      ∃ t, exec (.nop m) s = .next t ∧ (t.mill m).pc = y.pc + 1 ∧ (t.mill m).loops = [] ∧ (t.mill m).lc[f.lc] = 0)

/-- R98, R99, R82, R77, R390, R393: BAR makes the mill wait; WAITM goes on when every tag it names is idle and waits
otherwise; RNGRD pops the tenant's next value, and in the fatal alarm stops the item; END ends the mill's part. R98 and
R99: a barrier completes when every mill that it joins waits at it with its stores done, and then all of them go on
together and no other mill changes; it does not complete before; and a participant's time-out stops the item with
BARRIER_TIMEOUT on every mill of its set. -/
def Obligations.BarriersWaitsAndEnd : Prop :=
  (∀ (s : State) (m : MillName) (id : Nat), (s.mill m).issuing = some id →
     let y := s.mill m
     (∀ b scope timeout, ∃ t, exec (.bar m b scope timeout) s = .next t ∧
       OnlyMill m s { y with bar := some { id := b, scope := scope, timeout := timeout } } t) ∧
     (∀ tags : W16, (∀ k : Fin 16, tags.getLsbD k.val = true → y.tags[k] = none) →
       ∃ t x, exec (.waitm m tags) s = .next t ∧ OnlyMill m s x t ∧
         ControlEffect y x (fun j => y.s[j]) (fun j => y.t[j]) y.loops y.pc y.lc) ∧
     (∀ (tags : W16) (k : Fin 16), tags.getLsbD k.val = true → y.tags[k] ≠ none → exec (.waitm m tags) s = .next s) ∧
     (∀ (sd : Fin 16) (u : TenantId) (v : W32) (rest : List W32), s.rng.fatal = false → s.rng.rawActive = false →
       s.owner m.race = some u → s.tenants[u].values = v :: rest →
       ∃ t x, exec (.rngrd m sd) s = .next t ∧
         OnlyMill m { s with tenants := s.tenants.set u { s.tenants[u] with values := rest } } x t ∧
         ControlEffect y x (fun j => if j = sd then v else y.s[j]) (fun j => y.t[j]) y.loops y.pc y.lc) ∧
     (∀ sd i, s.rng.fatal = true → s.item? id = some i → ∃ t, exec (.rngrd m sd) s = .next t ∧
       t.item? id = some { i with state := .stopped, status := 0x13, effects := [], body := 0 }) ∧
     (∃ t x, exec (.endMill m) s = .next t ∧ OnlyMill m s x t ∧ x.ended = true ∧
       (∀ j : Fin 16, x.t[j] = lateFlags y.late j y.t[j]) ∧ x.late = [] ∧
       { x with ended := y.ended, t := y.t, late := y.late } = y)) ∧
  ((∀ (s : State) (item : Nat) (i : Item) (b : BitVec 5) (scope : Option RaceId), s.item? item = some i →
     i.joined scope ≠ [] → (i.joined scope).Nodup →
     ((∀ m ∈ i.joined scope, (s.mill m).waitsAt item b scope.isNone = true ∧ (s.mill m).storesDone = true) →
       ∃ t, exec (.barrierComplete item b scope) s = .next t ∧
         (∀ m ∈ i.joined scope, (t.mill m).bar = none ∧ ((t.mill m).pc, (t.mill m).loops, (t.mill m).lc) =
           nextPc (s.mill m).loops (s.mill m).pc (s.mill m).lc) ∧
         (∀ m, m ∉ i.joined scope → t.mill m = s.mill m) ∧ { t with races := s.races } = s) ∧
     (∀ m ∈ i.joined scope, ((s.mill m).waitsAt item b scope.isNone && (s.mill m).storesDone) = false →
       exec (.barrierComplete item b scope) s = .next s)) ∧
   (∀ (s : State) (m : MillName) (id : Nat) (w : BarWait) (i : Item), (s.mill m).item = some id → (s.mill m).bar = some w →
     s.item? id = some i → ∃ t, exec (.barrierTimeout m) s = .next t ∧
       t.item? id = some { i with state := .stopped, status := 0x08, effects := [], body := 0 } ∧
       (∀ n, (t.mill n).item ≠ some id) ∧ (∀ n, (s.mill n).item ≠ some id → t.mill n = s.mill n)))

/-- R95 and Table 3-11: each element-wise operation on a mill that issues, with a destination and operands that its
unit can use. The result is that of the operation's own element function over the rows of D; flags go to D's register
and the item; no byte outside D's elements and scales changes. -/
def Obligations.VectorElementwiseResults : Prop :=
  ∀ (s : State) (m : MillName) (id : Nat) (d a b c : Fin 16) (mods : VMods), (s.mill m).issuing = some id →
    let y := s.mill m
    let td := tileOf y.t[d]
    let A := (tileOf y.t[a], false, false)
    let B := (tileOf y.t[b], mods.brow, mods.bscal)
    let C := (tileOf y.t[c], false, false)
    let runs (i : Instr) (srcs : List (Tile × Bool × Bool)) (f : List W32 → W32 × Flags) : Prop :=
      covers td td.rows td.elems = true →
      (∀ x ∈ srcs, covers x.1 (if x.2.1 || x.2.2 then 1 else td.rows) (if x.2.2 then 1 else td.elems) = true) →
      ∃ t, exec i s = .next t ∧ TileEffect s m id d (vecOp td srcs f mods.sat s.mem (s.spad m 0))
        (tileHolds td td.rows td.elems) t
    runs (.vadd m d a b mods) [A, B] (fun x => f32Add (x.getD 0 0) (x.getD 1 0)) ∧
    runs (.vsub m d a b mods) [A, B] (fun x => f32Sub (x.getD 0 0) (x.getD 1 0)) ∧
    runs (.vmul m d a b mods) [A, B] (fun x => f32Mul (x.getD 0 0) (x.getD 1 0)) ∧
    runs (.vmax m d a b mods) [A, B] (fun x => (f32Max (x.getD 0 0) (x.getD 1 0), {})) ∧
    runs (.vmin m d a b mods) [A, B] (fun x => (f32Min (x.getD 0 0) (x.getD 1 0), {})) ∧
    runs (.vfma m d a b c mods) [A, B, C] (fun x => f32Fma (x.getD 0 0) (x.getD 1 0) (x.getD 2 0)) ∧
    runs (.vsel m d a b c mods) [A, B, C]
      (fun x => (if fld (x.getD 2 0).toNat 0 31 = 0 then x.getD 1 0 else x.getD 0 0, {})) ∧
    runs (.vcvt m d a mods) [A] (fun x => (x.getD 0 0, {})) ∧
    runs (.vexp2 m d a mods) [A] (fun x => ulpApply .exp2 (x.getD 0 0)) ∧
    runs (.vlog2 m d a mods) [A] (fun x => ulpApply .log2 (x.getD 0 0)) ∧
    runs (.vrcp m d a mods) [A] (fun x => ulpApply .rcp (x.getD 0 0)) ∧
    runs (.vrsq m d a mods) [A] (fun x => ulpApply .rsq (x.getD 0 0)) ∧
    (fmtMx td.fmt = true → runs (.vqmx m d a mods) [A] (fun x => (x.getD 0 0, {})))

/-- R120: VRMAX starts from -infinity where ACC is 0 and keeps the larger of the running value and each element, +0 above
-0; a NaN makes the result the canonical NaN from then on; the result is the same under any order and any division into
parts, in chain or in split mode. -/
def Obligations.VrmaxAnyOrder : Prop :=
  let low : W32 := 0xFF800000#32
  (∀ (s : State) (m : MillName) (id : Nat) (d a : Fin 16) (mods : VMods), (s.mill m).issuing = some id →
    let td := tileOf (s.mill m).t[d]
    let ta := tileOf (s.mill m).t[a]
    td.check = true → td.fmt = 5 → covers ta ta.rows ta.elems = true → td.rowAt (ta.rows - 1) + 4 ≤ spadBytes →
    ∃ t, exec (.vrmax m d a mods) s = .next t ∧
      TileEffect s m id d (reduceOp td ta mods.acc [low] (fun o xs => ([vrmaxRow (o.getD 0 0) xs], {})) s.mem (s.spad m 0))
        (fun k => ∃ i, i < ta.rows ∧ td.rowAt i ≤ k ∧ k < td.rowAt i + 4) t) ∧
  (∀ a b : W32, ofF32 a ≠ .nan → ofF32 b ≠ .nan → (f32Max a b = a ∨ f32Max a b = b) ∧
    fpLt (ofF32 (f32Max a b)) (ofF32 a) = false ∧ fpLt (ofF32 (f32Max a b)) (ofF32 b) = false) ∧
  f32Max 0 0x80000000#32 = 0 ∧ f32Max 0x80000000#32 0 = 0 ∧
  (∀ (acc : W32) (xs : List W32), (ofF32 acc = .nan ∧ xs ≠ [] ∨ ∃ x ∈ xs, ofF32 x = .nan) → vrmaxRow acc xs = 0x7FC00000#32) ∧
  (∀ (acc : W32) (xs ys : List W32), xs.Perm ys → vrmaxRow acc xs = vrmaxRow acc ys) ∧
  (∀ (acc : W32) (xs ys : List W32), vrmaxRow acc (xs ++ ys) = vrmaxRow (vrmaxRow acc xs) ys) ∧
  (∀ parts : List (List W32), vrmaxRow low parts.flatten = vrmaxRow low (parts.map (vrmaxRow low)))

/-- R117 to R120: VRED, VSSQ, VWEL and VRMAX write the first elements of each row of D, from the values that D's row
holds under ACC and from the rule's start otherwise; a D of another format stops the item with FORMAT_ERROR. -/
def Obligations.ReductionResults : Prop :=
  ∀ (s : State) (m : MillName) (id : Nat) (d a : Fin 16) (mods : VMods), (s.mill m).issuing = some id →
    let y := s.mill m
    let td := tileOf y.t[d]
    let ta := tileOf y.t[a]
    let runs (i : Instr) (init : List W32) (f : List W32 → List W32 → List W32 × Flags) : Prop :=
      (td.check = true → td.fmt = 5 → covers ta ta.rows ta.elems = true →
        td.rowAt (ta.rows - 1) + 4 * init.length ≤ spadBytes →
        ∃ t, exec i s = .next t ∧ TileEffect s m id d (reduceOp td ta mods.acc init f s.mem (s.spad m 0))
          (fun k => ∃ i, i < ta.rows ∧ td.rowAt i ≤ k ∧ k < td.rowAt i + 4 * init.length) t) ∧
      (td.fmt ≠ 5 → ∃ t, exec i s = .next t ∧ t = s.stopItem id 0x07)
    runs (.vred m d a mods) [0] (fun o xs => ([(vredRow (o.getD 0 0) {} xs).1], (vredRow (o.getD 0 0) {} xs).2)) ∧
    runs (.vssq m d a mods) [0] (fun o xs => ([(vssqRow (o.getD 0 0) {} xs).1], (vssqRow (o.getD 0 0) {} xs).2)) ∧
    runs (.vwel m d a mods) [0, 0, 0] (fun o xs => vwelRow (o.getD 0 0) (o.getD 1 0) (o.getD 2 0) {} xs) ∧
    runs (.vrmax m d a mods) [0xFF800000#32] (fun o xs => ([vrmaxRow (o.getD 0 0) xs], {}))

/-- R172 and R178: VTMSK writes 0 where the tree's mask keeps a node and +infinity elsewhere, and VRNG writes the
counter-based values under the session's seed; the items outside a session use the key 0. -/
def Obligations.MaskAndRandomTiles : Prop :=
  ∀ (s : State) (m : MillName) (id : Nat) (i : Item) (d a : Fin 16), (s.mill m).issuing = some id →
    s.item? id = some i →
    let y := s.mill m
    let td := tileOf y.t[d]
    let ta := tileOf y.t[a]
    (covers td 64 64 = true → (td.fmt = 5 ∨ td.fmt = 3) → td.rows = 64 → 64 ≤ td.elems → ta.checkBytes = true →
      ta.rowAt (ta.rows - 1) + ta.rowlen * 64 ≤ spadBytes →
      ∃ t, exec (.vtmsk m d a) s = .next t ∧ TileEffect s m id d (tmskOp td ta s.mem (s.spad m 0)) (tileHolds td 64 64) t) ∧
    (covers td td.rows td.elems = true → (td.fmt = 5 ∨ td.fmt = 6) → ta.checkBytes = true →
      ta.rowAt (td.rows - 1) + 8 ≤ spadBytes →
      ∃ t, exec (.vrng m d a) s = .next t ∧
        TileEffect s m id d (vrngOp (s.samplerKey i) td ta s.mem (s.spad m 0)) (tileHolds td td.rows td.elems) t) ∧
    (i.kind = .desc → s.samplerKey i = 0)

/-- R96, R126, R127: the ring unit on tiles that lie below 2 MiB: D's bytes are the word-wise result over the bytes of
the operands in D's shape, no flag is set, and no byte outside D's rows changes. -/
def Obligations.RingUnitResults : Prop :=
  ∀ (s : State) (m : MillName) (id : Nat) (w : Bool) (d a b : Fin 16) (slot : Fin 4) (c : Fin 16),
    (s.mill m).issuing = some id →
    let y := s.mill m
    let td := tileOf y.t[d]
    let ks := maskStream y.seeds[slot].key y.seeds[slot].pre (y.sreg c).toNat td.bytes
    let fits (t : Tile) : Prop := 1 ≤ td.rows ∧ td.rows ≤ 256 ∧ 1 ≤ td.rowlen ∧ td.rowlen ≤ 256 ∧
      ({ t with rowlen := td.rowlen, stride := t.pitch } : Tile).rowAt (td.rows - 1) + td.rowlen * 64 ≤ spadBytes
    let runs (i : Instr) (srcs : List Tile) (f : List (List Byte) → List Byte) : Prop :=
      fits td → (∀ x ∈ srcs, fits x) →
      ∃ t, exec i s = .next t ∧ TileEffect s m id d (ringOp td srcs f s.mem (s.spad m 0))
          (fun k => ∃ i, i < td.rows ∧ td.rowAt i ≤ k ∧ k < td.rowAt i + td.rowlen * 64) t ∧
        (t.mill m).late = y.late ++ [(d, ({} : Flags))]
    let A := tileOf y.t[a]
    let B := tileOf y.t[b]
    runs (.radd m w d a b) [A, B] (fun xs => ringAdd w (xs.getD 0 []) (xs.getD 1 [])) ∧
    runs (.rsub m w d a b) [A, B] (fun xs => ringSub w (xs.getD 0 []) (xs.getD 1 [])) ∧
    runs (.rneg m w d a) [A] (fun xs => ringSub w ((xs.getD 0 []).map (fun _ => 0)) (xs.getD 0 [])) ∧
    runs (.rcpy m w d a) [A] (fun xs => xs.getD 0 []) ∧
    runs (.rzero m w d) [] (fun _ => List.replicate td.bytes 0) ∧
    runs (.rxgen m w d slot c) [] (fun _ => ks) ∧
    runs (.rxadd m w d a slot c) [A] (fun xs => ringAdd w (xs.getD 0 []) ks) ∧
    runs (.rxsub m w d a slot c) [A] (fun xs => ringSub w (xs.getD 0 []) ks)

/-- R90, R91, R93, Table 3-10: WLD fills the shadow bank with W's 64 rows and their scales and changes nothing else; a W
tile with an illegal field stops the item with FORMAT_ERROR. R90 to R94, R102, R103: MMA takes the shadow bank first under
SWAP, streams every row of A through the active bank into C, adds the rows that the checksum lane leaves out to SKIP_CNT,
and writes no byte outside C; an operand pair that the engine does not accept stops the item with FORMAT_ERROR. -/
def Obligations.WeightLoadAndMultiplyResults : Prop :=
  (∀ (s : State) (m : MillName) (id : Nat) (w : Fin 16), (s.mill m).issuing = some id →
     let tw := tileOf (s.mill m).t[w]
     (covers tw 64 (min (fmtDepth tw.fmt) tw.elems) = true →
       ∃ t bank, exec (.wld m w) s = .next t ∧ loadBank tw s.mem (s.spad m 0) = .ok bank ∧
         OnlyMill m s { s.mill m with shadow := bank } t ∧ bank.fmt.toNat = tw.fmt ∧ bank.rows.length = 64) ∧
     (tw.check = false → ∃ t, exec (.wld m w) s = .next t ∧ t = s.stopItem id 0x07)) ∧
  (∀ (s : State) (m : MillName) (id : Nat) (acc swap : Bool) (tA tC : Fin 16), (s.mill m).issuing = some id →
     let y := s.mill m
     let active := if swap then y.shadow else y.active
     let shadow := if swap then y.active else y.shadow
     let ta := tileOf y.t[tA]
     let tc := tileOf y.t[tC]
     let int := decide (ta.fmt = 0)
     let on := if int then s.races[m.race].intEn else s.races[m.race].floatEn
     (∀ k, pairDepth ta.fmt active.fmt.toNat = some k → covers ta ta.rows k = true → accOk tc int = true →
       tc.rowAt (ta.rows - 1) + 256 ≤ spadBytes →
       ∃ t fl skips, exec (.mma m acc tA tC swap false) s = .next t ∧
         mmaRows (s.spad m 0) ta tc int acc active k (List.range ta.rows) s.mem {} 0 = .ok (t.mem, fl, skips) ∧
         t.mill m = { y with active := active, shadow := shadow, late := y.late ++ [(tC, fl)] } ∧
         (∀ n, n ≠ m → t.mill n = s.mill n) ∧
         t.races[m.race].skipCnt = BitVec.ofNat 8 (if on then min 255 (s.races[m.race].skipCnt.toNat + skips)
           else s.races[m.race].skipCnt.toNat) ∧
         t.tick.items = s.tick.items.map (fun i => if i.id = id then { i with flags := i.flags.or fl } else i) ∧
         { t with races := s.races, mem := s.mem, tick := s.tick } = s ∧
         (memWf s.mem = true → ∀ a, (∀ i k, i < ta.rows → tc.rowAt i ≤ k → k < tc.rowAt i + 256 → a ≠ s.spad m 0 + k) →
           memGet t.mem a = memGet s.mem a)) ∧
     (pairDepth ta.fmt active.fmt.toNat = none → ∀ i, s.item? id = some i →
       ∃ t, exec (.mma m acc tA tC swap false) s = .next t ∧
         t.item? id = some { i with state := .stopped, status := 0x07, effects := [], body := 0 }))

/-- R89, R92, R115, R116: MOUT fuses and converts the rows of C into D and changes no byte outside D's elements and
scales. R103: a mismatch of the checksum lane, while its checking is on, is recorded in the race with the physical mill,
for the int8 and the float rows alike. -/
def Obligations.DrainAndChecksumResults : Prop :=
  (∀ (s : State) (m : MillName) (id : Nat) (c d e : Fin 16) (fuse : Fin 3) (sat : Bool), (s.mill m).issuing = some id →
     let tc := tileOf (s.mill m).t[c]
     let td := tileOf (s.mill m).t[d]
     let te := tileOf (s.mill m).t[e]
     (tc.fmt = 5 ∨ tc.fmt = 6) → covers tc tc.rows 64 = true → covers td tc.rows 64 = true →
     (fuse ≠ 0 → covers te tc.rows 64 = true) →
     ∃ t, exec (.mout m c d e fuse sat false) s = .next t ∧
       TileEffect s m id d (moutOp tc td te fuse sat s.mem (s.spad m 0)) (tileHolds td tc.rows 64) t) ∧
  (∀ (s : State) (m : MillName) (id : Nat) (c d e : Fin 16) (fuse : Fin 3) (sat : Bool), (s.mill m).issuing = some id →
     (if (tileOf (s.mill m).t[c]).fmt = 6 then s.races[m.race].intEn else s.races[m.race].floatEn) = true →
     ∃ t, exec (.mout m c d e fuse sat true) s = .next t ∧ t.races[m.race].mismatch = true ∧
       t.races[m.race].lastPm = s.races[m.race].map[m.mill] ∧
       t.races[m.race].mismCnt = satInc s.races[m.race].mismCnt)

/-- R82, R100, Table 3-14: the moves. MLD writes the bytes that the window gives into the rows of a tile, MCPY those of
another tile; MST holds the tile's bytes for the window until MOVE_COMPLETE; each makes its tag busy, and MOVE_COMPLETE
makes it idle. R82, R100: MOVE_COMPLETE makes the tag idle; a store's bytes are then in the window, for a race-buffer
window of a program in the buffer itself, and no other byte of memory changes; a load or copy changes nothing else. -/
def Obligations.MoveAndCompletionResults : Prop :=
  (∀ (s : State) (m : MillName) (id : Nat) (i : Item) (tag : Fin 16) (w : Fin 8) (c a d : Fin 16),
     (s.mill m).issuing = some id → s.item? id = some i → (s.mill m).tags[tag] = none →
     let y := s.mill m
     let td := tileOf y.t[d]
     let ta := tileOf y.t[a]
     let off := (y.sreg c).toNat * 64
     let busy (mv : Move) : Mill := { y with tags := y.tags.set tag (some mv) }
     let rows (b : Nat) : Prop := ∃ i, i < td.rows ∧ s.spad m 0 + td.rowAt i ≤ b ∧ b < s.spad m 0 + td.rowAt i + td.rowlen * 64
     td.checkBytes = true → td.rowAt (td.rows - 1) + td.rowlen * 64 ≤ spadBytes →
     (∀ bs, s.winRead i m.race w off td.bytes = (s, .ok bs) → ∃ t, exec (.mld m tag w c d) s = .next t ∧
       td.putRows s.mem (s.spad m 0) bs = .ok t.mem ∧ OnlyMill m { s with mem := t.mem } (busy {}) t ∧
       (memWf s.mem = true → ∀ b, ¬ rows b → memGet t.mem b = memGet s.mem b)) ∧
     (∀ bs, td.rowBytes s.mem (s.spad m 0) = .ok bs → s.winStoreOk i w off bs.length = true →
       ∃ t, exec (.mst m tag w c d) s = .next t ∧ OnlyMill m s (busy { store := some (w, off, bs) }) t) ∧
     (∀ bs, td.rowBytes s.mem (s.spad m 0) = .ok bs → s.winStoreOk i w off bs.length = false →
       ∃ t, exec (.mst m tag w c d) s = .next t ∧ t = s.stopItem id 0x06) ∧
     (∀ bs, ({ ta with rows := td.rows, rowlen := td.rowlen, stride := ta.pitch } : Tile).rowBytes s.mem (s.spad m 0) = .ok bs →
       ∃ t, exec (.mcpy m tag a d) s = .next t ∧ td.putRows s.mem (s.spad m 0) bs = .ok t.mem ∧
         OnlyMill m { s with mem := t.mem } (busy {}) t ∧
         (memWf s.mem = true → ∀ b, ¬ rows b → memGet t.mem b = memGet s.mem b))) ∧
  (∀ (s : State) (m : MillName) (id : Nat) (i : Item) (tag : Fin 16) (mv : Move),
     (s.mill m).item = some id → s.item? id = some i → (s.mill m).tags[tag] = some mv →
     let y := s.mill m
     (mv.store = none → ∃ t, exec (.moveComplete m tag) s = .next t ∧
       OnlyMill m s { y with tags := y.tags.set tag none } t) ∧
     (∀ w off bs, mv.store = some (w, off, bs) → i.kind = .desc → (i.wins.getD w.val {}).kind = 3 →
       ∃ t, exec (.moveComplete m tag) s = .next t ∧
         OnlyMill m { s with mem := t.mem } { y with tags := y.tags.set tag none } t ∧
         (memWf s.mem = true →
           let base := (i.wins.getD w.val {}).base.toNat
           let at0 := bufferAddr (Fin.ofNat 8 (fld base 24 3)) (fld base 0 24 + off)
           memBytes t.mem at0 bs.length = bs ∧
           ∀ a, (a < at0 ∨ at0 + bs.length ≤ a) → memGet t.mem a = memGet s.mem a)) ∧
     (∀ w off bs s' bs', mv.store = some (w, off, bs) → s.winWrite i m.race w off bs = (s', .ok bs') →
       ∃ t, exec (.moveComplete m tag) s = .next t ∧ t = s'.modMill m (fun x => { x with tags := x.tags.set tag none })))

-- ## The tick

/-- R38, R39, R309: PLAN begins a tick at a boundary while the sequencer runs: the tick counter rises by one, the execute
phase begins, and the device's time advances by the tick period; elsewhere it does nothing. R60, R291, R317: EXECUTE_END
ends the execute phase and cuts every item that has not ended; COMMIT begins the commit phase and writes a marker for
every tenant in service or releasing. R317: COMMIT_ACKNOWLEDGED commits the tenant's tick: the marker is taken,
COMMIT_TICK is the tick's count. R318: TICK_ABANDONED takes the marker without a commit and raises event 0x0C. -/
def Obligations.TickPhases : Prop :=
  ((∀ s : State, s.tick.running = true → s.boundary = true → s.tick.warmReq = false → s.deviceActive = true →
     ∃ t, exec .plan s = .next t ∧ t.tick.count = s.tick.count + 1 ∧ t.tick.phase = .execute ∧
       t.net.time = s.net.time + BitVec.ofNat 64 (s.tick.period.toNat * 1000)) ∧
   (∀ s : State, (s.tick.running = false ∨ s.boundary = false) → exec .plan s = .next s)) ∧
  ((∀ s : State, s.tick.phase = .execute → ∃ t, exec .executeEnd s = .next t ∧ t.tick.phase = .drain ∧
     ∀ i, s.item? i.id = some i → i.live = true →
       ∃ j, t.item? i.id = some j ∧ (j.state = .cut ∨ j.state = .stopped) ∧ j.effects = []) ∧
   (∀ s : State, s.tick.phase = .drain → s.tick.run = true → ∃ t, exec .commit s = .next t ∧ t.tick.phase = .commit ∧
     (∀ u, t.tenants[u].jnl.marker = (s.serves u || s.tenants[u].jnl.marker)) ∧ t.races = s.races ∧ t.mem = s.mem) ∧
   (∀ s : State, s.tick.phase ≠ .execute → exec .executeEnd s = .next s) ∧
   (∀ s : State, s.tick.phase ≠ .drain → exec .commit s = .next s)) ∧
  ((∀ (s : State) (u : TenantId), s.tick.phase = .commit → s.serves u = true → s.tenants[u].jnl.marker = true →
     s.tick.run = true →
     ∃ t, exec (.commitAcknowledged u) s = .next t ∧ t.tenants[u].jnl.marker = false ∧
       t.tenants[u].jnl.commitTick = s.tick.count) ∧
   (∀ (s : State) (u : TenantId), s.tick.phase = .commit → s.tenants[u].jnl.marker = true →
     ∃ t, exec (.tickAbandoned u) s = .next t ∧ t.tenants[u].jnl.marker = false ∧
       t.tenants[u].jnl.events.getLast? = some { cls := 0x0C } ∧
       t.tenants[u].jnl.commitTick = s.tenants[u].jnl.commitTick) ∧
   (∀ (s : State) (u : TenantId), (s.tick.phase ≠ .commit ∨ s.tenants[u].jnl.marker = false) →
     exec (.commitAcknowledged u) s = .next s ∧ exec (.tickAbandoned u) s = .next s))

/-- R42: what a commit makes of the deferred effects of an item: images reach the mills, window sets and models the
tenant's tables, in the order of the item's effects. R41, R275, R319: COMPLETION_RECORD_WRITE sends the oldest staged
record of a ring that has room; JOURNAL_APPLY brings every committed entry home and advances APPLIED. -/
def Obligations.CommitEffectsAndRecords : Prop :=
  (∀ (s : State) (i : Item) (acc : List (BitVec 4 × Rec)),
     (∀ (m : MillName) (file : List Byte), i.effects = [.image [m] file] →
       ((State.applyItem (s, acc) i).1.mill m).image = some file ∧
       ((State.applyItem (s, acc) i).1.mill m).imageBy = some (i.ring, i.seq)) ∧
     (∀ n w, i.effects = [.wset n w] → sget? (State.applyItem (s, acc) i).1.tenants[i.tenant].wsets n.toNat = some w) ∧
     (∀ slot m, i.effects = [.model slot m] → sget? (State.applyItem (s, acc) i).1.tenants[i.tenant].models slot.val = m) ∧
     (∀ e es, i.effects = e :: es → State.applyItem (s, acc) i =
       State.applyItem ((s.applyEffect i e).1, acc ++ (s.applyEffect i e).2) { i with effects := es }) ∧
     (i.effects = [] → State.applyItem (s, acc) i = (s, acc))) ∧
  ((∀ (s : State) (u : TenantId) (c : Fin 16) (r : Rec) (rest : List Rec),
     let x := s.cring u c
     let w := x.written.toNat + x.flying.length
     let m := 2 ^ x.log2m.toNat
     let tx := txHeader 0x13 2 0 0xFFFFFFFF (x.base.toNat + 32 * (w % m)) ::
       toSlots (bytesLE 32 (r.data.toNat + (1 - w / m % 2) * 2 ^ 31))
     x.staged = r :: rest → x.enable = true → s.tenants[u].state.owns = true →
     (BitVec.ofNat 48 w - x.consumed).toNat < m → s.link.txq = [] → s.link.maySend tx = true →
     ∃ t, exec (.completionRecordWrite u c) s = .next t ∧ (t.cring u c).staged = rest ∧
       (t.cring u c).flying = x.flying ++ [((s.link.sendTx tx).txNext - 1, r)] ∧ t.link = s.link.sendTx tx ∧
       t.mem = s.mem ∧ t.tenants = s.tenants) ∧
   (∀ (s : State) (u : TenantId) (c : Fin 16), (s.cring u c).staged = [] →
     exec (.completionRecordWrite u c) s = .next s) ∧
   (∀ (s : State) (u : TenantId), s.tick.phase = .execute → s.tenants[u].jnl.log.any (fun x => !x.applied) = true →
     ∃ t, exec (.journalApply u) s = .next t ∧ t.tenants[u].jnl.applied = t.tenants[u].jnl.commitTick ∧
       (∀ x ∈ t.tenants[u].jnl.log, x.applied = true)))

/-- R71, R72: ITEM_START runs a placed item: device work runs at once; a program takes its mills, each with its ordinal,
registers and counters zero, tile registers from the tile table, at the entry bundle. RUN's own row does the same. R77,
R99, R76, R68: an item ends when every mill of its set has executed END and every move has completed; one that ends while
a barrier is incomplete, one past its price, and a key load past its window stop with their status. -/
def Obligations.ItemsStartEndAndStop : Prop :=
  (∀ (s : State) (id : Nat) (i : Item), s.item? id = some i → i.state = .placed → i.kind = .desc → s.tick.phase = .execute →
     (dOp i.line ≠ 5 → ∃ t, exec (.itemStart id) s = .next t ∧ t.item? id = some { i with state := .running } ∧
       t.races = s.races ∧ { t with tick := s.tick } = s) ∧
     (dOp i.line = 5 → i.mills.Nodup → (∀ m ∈ i.mills, (s.mill m).item = none) →
       ∃ t, exec (.itemStart id) s = .next t ∧ exec (.runDescriptor id) s = .next t ∧
         t.item? id = some { i with state := .running } ∧ (∀ m, m ∉ i.mills → t.mill m = s.mill m) ∧
         ∀ k m, i.mills[k]? = some m →
           (t.mill m).item = some id ∧ (t.mill m).ord = k + i.ordBase ∧ (t.mill m).ended = false ∧
           (∀ j, (t.mill m).sreg j = 0) ∧ (∀ j : Fin 4, (t.mill m).lc[j] = 0) ∧ (t.mill m).loops = [] ∧
           (t.mill m).pc = imgEntry ((s.mill m).image.getD []) (dF i.line 0x10 1) ∧
           (∀ j : Fin 16, (t.mill m).t[j] = BitVec.ofNat 64 (imgTile ((s.mill m).image.getD []) j.val)))) ∧
  ((∀ (s : State) (id : Nat) (i : Item), s.item? id = some i → i.state = .running → i.mills ≠ [] → i.id = id →
     (s.barrierBroken i = false → s.millsDone i = true →
       (i.kind = .desc → ∃ t, exec (.itemEnd id) s = .next t ∧ ItemLeft s id (ended i 0 0 []) t) ∧
       (∀ c, i.kind = .slice c → ∃ t, exec (.itemEnd id) s = .next t ∧ ItemLeft s id (ended i 0 0 [.sliced c]) t)) ∧
     (s.barrierBroken i = true → ∃ t, exec (.itemEnd id) s = .next t ∧ ItemLeft s id (stopped i 0x08) t) ∧
     (s.barrierBroken i = false → s.millsDone i = false → exec (.itemEnd id) s = .next s)) ∧
   (∀ (s : State) (id : Nat) (i : Item), s.item? id = some i → i.live = true →
     ∃ t, exec (.priceExceeded id) s = .next t ∧ ItemLeft s id (stopped i 0x05) t) ∧
   (∀ (s : State) (u : TenantId) (i : Item),
     s.tick.items.find? (fun i => i.live && i.tenant = u && i.kind = .desc && 0 < sget i.price 82 0) = some i →
     ∃ t, exec (.keyLoadLate u) s = .next t ∧ t = s.stopItem i.id 0x0C) ∧
   (∀ (s : State) (u : TenantId),
     s.tick.items.find? (fun i => i.live && i.tenant = u && i.kind = .desc && 0 < sget i.price 82 0) = none →
     exec (.keyLoadLate u) s = .next s))

/-- Table 10-11, R104: NOP ends its item; LOAD_IMAGE ends with the image for the named mills when every check passes
and stops with IMAGE_INVALID otherwise; WSET ends with the eight window records; MOVE ends when its bytes are moved,
in each of its three directions. -/
def Obligations.GeneralDescriptors : Prop :=
  (∀ s id i, Works s id 0x01 i → ∃ t, exec (.nopDescriptor id) s = .next t ∧ ItemLeft s id (ended i 0 0 []) t) ∧
  (∀ s id i host, Works s id 0x03 i →
    (imageOk (padTo (dF i.line 0x18 4) host) = true → ∃ t, exec (.loadImage id host) s = .next t ∧
      ItemLeft s id (ended i 0 0 [.image (maskMills i.line) (padTo (dF i.line 0x18 4) host)]) t) ∧
    (imageOk (padTo (dF i.line 0x18 4) host) = false → ∃ t, exec (.loadImage id host) s = .next t ∧
      ItemLeft s id (stopped i 0x09) t)) ∧
  (∀ s id i host, Works s id 0x04 i → ∃ t, exec (.wset id host) s = .next t ∧
    ItemLeft s id (ended i 0 0 [.wset (BitVec.ofNat 8 (dF i.line 0x10 1)) ((chunks 16 (padTo 128 host)).map winOf)]) t) ∧
  (∀ s id i host, Works s id 0x02 i →
    let rg := i.range (dF i.line 0x20 8)
    let src := dF i.line 0x10 8 + rg.1
    let dst := dF i.line 0x18 8 + rg.1
    (∀ s' bs', dF i.line 0x28 1 = 1 → s.devWrite i.tenant dst (padTo rg.2 host) = (s', .ok bs') →
      exec (.move id host) s = .next (s'.endItem id 0 0 [])) ∧
    (∀ s' bs, dF i.line 0x28 1 = 2 → s.devRead i.tenant src rg.2 = (s', .ok bs) →
      exec (.move id host) s = .next ((s'.hostWrite dst bs).endItem id 0 0 [])) ∧
    (∀ s' bs s'' bs', dF i.line 0x28 1 = 0 → s.devRead i.tenant src rg.2 = (s', .ok bs) →
      s'.devWrite i.tenant dst bs = (s'', .ok bs') → exec (.move id host) s = .next (s''.endItem id 0 0 [])))

/-- R43 to R45, R64, R474, Tables 2-9 and 2-12: RUN starts the sequencer and, at a boundary with nothing left to run,
stops it; HOLD sets its bit, and a release of the last hold clears HELD; HELD is set when the held tenant's work is
done; PPS_EDGE records the error and the lock, LOCK_LOST lets the tick run free. -/
def Obligations.SequencerControls : Prop :=
  (∀ s : State, ∃ t, exec (.run true) s = .next t ∧
    t = { s with tick := { s.tick with run := true, running := true } }) ∧
  (∀ s : State, s.boundary = true → s.drained = true →
    (∀ u : TenantId, s.serves u = true → s.tenants[u].jnl.marker = false) →
    ∃ t, exec (.run false) s = .next t ∧
      t = { s with tick := { s.tick with run := false, running := false, phase := .none } }) ∧
  (∀ s : State, s.boundary = false → ∃ t, exec (.run false) s = .next t ∧
    t = { s with tick := { s.tick with run := false } }) ∧
  (∀ (s : State) (r : RaceId), ∃ t, exec (.hold r true) s = .next t ∧
    t = { s with races := s.races.set r { s.races[r] with hold := true } }) ∧
  (∀ (s : State) (r : RaceId) (u : TenantId), s.owner r = some u →
    (∀ q, q ≠ r → s.tenants[u].hasRace q = true → s.races[q].hold = false) →
    ∃ t, exec (.hold r false) s = .next t ∧
      (∀ q, s.tenants[u].hasRace q = true → t.races[q].hold = false ∧ t.races[q].held = false) ∧
      (∀ q, s.tenants[u].hasRace q = false → t.races[q] = s.races[q])) ∧
  (∀ (s : State) (u : TenantId), s.tenants[u].state.owns = true → s.holding u = true → s.quiet u = true →
    ∃ t, exec (.held u) s = .next t ∧ (∀ q, s.tenants[u].hasRace q = true → t.races[q] = { s.races[q] with held := true }) ∧
      (∀ q, s.tenants[u].hasRace q = false → t.races[q] = s.races[q]) ∧ { t with races := s.races } = s) ∧
  (∀ (s : State) (err : W32), s.tick.source = 1 ∨ s.tick.source = 2 → ∃ t, exec (.ppsEdge err) s = .next t ∧
    t.tick.phaseErr = err ∧ (t.tick.locked = true ↔ -1000 ≤ err.toInt ∧ err.toInt ≤ 1000) ∧ { t with tick := s.tick } = s) ∧
  (∀ s : State, s.tick.source = 1 ∨ s.tick.source = 2 → ∃ t, exec .lockLost s = .next t ∧
    t.tick.lockLost = true ∧ t.tick.locked = false ∧ t.tick.period = s.tick.period ∧ { t with tick := s.tick } = s)

-- ## Secure aggregation

/-- R128, R129, R133, R143, R144, R147, R151, R154: what the items of the aggregation descriptors end with. Everything
that they change in the round waits for their commit; AGG_OPEN draws its tag from the tenant's values and is refused with
its status; AGG_QUERY of an unknown round stops with NO_ROUND. R139: a segment item that reads its inputs ends with the
new segment and what it took; R140: an upload timed out is abandoned; R150: a chain whose running sum has not come in time
returns to Unmasking, and its AGG_RELEASE ends. -/
def Obligations.AggregationItemsAndTimeouts : Prop :=
  (∀ (s : State) (id : Nat) (i : Item) (host : List Byte),
     let rid := BitVec.ofNat 32 (dF i.line 0x10 4)
     (Works s id 0x41 i → ∃ t, exec (.aggSeeds id host) s = .next t ∧ ItemLeft s id (ended i 0 0
       [.aggSeeds rid ((List.range (dF i.line 0x14 4)).map (fun k => bytesAt host (64 * k) 64))]) t) ∧
     (Works s id 0x42 i → ∃ t, exec (.aggDrop id host) s = .next t ∧ ItemLeft s id (ended i 0 0
       [.aggDrop rid ((List.range (dF i.line 0x14 4)).map (fun k => BitVec.ofNat 32 (leAt host (4 * k) 4)))]) t) ∧
     (Works s id 0x43 i → ∃ t, exec (.aggClose id) s = .next t ∧ ItemLeft s id (ended i 0 0 [.aggClose rid]) t) ∧
     (Works s id 0x44 i → i.index = 0 → ∃ t, exec (.aggRelease id) s = .next t ∧
       ItemLeft s id (ended i 0 0 [.aggRelease rid (releaseOf i)]) t) ∧
     (Works s id 0x45 i → ∃ t, exec (.aggFree id) s = .next t ∧ ItemLeft s id (ended i 0 0 [.aggEnd rid]) t) ∧
     (Works s id 0x46 i → ∃ t, exec (.aggAbort id) s = .next t ∧ ItemLeft s id (ended i 0 0 [.aggEnd rid]) t) ∧
     (∀ st, Works s id 0x40 i → i.index = 0 → s.aggOpenRefusal i.tenant (roundFrom i.tenant i.line 0) = some st →
       ∃ t, exec (.aggOpen id) s = .next t ∧ ItemLeft s id (stopped i st) t) ∧
     (∀ v rest, Works s id 0x40 i → i.index = 0 → s.aggOpenRefusal i.tenant (roundFrom i.tenant i.line 0) = none →
       s.tenants[i.tenant].values = v :: rest → s.tagUsed v = false →
       let r := roundFrom i.tenant i.line v
       let drawn := s.modTenant i.tenant (fun x => { x with values := rest })
       ∃ t, exec (.aggOpen id) s = .next t ∧ t.tenants[i.tenant].values = rest ∧ t.rounds = s.rounds ∧
         t = (drawn.openFill r i.first i.gran).endItem id 0 0 (.aggOpen r :: if i.last then [.aggReady rid] else [])) ∧
     (Works s id 0x47 i → s.roundOf i.tenant (dF i.line 0x10 4) = none →
       ∃ t, exec (.aggQuery id) s = .next t ∧ ItemLeft s id (stopped i 0x22) t) ∧
     (∀ slot r, Works s id 0x47 i → s.roundOf i.tenant (dF i.line 0x10 4) = some (slot, r) →
       ∃ t, exec (.aggQuery id) s = .next t ∧ t.item? id = some (ended i 0 0 []) ∧ t.rounds = s.rounds ∧ t.mem = s.mem)) ∧
  ((∀ (s : State) (id : Nat) (i : Item) (slot : Fin 64) (g : Nat) (r : Round) (s' : State) (sum : List Byte),
     s.item? id = some i → i.live = true → i.kind = .segment slot g → s.rounds[slot] = some r →
     s.segSum r g (i.args.map (·.toNat)) = (s', .ok sum) →
     let n := i.args.map (·.toNat)
     let e := sget r.segs g {}
     ∃ t, exec (.segmentItem id) s = .next t ∧ t = s'.endItem id 0 0 [.segment slot g (e.queue.take (n.getD 1 0))
       (e.retract.take (n.getD 0 0)) (e.cursor + n.getD 2 0) (n.getD 3 0 = 1) sum]) ∧
   (∀ (s : State) (slot : Fin 64) (p : BitVec 24) (r : Round) (c : Nat) (x : PartCtx), s.rounds[slot] = some r →
     (s.uploads slot).find? (fun u => u.2.part = p) = some (c, x) → s.partCtx? c = some x → r.state = .collecting →
     x.abandoning = false → x.lastTick.toNat + r.timeout.toNat < s.tick.count.toNat →
     ∃ t q, exec (.uploadTimeout slot p) s = .next t ∧ t.partCtx? c = some { x with abandoning := true } ∧
       t.rounds[slot] = some q ∧ { q with segs := r.segs } = r ∧
       (∀ g, g < r.nseg → x.slot.toNat ∉ (sget q.segs g {}).queue) ∧ { t with rounds := s.rounds, ctxs := s.ctxs } = s) ∧
   (∀ (s : State) (slot : Fin 64) (r : Round) (x : Release), s.rounds[slot] = some r → r.release = some x →
     r.state = .chainWait → r.chainReady = false → x.start.toNat + x.timeout.toNat ≤ s.tick.count.toNat →
     ∃ t, exec (.chainTimeout slot) s = .next t ∧
       t.rounds[slot] = some { r with state := .unmasking, release := none } ∧
       ∀ d ∈ t.tenants[r.tenant].descs, d.ring = x.ring → d.seq = x.seq → d.done = true))

/-- R129, R143, R147, R151: what the commits of the aggregation descriptors make of the round: AGG_OPEN takes the lowest
free slot in Collecting, AGG_CLOSE closes it and drops the unseen participants, AGG_RELEASE without a chain makes it
Releasing, AGG_FREE of a Released round frees its slot, and every one of them that names no round of the tenant completes
with NO_ROUND. R134 and R144: seed records leave every participant in its state, except that a Contributor may become
Self-unmasked: a Dropped or Self-unmasked participant never changes again. -/
def Obligations.AggregationCommits : Prop :=
  (∀ (s : State) (u : TenantId) (ring : Fin 64) (seq : W48) (id : W32),
     (∀ (r : Round) (slot : Fin 64) (w : BitVec 13), s.aggOpenRefusal u r = none → s.freeRound = some slot →
       s.freeWindow u = some w → (s.commitAggOpen u ring seq r).rounds[slot] = some { r with window := w } ∧
         (∀ k, k ≠ slot → (s.commitAggOpen u ring seq r).rounds[k] = s.rounds[k])) ∧
     (∀ slot r x, s.roundOf u id.toNat = some (slot, r) → r.opening = false → r.releaseFieldsOk x = true →
       r.releaseRefusal x = none → s.releaseDest u r x = true → (r.chainIn = false ∨ r.chainAdded = true) →
       ∃ q, (s.commitAggRelease u ring seq id x).rounds[slot] = some q ∧ q.state = .releasing ∧
         q.release = some { x with start := s.tick.count }) ∧
     (∀ slot r, s.roundOf u id.toNat = some (slot, r) → r.opening = false → r.state = .released →
       (s.commitAggEnd u ring seq 0x45 id).rounds[slot] = none) ∧
     (s.roundOf u id.toNat = none →
       (∀ recs, s.commitAggSeeds u ring seq id recs = s.failDesc u ring seq 0x22 0) ∧
       (∀ ps, s.commitAggDrop u ring seq id ps = s.failDesc u ring seq 0x22 0) ∧
       s.commitAggClose u ring seq id = s.failDesc u ring seq 0x22 0 ∧
       (∀ x, s.commitAggRelease u ring seq id x = s.failDesc u ring seq 0x22 0) ∧
       (∀ op, s.commitAggEnd u ring seq op id = s.failDesc u ring seq 0x22 0))) ∧
  (∀ (r : Round) (recs : List (List Byte)) (p : Nat),
     let q := (r.takeSeeds recs).1
     ((q.part p).state = (r.part p).state ∨ ((r.part p).state = 2 ∧ (q.part p).state = 3)) ∧
     (∃ more, q.log = r.log ++ more) ∧ (r.takeSeeds recs).2.accepted + (r.takeSeeds recs).2.refused = recs.length)

/-- R96 and R126: a ring sum or difference is exact modulo 2^32 or 2^64 word by word, the ring unit never sets a flag,
and a ring reduction gives the same bytes under any order and any division into parts. -/
def Obligations.RingSumsExact : Prop :=
  (∀ (w : Bool) (a b : List Byte) (k : Nat),
    let n := if w then 8 else 4
    let word (x : List Byte) : Nat := natLE ((x.drop (n * k)).take n)
    a.length = b.length → a.length % n = 0 → k < a.length / n →
      word (ringAdd w a b) = (word a + word b) % 2 ^ (8 * n) ∧
      word (ringSub w a b) = (word a + (2 ^ (8 * n) - word b)) % 2 ^ (8 * n) ∧
      word (ringSub w (a.map (fun _ => 0)) a) = (2 ^ (8 * n) - word a) % 2 ^ (8 * n)) ∧
  (∀ td srcs f m b mem fl, ringOp td srcs f m b = .ok (mem, fl) → fl = {}) ∧
  (∀ (w : Bool) (len : Nat) (xs ys : List (List Byte)) (parts : List (List (List Byte))),
    let sum (xs : List (List Byte)) : List Byte := xs.foldl (ringAdd w) (List.replicate (8 * len) 0)
    (∀ x ∈ xs, x.length = 8 * len) → xs.Perm ys → xs = parts.flatten →
      sum ys = sum xs ∧ sum (parts.map sum) = sum xs)

/-- R127, R145 and R146: what the device subtracts for a seed is what a client added: applying a seed entry takes the
mask away again, for self seeds and for pair seeds on either side. -/
def Obligations.SeedsCancelMasks : Prop :=
  ∀ (r : Round) (g : Nat) (acc : List Byte) (e : SeedRec), acc.length % 8 = 0 →
    let mask := maskStream e.seed r.nonce (g * 65536) acc.length
    r.applySeed g (if e.pair && decide (e.part < e.neigh) then ringSub r.ring64 acc mask else ringAdd r.ring64 acc mask) e = acc

-- ## Token generation

/-- R157 to R163, R174, R181, R183: what the items of the DEC descriptors end with, and with which status they stop.
DEC_MODEL copies its granules before it ends; DEC_OPEN takes its seed from the descriptor or two values from the
tenant; everything else waits for the commit. -/
def Obligations.TokenGenerationItems : Prop :=
  ∀ (s : State) (id : Nat) (i : Item) (host : List Byte),
    let u := i.tenant
    let ctx := BitVec.ofNat 18 (dF i.line 0x10 4)
    let slot := dF i.line 0x10 1
    let open' (seed : W64) : Effect := .decOpen ctx (sessionOf u i.line seed) (bytesAt host 0 256)
    (Works s id 0x50 i → s.modelUsed u slot = true →
      ∃ t, exec (.decModel id) s = .next t ∧ ItemLeft s id (stopped i 0x33) t) ∧
    (Works s id 0x50 i → s.modelUsed u slot = false →
      (dF i.line 0x11 1 = 1 → ∃ t, exec (.decModel id) s = .next t ∧
        ItemLeft s id (ended i 0 0 [.model (Fin.ofNat 16 slot) none]) t) ∧
      (dF i.line 0x11 1 ≠ 1 → s.modelOk u i.line = false →
        ∃ t, exec (.decModel id) s = .next t ∧ ItemLeft s id (stopped i 0x31) t) ∧
      (∀ s' bs, dF i.line 0x11 1 ≠ 1 → s.modelOk u i.line = true → s.modelCopy u i.line i.first i.gran = (s', .ok bs) →
        exec (.decModel id) s = .next (s'.endItem id 0 0
          (if i.last then [.model (Fin.ofNat 16 slot) (some (modelOf i.line))] else [])))) ∧
    (∀ st, Works s id 0x51 i → s.openRefusal u i.line = some st →
      ∃ t, exec (.decOpen id host) s = .next t ∧ ItemLeft s id (stopped i st) t) ∧
    (Works s id 0x51 i → s.openRefusal u i.line = none → dF i.line 0x15 1 = 0 →
      ∃ t, exec (.decOpen id host) s = .next t ∧
        ItemLeft s id (ended i 0 0 [open' (BitVec.ofNat 64 (dF i.line 0x18 8))]) t) ∧
    (∀ a b rest, Works s id 0x51 i → s.openRefusal u i.line = none → dF i.line 0x15 1 ≠ 0 →
      s.tenants[u].values = a :: b :: rest →
      ∃ t, exec (.decOpen id host) s = .next t ∧ t.tenants[u].values = rest ∧ (∀ v, v ≠ u → t.tenants[v] = s.tenants[v]) ∧
        t.item? id = some (ended i 0 0 [open' (BitVec.ofNat 64 (a.toNat + b.toNat * 2 ^ 32))]) ∧ t.ctxs = s.ctxs) ∧
    (Works s id 0x52 i → s.ownSession u (dF i.line 0x10 4) = none →
      ∃ t, exec (.decPages id host) s = .next t ∧ ItemLeft s id (stopped i 0x32) t) ∧
    (∀ x, Works s id 0x52 i → s.ownSession u (dF i.line 0x10 4) = some x →
      (x.state ≠ .idle → dF i.line 0x14 4 ≤ x.position.toNat / 64 + 4 →
        ∃ t, exec (.decPages id host) s = .next t ∧ ItemLeft s id (stopped i 0x33) t) ∧
      ((x.state = .idle ∨ x.position.toNat / 64 + 4 < dF i.line 0x14 4) →
        ∃ t, exec (.decPages id host) s = .next t ∧ ItemLeft s id (ended i 0 0 [.decPages ctx
          (BitVec.ofNat 32 (dF i.line 0x14 4))
          ((List.range (dF i.line 0x18 4)).map (fun k => BitVec.ofNat 32 (leAt host (4 * k) 4)))]) t)) ∧
    (Works s id 0x53 i → ∃ t, exec (.decRun id host) s = .next t ∧ ItemLeft s id (ended i 0 0 [.decRun ctx
      (BitVec.ofNat 32 (dF i.line 0x14 4)) (BitVec.ofNat 64 (dF i.line 0x18 8)) (BitVec.ofNat 32 (dF i.line 0x20 4))
      (BitVec.ofNat 32 (leAt host 0 4))]) t) ∧
    (Works s id 0x54 i → ∃ t, exec (.decStop id) s = .next t ∧ ItemLeft s id (ended i 0 0 [.decStop ctx]) t) ∧
    (Works s id 0x55 i → ∃ t, exec (.decClose id) s = .next t ∧ ItemLeft s id (ended i 0 0 [.decClose ctx]) t)

/-- R160, R174, R181, R183, R185: what the commits of the DEC descriptors make of a session. DEC_OPEN gives the context
its record; DEC_RUN of an idle session sets it running with its prompt; DEC_STOP lets the pass in progress finish with
status 0x37; DEC_CLOSE of an idle session ends it; and each that names no session of the tenant has status 0x32. -/
def Obligations.TokenGenerationCommits : Prop :=
  ∀ (s : State) (u : TenantId) (ring : Fin 64) (seq : W48) (cls : ClassId) (c : BitVec 18),
    (∀ x ps, (s.commitOpen c x ps).session? c = some x) ∧
    (∀ x count addr maxNew first, s.ownSession u c.toNat = some x → x.state = .idle → ¬ (count = 0 ∧ maxNew = 0) →
      ¬ (count = 0 ∧ x.rootValid = false) → (s.model? u x.model.val).isSome = true → ¬ (count = 1 ∧ x.rootValid = false) →
      ∃ y, (s.commitRun u ring seq cls c count addr maxNew first).session? c = some y ∧ y.state = .running ∧
        y.remain = maxNew ∧ y.promptLeft = count ∧ y.promptAddr = addr ∧ y.run = some (ring, seq) ∧ y.cls = cls ∧
        y.position = x.position ∧ y.root = x.root ∧ y.seed = x.seed) ∧
    (∀ x addr maxNew first, s.ownSession u c.toNat = some x → x.state = .idle → x.rootValid = false →
      (s.model? u x.model.val).isSome = true → maxNew ≠ 0 →
      ∃ y, (s.commitRun u ring seq cls c 1 addr maxNew first).session? c = some y ∧ y.state = .running ∧
        y.rootValid = true ∧ y.root = first ∧ y.promptLeft = 0 ∧ y.remain = maxNew) ∧
    (∀ x, s.ownSession u c.toNat = some x → x.state ≠ .idle →
      (s.commitRun u ring seq cls c 1 0 1 0) = s.setBody u ring seq 0x33 0 ∧
      (s.commitClose u ring seq c) = s.setBody u ring seq 0x33 0 ∧
      ∃ y, (s.commitStop u ring seq c).session? c = some y ∧ y.ending = x.endAs 0x37 ∧ y.position = x.position ∧
        (x.pass.isSome = true → y.state = .stopping)) ∧
    (∀ x, s.ownSession u c.toNat = some x → x.state = .idle →
      (s.commitClose u ring seq c).session? c = none) ∧
    (s.ownSession u c.toNat = none →
      (∀ count addr maxNew first, s.commitRun u ring seq cls c count addr maxNew first = s.setBody u ring seq 0x32 0) ∧
      s.commitStop u ring seq c = s.setBody u ring seq 0x32 0 ∧ s.commitClose u ring seq c = s.setBody u ring seq 0x32 0)

/-- Table 6-4, R171, R173, R175, R177: the items of a pass. A promotion copies its granules to the hot frame and the last
one makes it the page's; a draft writes the checked tree, or a prefill chain; a slice is one more slice streamed; an
accept ends with the tokens of the walk, cut at REMAIN and at the stop token, and the rows to commit. -/
def Obligations.PassItems : Prop :=
  ∀ (s : State) (id : Nat) (i : Item) (c : BitVec 18) (x : Session) (m : Model) (p0 : Pass) (host : List Byte),
    s.item? id = some i → i.live = true → s.passTurn i = true → s.session? c = some x →
    s.model? x.tenant x.model.val = some m → x.pass = some p0 →
    let p := s.passNow c p0
    let low := s.lowest x.tenant
    let a (n : Nat) : Nat := (i.args.getD n 0).toNat
    let r : RaceId := Fin.ofNat 8 (a 0)
    (i.kind = .promotion c →
      (s.pageFrame x r (a 1) = none → ∃ t, exec (.promotion id) s = .next t ∧ ItemLeft s id (ended i 0 0 []) t) ∧
      (∀ fr s' bs, s.pageFrame x r (a 1) = some fr → fr < m.f 0x28 4 →
        s.copySpan { race := r, tierB := true, off := m.frameOff fr + a 3 * 4096, len := a 4 * 4096 }
          { race := r, tierB := false, off := m.hotOff (a 2) + a 3 * 4096, len := a 4 * 4096 } = (s', .ok bs) →
        exec (.promotion id) s = .next (s'.endItem id 0 0 (if i.last then [.promoted c r (a 2) (a 1)] else []))) ∧
      (∀ fr, s.pageFrame x r (a 1) = some fr → m.f 0x28 4 ≤ fr →
        ∃ t, exec (.promotion id) s = .next t ∧ ItemLeft s id (stopped i 0x36) t)) ∧
    (i.kind = .draft c → p.prefill = true →
      let chain := (if x.rootValid then [x.root] else []) ++
        (List.range p.fetched).map (fun k => BitVec.ofNat 32 (leAt host (4 * k) 4))
      ∀ s' bs, s.blockWrite x (s.racesOf x.tenant) 0x400 ((chain.take p.nodes).flatMap (fun t => bytesLE 4 t.toNat)) = (s', .ok bs) →
        exec (.draft id host) s = .next (s'.endItem id 0 0
          [.drafted c p.nodes false (chain.take p.nodes) (chain.drop p.nodes).head?])) ∧
    (i.kind = .draft c → p.prefill = false → m.draft.isSome = true → s.millsDone i = true →
      ∀ s' bs s'' bs', s.readSpan (x.block low 0x100 512) false = (s', .ok bs) →
        let tree := fixTree (nodesOf bs) x.root
        s'.blockWrite x (s.racesOf x.tenant) 0x100 (tree.1.flatMap Node.bytes) = (s'', .ok bs') →
        exec (.draft id host) s = .next (s''.endItem id 0 0 [.drafted c tree.2.1 tree.2.2 [] none])) ∧
    (i.kind = .slice c → s.millsDone i = true →
      ∃ t, exec (.slice id) s = .next t ∧ ItemLeft s id (ended i 0 0 [.sliced c]) t) ∧
    (i.kind = .accept c → p.prefill = false → ∀ s' bs s'' bs' rows,
      s.readSpan (x.block low 0x100 768) false = (s', .ok bs) →
      let ns := nodesOf bs
      let verdict := (List.range 64).map (fun k => BitVec.ofNat 32 (leAt bs (512 + 4 * k) 4))
      let emit := truncateEmit (walkEmit ns p.nodes verdict) x.remain.toNat x.stopToken
      let path := (walkPath ns p.nodes verdict).take emit.length
      let nodes := (indexed path).map (fun q => (q.2, x.position.toNat + q.1))
      (∀ r ∈ s'.racesOf x.tenant, ∀ n ∈ nodes, (s'.kvSpan m x c.toNat r n.2 0).isSome = true) →
      s'.stagingRows x m nodes = (s'', .ok bs', rows) →
      exec (.accept id) s = .next (s''.endItem id 0 0 [.accepted c emit rows]) ∧ emit.length ≤ x.remain.toNat)

/-- R170, R172, R173: what the tree rules promise. The device leaves a tree whose node 0 holds the root and whose count
is the rule's; a row of the mask keeps its own column and the columns that its parent's row keeps; and the walk commits
nodes of the tree only, each a child of the one before, emitting one token more than it follows. -/
def Obligations.TreeRules : Prop :=
  (∀ (bs : List Byte) (root : W32), let f := fixTree (nodesOf bs) root
    treeCount f.1 (some root) = f.2.1 ∧ 1 ≤ f.2.1 ∧ f.2.1 ≤ 64 ∧
    (∀ k n, f.1[k]? = some n → f.2.1 ≤ k → n.valid = false)) ∧
  (∀ (ns : List Node) (root : Option W32) (i : Nat) (n : Node), ns.length = 64 → 0 < i → i < treeCount ns root →
    ns[i]? = some n → ∀ j, maskKeeps ns (treeCount ns root) i j = true ↔
      (j = i ∨ maskKeeps ns (treeCount ns root) n.parent j = true)) ∧
  (∀ (ns : List Node) (root : Option W32) (verdict : List W32), ns.length = 64 →
    let count := treeCount ns root
    let path := walkPath ns count verdict
    (walkEmit ns count verdict).length = path.length ∧
    (∀ k, k + 1 < path.length → path.getD (k + 1) 0 < count ∧ path.getD k 0 < path.getD (k + 1) 0 ∧
      ((ns[path.getD (k + 1) 0]?).map (·.parent) = some (path.getD k 0)) ∧
      ((ns[path.getD (k + 1) 0]?).map (·.token) = some (verdict.getD (path.getD k 0) 0))) ∧
    (∀ remain stop, (truncateEmit (walkEmit ns count verdict) remain stop).length ≤ remain))

-- ## The hopper

/-- R192, R193, R198: PUSH to a queue that is not full appends the word, in the lowest free cell and with the partition's
check, to the level of its PRIO and counts it, and an up-crossing of the watermark; PUSH to a full queue stores nothing
and sets OVERRUN. No other queue, no other partition and nothing else in the machine changes. R191, R196, R197: POP of a
queue with no deliverable word gives the idle item and changes nothing else. Otherwise it removes the head word of the
level it takes and delivers its data and tag; SOP without EOP keeps the queue on the packet's level and EOP ends that. A
good word changes nothing else in the machine. -/
def Obligations.PushAndPopResults : Prop :=
  (∀ (s : State) (p : HopName) (q : BitVec 14) (data : W64) (tag : Byte),
     let h := s.hop p
     let x := s.hopQ p q.toNat
     let l := tagPrio tag
     let w := wmOf x.wmLevel
     let frame (t : State) : Prop := (∀ k, k ≠ q.toNat → t.hopQ p k = s.hopQ p k) ∧ (∀ r, r ≠ p → t.hop r = s.hop r) ∧
       { t with hops := s.hops } = s ∧ { t.hop p with queues := h.queues, wm := h.wm, overrun := h.overrun } = h
     (s.hopFull p q.toNat = false → ∃ t, exec (.push p q data tag) s = .next t ∧ frame t ∧ (t.hop p).overrun = h.overrun ∧
       let crossed := decide (w ≠ 0 ∧ x.depth < w ∧ w ≤ x.depth + 1)
       t.hopQ p q.toNat = { x with
         lev := x.lev.set l (x.lev[l] ++ [{ cell := h.freeCell, bits := hopStore h.secded data tag x.pushed[l] }])
         pushed := x.pushed.set l (x.pushed[l] + 1), wmCnt := if crossed then satInc x.wmCnt else x.wmCnt } ∧
       (t.hop p).wm = (h.wm || crossed)) ∧
     (s.hopFull p q.toNat = true → ∃ t, exec (.push p q data tag) s = .next t ∧ frame t ∧
       t.hopQ p q.toNat = { x with overrun := true, suspect := true } ∧ (t.hop p).overrun = true ∧ (t.hop p).wm = h.wm)) ∧
  (∀ (s : State) (p : HopName) (q : BitVec 14),
     let h := s.hop p
     let x := s.hopQ p q.toNat
     let cut := (s.hopQueue p q.toNat).2.2
     (x.pick cut = none → ∃ t, exec (.pop p q) s = .next t ∧ t.hop p = { h with out := (0xFFFFFFFFFFFFFFFF#64, 0) } ∧
       (∀ r, r ≠ p → t.hop r = s.hop r) ∧ { t with hops := s.hops } = s) ∧
     (∀ l w rest v, x.pick cut = some l → x.lev[l] = w :: rest → x.suspect = false →
       hopTake h.secded w.bits x.popped[l] = (v, .good) →
       ∃ t, exec (.pop p q) s = .next t ∧ (t.hop p).out = (v.setWidth 64, (v >>> 64).setWidth 8) ∧
         t.hopQ p q.toNat = { x with lev := x.lev.set l rest, popped := x.popped.set l (x.popped[l] + 1)
                                     lock := if v.getLsbD 67 then none else if v.getLsbD 66 then some l else x.lock } ∧
         (∀ k, k ≠ q.toNat → t.hopQ p k = s.hopQ p k) ∧ (∀ r, r ≠ p → t.hop r = s.hop r) ∧
         { t.hop p with queues := h.queues, out := h.out } = h ∧ { t with hops := s.hops } = s) ∧
     (∀ k, x.lock = none → x.pick cut = some k → x.lev[k] ≠ [] ∧ ∀ j, k < j → levelReady cut x.lev[j] = false))

/-- R188, R189: the checks. A stored word comes back whole in both modes; SECDED mode corrects every single flipped bit
of the 80 and finds every pair of them; normal mode finds every single flipped bit. -/
def Obligations.HopperChecks : Prop :=
  ∀ (data : W64) (tag : Byte) (n : BitVec 7),
    let word : BitVec 72 := BitVec.ofNat 72 (data.toNat + (tag.toNat % 16 + 128) * 2 ^ 64)
    (∀ mode, hopTake mode (hopStore mode data tag n) n = (word, .good)) ∧
    (∀ j, j < 80 → hopTake true (hopStore true data tag n ^^^ BitVec.ofNat 80 (2 ^ j)) n = (word, .corrected)) ∧
    (∀ j k, j < k → k < 80 →
      (hopTake true (hopStore true data tag n ^^^ BitVec.ofNat 80 (2 ^ j) ^^^ BitVec.ofNat 80 (2 ^ k)) n).2 = .poison false) ∧
    (∀ j, j < 80 → ∃ seq, (hopTake false (hopStore false data tag n ^^^ BitVec.ofNat 80 (2 ^ j)) n).2 = .poison seq) ∧
    (∀ m, m ≠ n → (hopTake false (hopStore false data tag n) m).2 = .poison true)

/-- R193, R199, R200: a poisoned word of a race hopper is still delivered, with POISON set, and is removed; the partition
records the queue, the cell and the cause, its recovery is due, and a cell found bad before is retired. A poisoned word of
device partition 8 makes no recovery due. R190, R199, R201, Tables 7-3, 7-10: HOPPER_PARTITION_RESET empties every queue
at a boundary, in SECDED mode after a poisoned word and in the mode of MODE_NEXT on request; QUEUE_REBUILD follows in the
execute phase; HOPPER_RESET_REQ makes the reset pending; WM_ACK clears the queue's count. -/
def Obligations.PoisonAndHopperControls : Prop :=
  (∀ (s : State) (p : HopName) (q : BitVec 14) (l : Fin 4) (w : HopWord) (rest : List HopWord) (v : BitVec 72) (seq : Bool),
     let h := s.hop p
     let x := s.hopQ p q.toNat
     x.pick (s.hopQueue p q.toNat).2.2 = some l → x.lev[l] = w :: rest → h.retired.length < 15 →
     hopTake h.secded w.bits x.popped[l] = (v, .poison seq) →
     ∃ t, exec (.pop p q) s = .next t ∧ (t.hop p).out.1 = v.setWidth 64 ∧ (t.hop p).out.2.getLsbD 4 = true ∧
       (t.hopQ p q.toNat).lev[l] = rest ∧ (t.hop p).poison = true ∧ (t.hop p).seqErr = seq ∧
       (t.hop p).lastQueue = q ∧ (t.hop p).lastCell = BitVec.ofNat 17 w.cell ∧
       (t.hop p).recover = (h.recover || decide (p ≠ .device)) ∧
       ((t.hop p).retired = if w.cell ∈ h.erred ∧ w.cell ∉ h.retired then h.retired ++ [w.cell] else h.retired) ∧
       w.cell ∈ (t.hop p).erred ∧ t.mem = s.mem) ∧
  (∀ (s : State) (p : HopName),
     let h := s.hop p
     let only (t : State) : Prop := (∀ r, r ≠ p → t.hop r = s.hop r) ∧ { t with hops := s.hops } = s
     let emptied (mode : Bool) (t : State) : Prop := (t.hop p).secded = mode ∧ (t.hop p).resetPend = false ∧
       (∀ k, t.hopQ p k = { ({} : HopQ) with wmLevel := (s.hopQ p k).wmLevel }) ∧ only t
     (s.boundary = true → h.recover = true →
       ∃ t, exec (.hopperPartitionReset p) s = .next t ∧ emptied true t ∧ (t.hop p).rebuild = true) ∧
     (s.boundary = true → h.recover = false → h.resetPend = true → s.hopHeld p = true →
       h.queues.all (fun q => q.2.depth = 0) = true →
       ∃ t, exec (.hopperPartitionReset p) s = .next t ∧ emptied h.modeNext t ∧ (t.hop p).rebuild = h.rebuild) ∧
     (s.boundary = false → exec (.hopperPartitionReset p) s = .next s) ∧
     (h.rebuild = true → s.tick.phase = .execute → ∃ t, exec (.queueRebuild p) s = .next t ∧
       (t.hop p).rebuild = false ∧ (t.hop p).recovered = true ∧
       (∀ u, s.hopTenant p = some u → ∀ d ∈ t.tenants[u].descs, d.accepted = true)) ∧
     (∃ t, exec (.hopperResetReq p) s = .next t ∧ t.hop p = { h with resetPend := true } ∧ only t) ∧
     (∀ q : BitVec 14, ∃ t, exec (.wmAck p q) s = .next t ∧ t.hopQ p q.toNat = { s.hopQ p q.toNat with wmCnt := 0 } ∧
       (∀ k, k ≠ q.toNat → t.hopQ p k = s.hopQ p k) ∧ only t))

-- ## Memory

/-- R207 to R211: the map of the tiers. In each tier two offsets in different code words lie in different bursts, tier A
offsets come back from their channel and channel-local address, every tier B row keeps its eight blocks in eight
channels, and a slot of a channel belongs to one row. -/
def Obligations.AddressMap : Prop :=
  (∀ a b : Nat, a < tierEnd false → b < tierEnd false → taLoc a = taLoc b → a / 32 = b / 32) ∧
  (∀ o : Nat, o < tierEnd false → taOffset (taLoc o).1.val (taLocal o) = o ∧ (taLoc o).1.val < 32 ∧ taLocal o < 2 ^ 31) ∧
  (∀ row col k c i d : Nat, row < 2 ^ 23 * 14 → col < 2 ^ 23 * 14 → k < 8 → i < 8 → c < 8 → d < 8 →
    tbBlock row k c = tbBlock col i d → row = col ∧ k = i ∧ c = d) ∧
  (∀ row k i : Nat, k < 8 → i < 8 → (tbBlock row k 0).1 = (tbBlock row i 0).1 → k = i) ∧
  (∀ row k c : Nat, k < 8 → c < 8 → 32 ≤ (tbBlock row k c).1.val ∧
    tbRowOf (tbBlock row k c).1.val ((tbBlock row k c).2 / 8) = row) ∧
  (∀ (r q : RaceId) (c d : Fin 46) (x y i j : Nat), x < 2 ^ 29 → y < 2 ^ 29 → i < 32 → j < 32 →
    burstAddr r c x + i = burstAddr q d y + j → r = q ∧ c = d ∧ x = y ∧ i = j)

/-- R205, R207, R212: what is written to a tier of a race whose channels serve is what is read there afterwards, in
either tier and at any length, and no byte of that tier outside the range changes. -/
def Obligations.ReadAfterWrite : Prop :=
  ∀ (s : State) (r : RaceId) (tierB : Bool) (off : Nat) (bs : List Byte),
    memWf s.mem = true → healthy s.races[r].mem = true → off + bs.length ≤ tierEnd tierB →
    ∃ t, s.writeAt r tierB off bs = (t, .ok []) ∧ t.races = s.races ∧ { t with mem := s.mem } = s ∧
      t.readSpan { race := r, tierB := tierB, off := off, len := bs.length } false = (t, .ok bs) ∧
      (∀ a n, a + n ≤ tierEnd tierB → (a + n ≤ off ∨ off + bs.length ≤ a) → ∃ got,
        s.readSpan { race := r, tierB := tierB, off := a, len := n } false = (s, .ok got) ∧
        t.readSpan { race := r, tierB := tierB, off := a, len := n } false = (t, .ok got))

/-- R227 to R231: every code word has zero syndromes, a word as stored is good, and any one wrong byte of its 36 is
found and corrected; a read of such a word delivers the data and counts one corrected word of the channel. -/
def Obligations.CodeWords : Prop :=
  (∀ data : List Byte, data.length = 32 →
    let c := (rsEncode data).map (·.toNat)
    let off := List.replicate 32 0 ++ [0xC3, 0x3C, 0xC3, 0x3C]
    ∀ k, k < 4 → gfEval (gfPow k) (List.zipWith (· ^^^ ·) c off) = 0) ∧
  rsDecode 0 = .good ∧
  (∀ i y, i < 36 → 0 < y → y < 256 → rsDecode (rsByte i y) = .corr 1 (rsByte i y)) ∧
  (∀ (s : State) (r : RaceId) (ch : Fin 46) (b i y : Nat), s.races[r].mem.lost ch = false → i < 36 → 0 < y → y < 256 →
    s.races[r].mem.err ch b = rsByte i y → BitVec.ofNat 29 b ∉ (s.races[r].mem.chans[ch]).remap →
    ∃ t, s.readBurst r ch b true = (t, some (s.stored r ch b)) ∧
      (t.races[r].mem.chans[ch]).corr = satInc (s.races[r].mem.chans[ch]).corr ∧ t.mem = s.mem)

/-- R213, R215, R220: a channel that is lost is marked in its tier and never heals of itself, its loss is event 0x04 or
0x05 of the race's tenant, a second one of the tier puts the race out of service, and no byte of memory changes. R216 to
R218, R222, R223, R239, R248: the other commands of the memory. TA_FALLBACK takes the lowest lost channel into service
again; a rebuild of a lost tier B channel is requested, starts while the tenant is held, and ends with the channel
healthy; REFRESH changes nothing; the rate read is kept; the buckets leak; and a flip is armed or refused. R244 to R247: a
SCRUB item that runs to its end gives its counts to its commit; a clean range of a race whose channels serve counts its
words and nothing else, and changes nothing. -/
def Obligations.MemoryCommands : Prop :=
  (∀ (s : State) (r : RaceId) (tier : Tier) (k : Fin 32) (ch : Fin 46), tierChannel tier k = some ch →
     (s.races[r].mem.lost ch = true → exec (.channelLost r tier k) s = .next s) ∧
     (s.races[r].mem.lost ch = false → ∃ t, exec (.channelLost r tier k) s = .next t ∧ t.races[r].mem.lost ch = true ∧
       (∀ c, c ≠ ch → t.races[r].mem.lost c = s.races[r].mem.lost c) ∧
       (∀ q, q ≠ r → t.races[q].mem = s.races[q].mem) ∧ t.mem = s.mem ∧
       (∀ u, s.owner r = some u → ∃ e ∈ t.tenants[u].jnl.events,
         e.cls = (if tier = .a then 0x04 else 0x05) ∧ e.race = BitVec.ofNat 8 r.val ∧ e.index = BitVec.ofNat 16 k.val) ∧
       ((if tier = .a then s.races[r].mem.taLost ≠ 0 else s.races[r].mem.tbLost ≠ 0) → t.races[r].oos = true))) ∧
  (∀ (s : State) (r : RaceId),
     let x := s.races[r]
     let m := x.mem
     let mem (y : RaceMem) (t : State) : Prop := OnlyRace r s { x with mem := y } t
     (∀ ch, ch < 32 → m.taLost.getLsbD ch = true → (∀ c, c < ch → m.taLost.getLsbD c = false) → m.fbActive = false →
       ∃ t, exec (.taFallback r) s = .next t ∧ t.races[r].mem.fbActive = true ∧ t.races[r].mem.fbRestored = true ∧
         t.races[r].mem.fbChannel = BitVec.ofNat 5 ch) ∧
     (∀ ch, ∃ t, exec (.rebuildReq r ch) s = .next t ∧ mem { m with tbChannel := ch, tbPending := m.tbLost.getLsbD ch.toNat } t) ∧
     (∀ ch : Fin 14, m.tbPending = true → s.raceHeld r = true → s.boundary = true → m.tbChannel.toNat = ch.val →
       (∃ t, exec (.rebuildStart r true) s = .next t ∧ mem { m with tbPending := false, rebuilding := some ch, slots := 0 } t) ∧
       (∃ t, exec (.rebuildStart r false) s = .next t ∧ mem { m with tbPending := false, retrainFail := true } t)) ∧
     (∀ (ch : Fin 14) s', m.rebuilding = some ch → s.rebuildRows r (32 + ch.val) = (s', true) →
       ∃ t, exec (.rebuildDone r) s = .next t ∧ t.mem = s'.mem ∧ t.races[r].mem.rebuilding = none ∧
         t.races[r].mem.rebuildDone = true ∧ t.races[r].mem.tbLost.getLsbD ch.val = false ∧
         (∀ c : Fin 14, c ≠ ch → t.races[r].mem.tbLost.getLsbD c.val = s'.races[r].mem.tbLost.getLsbD c.val)) ∧
     (∀ tier, exec (.refresh r tier) s = .next s) ∧
     (∀ ch (rate : BitVec 2), rate ≠ 3 → ∃ t, exec (.refreshRateRead r ch rate) s = .next t ∧
       mem { m with chans := m.chans.set ch { m.chans[ch] with rate := rate }, derateSeen := m.derateSeen || rate = 2 } t) ∧
     (∃ t y, exec (.bucketLeak r) s = .next t ∧ mem { m with chans := y } t ∧
       ∀ c : Fin 46, y[c] = { m.chans[c] with level := m.chans[c].level - if m.chans[c].level = 0 then 0 else 1 }) ∧
     (∀ ch, ∃ t, exec (.arm r false ch) s = .next t ∧ mem { m with flipCh := ch, arm := false } t) ∧
     (∀ ch, s.armOk r ch = true → ∃ t, exec (.arm r true ch) s = .next t ∧ mem { m with flipCh := ch, arm := true } t) ∧
     (∀ ch, s.armOk r ch = false → ∃ t, exec (.arm r true ch) s = .next t ∧
       t.races[r].mem = { m with flipCh := ch, arm := false, refused := true } ∧ t.start.errSet = true)) ∧
  (∀ (s : State) (id : Nat) (i : Item) (r : RaceId) (tierB : Bool) (start : Nat), Works s id 0x60 i →
     devAddr (dF i.line 0x10 8) = some (r, tierB, start) →
     let rg := i.range (dF i.line 0x18 8)
     let rewrite := bitOf (dF i.line 0x20 1) 0
     let out := s.scrubPart i.tenant r tierB start (start + rg.1) (start + rg.1 + rg.2) rewrite
     exec (.scrub id) s = .next (out.1.endItem id 0 0 [.scrub out.2.counts]) ∧
     (tierB = false → healthy s.races[r].mem = true → ∃ t, exec (.scrub id) s = .next t ∧
       ItemLeft s id (ended i 0 0 [.scrub (rg.2 / 32 :: List.replicate 10 0)]) t))

-- ## The Afdun link and the rings

/-- R251 to R257: training. A half-direction of a half that is On gets the width that its good lanes allow, a quad with a
bad lane left out; one whose half is not On has none; a retrain asked for runs at the boundary with every race held; a
lane lost leaves its quad out for good and counts a retrain; a link that falls below four lanes each way is down, with its
event. Only the link, the log and the event journals change. -/
def Obligations.LinkTraining : Prop :=
  ∀ (s : State) (lanes : Vector Byte 4),
    let trained (i : Instr) : Prop := ∃ t, exec i s = .next t ∧
      (∀ h : Fin 4, t.link.width[h] = if s.halfOn h then widthOf lanes[h] else 0) ∧
      (∀ h : Fin 4, s.halfOn h = true → t.link.laneFail[h] = ~~~lanes[h]) ∧
      (t.link.down = !t.link.up) ∧ { t with link := s.link, mgmt := s.mgmt } = s
    trained (.fullTraining lanes) ∧
    (s.link.up = false → trained (.linkTrainingRetry lanes)) ∧
    (s.link.retrainPend = true → s.allHeld = true → s.boundary = true → trained (.linkRetrainStart lanes)) ∧
    (∃ t, exec .retrainReq s = .next t ∧ t = { s with link := { s.link with retrainPend := true } }) ∧
    (s.link.up = false → s.link.down = false → ∃ t, exec .linkDown s = .next t ∧ t.link.down = true ∧
      t.link.downEvent = true ∧ { t with link := s.link, mgmt := s.mgmt } = s) ∧
    (s.link.up = true → exec .linkDown s = .next s) ∧
    (∀ (d : HalfDir) (good : Byte), let h := halfIndex d
      s.link.width[h] ≠ 0 → ∃ t, exec (.laneLoss d good) s = .next t ∧
        t.link.width[h] = widthOf (good &&& ~~~s.link.laneFail[h]) ∧
        t.link.laneFail[h] = (~~~good ||| s.link.laneFail[h]) ∧ t.link.retrainCnt = satInc s.link.retrainCnt ∧
        (∀ k, k ≠ h → t.link.width[k] = s.link.width[k] ∧ t.link.laneFail[k] = s.link.laneFail[k]) ∧
        t.races = s.races ∧ t.mem = s.mem ∧ t.tick = s.tick)

/-- Table 10-3, R258 to R261: what the device puts on the link. A transaction that may leave goes out in flits of 15 slots
with a valid CRC, in sequence, kept until acknowledged, and draws its slots from its channel's credits; a later request
never leaves before an earlier one. -/
def Obligations.TransactionsLeave : Prop :=
  (∀ (s : State) (tx : List (BitVec 128)), s.link.txq = [] → tx ≠ [] → tx.length ≤ 15 → s.link.maySend tx = true →
    let opc := slotOpc (tx.headD 0)
    ∃ f, (s.issue tx).link.out = s.link.out ++ [f] ∧ flitSeal f = f ∧ fld f.fseqW.toNat 12 4 = 0 ∧
      BitVec.ofNat 12 f.fseqW.toNat = s.link.txNext ∧ f.slots = tx ++ List.replicate (15 - tx.length) 0 ∧
      (s.issue tx).link.unacked = s.link.unacked ++ [(s.link.txNext, f.slots)] ∧
      (s.issue tx).link.txNext = s.link.txNext + 1 ∧ (s.issue tx).link.txq = [] ∧
      (s.issue tx).link.reqCr = s.link.reqCr - (if opc < 0x20 then tx.length else 0) ∧
      (s.issue tx).link.snpCr = s.link.snpCr - (if opc = 0x20 then tx.length else 0) ∧
      { s.issue tx with link := s.link } = s) ∧
  (∀ (s : State) (tx : List (BitVec 128)), s.link.txq = [] → s.link.maySend tx = false →
    s.issue tx = { s with link := { s.link with txq := [tx] } }) ∧
  (∀ (l : Link) (a b : List (BitVec 128)), l.txq = [a, b] → l.maySend a = false →
    slotOpc (a.headD 0) < 0x20 → slotOpc (b.headD 0) < 0x20 → l.pump.txq = [a, b] ∧ l.pump.out = l.out)

/-- R258, R259: FLIT_RECEIVE. A flit with a wrong CRC is counted, asks for the replay and delivers nothing; an
acknowledgement empties the replay buffer up to its sequence; a data flit in sequence is taken, its transaction has the
effect of the command that it carries, and it is acknowledged; a repeated data flit delivers nothing. -/
def Obligations.FlitsArrive : Prop :=
  ∀ (s : State) (half : Bool) (f : Flit), s.link.rxOn half = true →
    (flitSeal f ≠ f → ∃ t l, exec (.flitReceive half f) s = .next t ∧ t = { s with link := l } ∧
      l.crcCnt = satInc s.link.crcCnt ∧ l.rxNext = s.link.rxNext ∧ l.replay = true ∧ l.rxHeld = [] ∧
      ∃ g, l.out = s.link.out ++ [g] ∧ bitOf g.ackW.toNat 13 = true ∧ flitSeal g = g) ∧
    (flitSeal f = f → fld f.fseqW.toNat 12 4 = 1 → f.ackW = 0 → s.link.txq = [] →
      ∃ t, exec (.flitReceive half f) s = .next t ∧
        t = { s with link := { s.link with reqCr := s.link.reqCr + f.crReq.toNat, snpCr := s.link.snpCr + f.crSnp.toNat } }) ∧
    (∀ (n : BitVec 12) (a b : List (BitVec 12 × List (BitVec 128))) x, flitSeal f = f → fld f.fseqW.toNat 12 4 = 1 →
      f.ackW = BitVec.ofNat 16 (n.toNat + 2 ^ 12) → s.link.unacked = a ++ (n, x) :: b → (∀ p ∈ a, p.1 ≠ n) →
      s.link.txq = [] → s.link.hostLines = [] →
      ∃ t, exec (.flitReceive half f) s = .next t ∧ t.link.unacked = b) ∧
    (flitSeal f = f → f.fseqW = BitVec.ofNat 16 s.link.rxNext.toNat → f.ackW = 0 → f.crReq = 0 → f.crSnp = 0 →
      s.link.txq = [] → s.link.rxHeld = [] → s.link.rxPart = [] → s.link.replay = false → ∀ h : BitVec 128,
      f.slots = h :: List.replicate 14 0 → slotLen h = 0 →
      let tag := BitVec.ofNat 12 (fld h.toNat 16 12)
      let addr := BitVec.ofNat 64 (fld h.toNat 64 64)
      let s1 := { s with link := { s.link with rxNext := s.link.rxNext + 1 } }
      let carries (c : Instr) : Prop := ∃ t u, exec (.flitReceive half f) s = .next t ∧ exec c s1 = .next u ∧
        (t = u ∨ t = { u with link := u.link.idle false })
      (slotOpc h = 0x03 → carries (.dbRd tag addr)) ∧
      (slotOpc h = 0x20 → carries (.snpInv tag addr))) ∧
    (flitSeal f = f → fld f.fseqW.toNat 12 4 = 0 → f.ackW = 0 → f.crReq = 0 → f.crSnp = 0 → s.link.txq = [] →
      2048 ≤ (BitVec.ofNat 12 f.fseqW.toNat - s.link.rxNext).toNat →
      ∃ t, exec (.flitReceive half f) s = .next t ∧ t = { s with link := s.link.idle false })

/-- R268, R446, R447, R472, Table 10-4: the host's configuration requests, a snoop, and the device's own reads and writes.
A request that breaks a rule receives UR; a write takes effect before its completion; a snoop takes the line out of every
partition of the link cache. R264, R273, Table 10-6: the answers to the device's reads. Data of a ring line reaches the
link cache of its tenant; POISON and a missing answer stop the ring, or the item with its status; an unknown tag is only
an event. -/
def Obligations.LinkRequestsAndResponses : Prop :=
  (∀ (s : State) (tag : BitVec 12) (addr : W64) (be value : W32),
     let c1 := s.credit 8 1
     let c2 := s.credit 8 2
     (cfgAddr addr be = none → exec (.cfgRd tag addr be) s = .next (c1.sendCpl tag 1) ∧
       exec (.cfgWr tag addr be value) s = .next (c2.sendCpl tag 1)) ∧
     (∀ a, cfgAddr addr be = some a →
       a % 4 = 0 ∧ addr.toNat % 16 = 0 ∧ addr.toNat ≤ a ∧ a < addr.toNat + 16 ∧
       exec (.cfgRd tag addr be) s = .next ((c1.readReg a).1.sendCplData tag
         [BitVec.ofNat 128 ((c1.readReg a).2 * 2 ^ (8 * (a % 16)))]) ∧
       (c2.writeServed a = true → exec (.cfgWr tag addr be value) s = .next ((c2.writeReg a value.toNat).sendCpl tag 0)) ∧
       (c2.writeServed a = false → exec (.cfgWr tag addr be value) s = .next (c2.sendCpl tag 1))) ∧
     (s.link.txq = [] → s.link.maySend [txHeader 0x30 0 tag 0 0] = true → ∃ t, exec (.snpInv tag addr) s = .next t ∧
       (∀ u : TenantId, t.link.cache[u] = (s.link.cache[u]).filter (fun p => p.1.toNat / 64 ≠ addr.toNat / 64)) ∧
       t.link.txNext = s.link.txNext + 1 ∧ { t with link := s.link } = s) ∧
     (∀ data, hostChunk addr.toNat data.length = true →
       exec (.wrNc addr data) s = .next (s.issue (txHeader 0x13 data.length 0 0xFFFFFFFF addr.toNat :: data))) ∧
     (∀ data, hostChunk addr.toNat data.length = false → exec (.wrNc addr data) s = .next s) ∧
     (∀ (id : Nat) (i : Item) (n : Fin 17), s.item? id = some i → i.live = true → hostChunk addr.toNat n.val = true →
       sget? s.link.reqs s.link.nextTag.toNat = none → ∃ t, exec (.rdNc id addr n) s = .next t ∧
         sget? t.link.reqs s.link.nextTag.toNat = some (.itemRead id) ∧ t.link.nextTag = s.link.nextTag + 1 ∧
         { t with link := s.link } = s)) ∧
  (∀ (s : State) (tag : BitVec 12) (st : Byte) (data : List (BitVec 128)),
     (∀ t w a, sget? s.link.reqs tag.toNat = some (.ringRead t w a true) → s.serves t = true → s.link.hostLines = [] →
       (∃ u, exec (.cplData tag 0 data) s = .next u ∧ sget? u.link.reqs tag.toNat = none ∧
         (u.link.cache[t]).head? = some (a, BitVec.ofNat 512 (natLE (slotBytes data))) ∧
         (∀ v, v ≠ t → u.link.cache[v] = s.link.cache[v]) ∧ { u with link := s.link } = s) ∧
       (st ≠ 0 → ∃ u, exec (.cplData tag st data) s = .next u ∧ sget? u.link.reqs tag.toNat = none ∧
         u.races[s.lowest t].wrings[w].stop = 2 ∧ u.link.cache = s.link.cache) ∧
       (∃ u, exec (.cpl tag st) s = .next u ∧ sget? u.link.reqs tag.toNat = none ∧ u.races[s.lowest t].wrings[w].stop = 2) ∧
       (∃ u, exec (.hostTimeout tag) s = .next u ∧ sget? u.link.reqs tag.toNat = none ∧
         u.races[s.lowest t].wrings[w].stop = 3)) ∧
     (∀ id i, sget? s.link.reqs tag.toNat = some (.itemRead id) → s.item? id = some i → i.live = true →
       (st ≠ 0 → ∃ u, exec (.cplData tag st data) s = .next u ∧ ItemLeft (s.closeReq tag) id (stopped i 0x0F) u) ∧
       (∃ u, exec (.cplData tag 0 data) s = .next u ∧ u = s.closeReq tag) ∧
       (∃ u, exec (.hostTimeout tag) s = .next u ∧ ItemLeft (s.closeReq tag) id (stopped i 0x10) u)) ∧
     (∀ page, sget? s.link.reqs tag.toNat = some (.snoop page) → ∃ u, exec (.cpl tag st) s = .next u ∧ u = s.closeReq tag) ∧
     (sget? s.link.reqs tag.toNat = none → exec (.hostTimeout tag) s = .next s ∧
       (∃ u, exec (.cpl tag st) s = .next u ∧ { u with mgmt := s.mgmt } = s) ∧
       (∃ u, exec (.cplData tag st data) s = .next u ∧ { u with mgmt := s.mgmt } = s)))

/-- R263, R269, R270, R272: the doorbell pages. DB_RD answers the line of the page; DB_WR of an assigned page takes the
newest producer or consumer value, refuses a stale one or one that overfills the ring with DB_ERR, and changes no other
ring; RD_SHARED asks for a ring line that the device does not hold. R272, R274, R454: ENABLE keeps a ring's settings and
is refused where no doorbell entry names the ring; CANCEL marks the ring of a tenant's lowest race, RESTART clears STOP,
and HLK_CLASS_CANCEL marks the classes. -/
def Obligations.DoorbellsAndRings : Prop :=
  (∀ (s : State) (tag : BitVec 12) (addr : W64) (be : W32) (value : W64),
     let page := addr.toNat / 4096
     let e := s.dbEntry page
     let v : W48 := value.setWidth 48
     (s.dbServed addr = true → exec (.dbRd tag addr) s = .next ((((s.credit 8 1).noteLine page (addr.toNat % 4096 / 64)).sendCplData
       tag (toSlots (s.dbLine page (addr.toNat % 4096 / 64)))))) ∧
     (s.dbServed addr = false → exec (.dbRd tag addr) s = .next ((s.credit 8 1).sendCpl tag 1) ∧
       exec (.dbWr tag addr be value) s = .next ((s.credit 8 2).sendCpl tag 1)) ∧
     (s.dbServed addr = true → dbValid e = true → addr.toNat % 4096 = 0 → fld be.toNat 0 16 = 0x00FF →
       ∀ r, s.ringRace (dbTenant e) = some r →
       (∀ w : Fin 64, dbKind e = false → dbRing e = w.val → let x := s.races[r].wrings[w]
         ∃ t, exec (.dbWr tag addr be value) s = .next t ∧ OnlyRace r (s.credit (dbTenant e).val 2) { s.races[r] with
           wrings := s.races[r].wrings.set w (if seqBefore v x.producer || decide (x.slots < (v - x.released).toNat)
             then { x with dbErr := true } else { x with producer := v }) } t) ∧
       (∀ c : Fin 16, dbKind e = true → dbRing e = c.val → let x := s.races[r].crings[c]
         ∃ t, exec (.dbWr tag addr be value) s = .next t ∧ OnlyRace r (s.credit (dbTenant e).val 2) { s.races[r] with
           crings := s.races[r].crings.set c (if seqBefore v x.consumed || seqBefore x.written v
             then { x with dbErr := true } else { x with consumed := v }) } t)) ∧
     (∀ (t : TenantId) (w : Fin 64) (seq : W48), let a := (s.wring t w).slotAddr seq
       s.serves t = true → s.link.cache[t].any (fun p => p.1 = a) = false → s.link.once[t].any (fun p => p.1 = a) = false →
       s.link.up = true → s.link.reqs = [] → ∃ u, exec (.rdShared t w seq) s = .next u ∧
         sget? u.link.reqs s.link.nextTag.toNat = some (.ringRead t w a true) ∧ { u with link := s.link } = s) ∧
     (∀ (t : TenantId) (w : Fin 64) (seq : W48), s.link.cache[t].any (fun p => p.1 = (s.wring t w).slotAddr seq) = true →
       exec (.rdShared t w seq) s = .next s)) ∧
  (∀ (s : State) (r : RaceId) (w : Fin 64) (c : Fin 16) (on : Bool),
     let x := s.races[r].wrings[w]
     let y := s.races[r].crings[c]
     let work (z : WorkRing) (t : State) : Prop := OnlyRace r s { s.races[r] with wrings := s.races[r].wrings.set w z } t
     let comp (z : CompRing) (t : State) : Prop := OnlyRace r s { s.races[r] with crings := s.races[r].crings.set c z } t
     ((on = false ∨ s.dbNames r false w.val x.page.toNat = true) →
       ∃ t, exec (.enable r (.work w) on) s = .next t ∧ work { x with enable := on } t) ∧
     ((on = false ∨ s.dbNames r true c.val y.page.toNat = true) →
       ∃ t, exec (.enable r (.comp c) on) s = .next t ∧ comp { y with enable := on } t) ∧
     (s.dbNames r false w.val x.page.toNat = false → ∃ t, exec (.enable r (.work w) true) s = .next t ∧
       t.races = s.races ∧ t.start.errSet = true ∧ t.link = s.link ∧ t.tenants = s.tenants) ∧
     (∀ u, s.owner r = some u → s.lowest u = r →
       ∃ t, exec (.cancel r w) s = .next t ∧ work { x with cancel := true } t) ∧
     (s.owner r = none → exec (.cancel r w) s = .next s) ∧
     (∃ t, exec (.restart r w) s = .next t ∧ t.races[r] = { s.races[r] with wrings := s.races[r].wrings.set w { x with stop := 0 } } ∧
       (∀ q, q ≠ r → t.races[q] = s.races[q]) ∧ { t with races := s.races, link := s.link } = s) ∧
     (∀ u classes, ∃ t, exec (.hlkClassCancel u classes) s = .next t ∧
       OnlyTenant u s { s.tenants[u] with classCancel := s.tenants[u].classCancel ||| classes } t))

-- ## Weir

/-- R289, R291, R293 to R298, R303: the sender's side. WEIR_SEND is refused for an unknown peer or a range that the tenant
cannot reach; a message of one packet from the host leaves with the next message number; WEIR_REG draws a tag; ACK, COMPLETE
and STATUS move the message that they name, and the timers send again or end it after eight tries. -/
def Obligations.WeirSending : Prop :=
  (∀ (s : State) (id : Nat) (i : Item) (host : List Byte),
    let u := i.tenant
    let dest := BitVec.ofNat 16 (dF i.line 0x1E 2)
    let len := dF i.line 0x18 4
    (∀ d, Works s id 0x70 i → s.desc? u i.ring i.seq = some d → d.done = false →
      (s.net.peer? dest = none ∨ dest = s.net.moduleId →
        ∃ t, exec (.weirSend id host) s = .next t ∧ ItemLeft s id (stopped i 0x4A) t) ∧
      ((s.net.peer? dest).isSome = true → dest ≠ s.net.moduleId → dF i.line 0x1C 1 = 0 →
        s.reach u (dF i.line 0x10 8 + (i.range len).1) (i.range len).2 = none →
        ∃ t, exec (.weirSend id host) s = .next t ∧ ItemLeft s id (stopped i 0x06) t) ∧
      (∀ x, (s.net.peer? dest).isSome = true → dest ≠ s.net.moduleId → dF i.line 0x1C 1 = 1 → len ≤ 4096 → i.first = 0 →
        i.gran = 1 → s.descSend? u i.ring i.seq = none → s.tenants[u].weir.sends.length < 512 →
        (∀ m ∈ s.tenants[u].weir.sends, m.seq ≠ s.net.counter) → pathAt (s.pathsTo dest) 0 0 = some x →
        ∃ t, exec (.weirSend id host) s = .next t ∧ t.item? id = some (ended i 0 0 [.weirSend s.net.counter]) ∧
          t.net = { s.net with counter := s.net.counter + 1, out := s.net.out ++ [.weir (Fin.ofNat 8 (x / 16)) (BitVec.ofNat 4 x)
            dest (weirPacket (msgHdr 0 1 0 s.net.moduleId s.net.counter s.net.epoch (BitVec.ofNat 32 (dF i.line 0x20 4))
              (BitVec.ofNat 32 len) (BitVec.ofNat 64 (dF i.line 0x28 8)) 0) (padTo len host))] } ∧ t.mem = s.mem)) ∧
    (∀ st, Works s id 0x71 i → s.regRefusal u i.cls = some st →
      ∃ t, exec (.weirReg id) s = .next t ∧ ItemLeft s id (stopped i st) t) ∧
    (∀ tag rest, Works s id 0x71 i → s.regRefusal u i.cls = none →
      (s.reach u (dF i.line 0x10 8) (dF i.line 0x18 8)).isSome = true → s.tenants[u].values = tag :: rest →
      s.tagUsed tag = false → ∃ t, exec (.weirReg id) s = .next t ∧ t.tenants[u].values = rest ∧
        t.item? id = some (ended i 0 0 [.window tag (BitVec.ofNat 64 (dF i.line 0x10 8)) (BitVec.ofNat 64 (dF i.line 0x18 8))
          (BitVec.ofNat 16 (dF i.line 0x20 2)) (bitOf (dF i.line 0x22 1) 0) (bitOf (dF i.line 0x22 1) 1)
          (BitVec.ofNat 4 (dF i.line 0x23 1)) i.cls])) ∧
    (Works s id 0x72 i → ∃ t, exec (.weirRevoke id) s = .next t ∧
      ItemLeft s id (ended i 0 0 [.revoke (BitVec.ofNat 32 (dF i.line 0x10 4))]) t)) ∧
  (∀ (s : State) (port : PortId) (p : WeirPkt) (u : TenantId) (m : Send),
    s.sendFor p.hdr (natBE (bytesAt p.body 0 2)) = some (u, m) →
    let w := s.tenants[u].weir
    let set (f : Send → Send) : WeirT := { w with sends := w.sends.map (fun k => if k.seq = m.seq then f k else k) }
    let done (st code sub : Byte) (k : Send) : Send := { k with done := true, status := st, code := code, sub := sub }
    let code := BitVec.ofNat 8 (natBE (bytesAt p.body 2 1))
    (Arrives s port p 1 → p.hdr.restart.toNat = m.restarts.toNat → m.again = 0 → ∃ t, exec (.ack port p) s = .next t ∧
      OnlyWeir u s (set (fun k => k.ack (natBE (bytesAt p.body 4 4)) (bytesAt p.body 12 32)
        (bitOf (natBE (bytesAt p.body 2 1)) 0) (BitVec.ofNat 32 (natBE (bytesAt p.body 8 4))))) t) ∧
    (Arrives s port p 2 → ∃ t, exec (.complete port p) s = .next t ∧ t.tenants[u].weir = set (done 0 0 0) ∧
      { t with net := s.net, tenants := s.tenants } = s) ∧
    (Arrives s port p 4 → code.toNat ∈ [0x23, 0x24, 0x2E, 0x2F, 0x40, 0x41, 0x42, 0x43, 0x45] →
      ∃ t, exec (.status port p) s = .next t ∧
        t.tenants[u].weir = set (done 0x49 code (BitVec.ofNat 8 (natBE (bytesAt p.body 3 1)))) ∧ t.mem = s.mem) ∧
    (Arrives s port p 4 → code = 0x44 → m.restarts = 15 → ∃ t, exec (.status port p) s = .next t ∧
      OnlyWeir u s (set (done 0x4B 0 0)) t) ∧
    (Arrives s port p 4 → code = 0x44 → m.restarts ≠ 15 → p.hdr.restart.toNat ≤ m.restarts.toNat →
      exec (.status port p) s = .next s)) ∧
  (∀ (m : Send) (cum : Nat) (bits : List Byte) (all : Bool) (us : W32) (k : Nat), k < m.packets →
    ((m.ack cum bits all us).isAcked k = true ↔ m.isAcked k = true ∨ k < cum ∨
      (k < cum + 256 ∧ bitOf (bits.getD ((k - cum) / 8) 0).toNat ((k - cum) % 8) = true))) ∧
  (∀ (s : State) (u : TenantId) (seq : W48) (m : Send), s.send? u seq = some m → m.done = false → m.fromHost = true →
    m.round = none →
    (m.all = false → m.missing ≠ [] → 8 ≤ m.tries → ∃ t y, exec (.retransmitTimeout u seq) s = .next t ∧
      t.send? u seq = some y ∧ y.done = true ∧ y.status = 0x48) ∧
    (m.all = false → m.missing ≠ [] → m.tries < 8 → ∃ t y, exec (.retransmitTimeout u seq) s = .next t ∧
      t.send? u seq = some y ∧ y.tries = m.tries + 1 ∧ y.done = false ∧ y.cum = m.cum ∧
      (∀ k ∈ m.missing, sget y.retx k 0 = sget m.retx k 0 + 1)) ∧
    (m.all = true → 7 ≤ m.waits → ∃ t y, exec (.completeWaitTimeout u seq) s = .next t ∧
      t.send? u seq = some y ∧ y.done = true ∧ y.status = 0x48) ∧
    (m.all = true → m.waits < 7 → ∃ t y, exec (.completeWaitTimeout u seq) s = .next t ∧
      t.send? u seq = some y ∧ y.waits = m.waits + 1 ∧ y.done = false))

/-- R287, R291, R299 to R302: the receiver's side. A malformed packet is only counted; DATA is answered or accepted by the
rule's order of checks; PACKET_PLACE moves the oldest accepted packet to its place; CLOSE, ABORT and the timers free
entries and windows. -/
def Obligations.WeirReceiving : Prop :=
  (∀ (s : State) (port : PortId) (p : WeirPkt) (c : Instr),
    c ∈ [.data port p, .ack port p, .complete port p, .close port p, .status port p, .abort port p, .probe port p,
      .probeReply port p] →
    (s.net.portOn port = false → exec c s = .next s) ∧
    (s.net.portOn port = true → pktOk p = false →
      exec c s = .next { s with net := { s.net with malformed := satInc s.net.malformed } })) ∧
  (∀ (s : State) (port : PortId) (p : WeirPkt), Arrives s port p 0 →
    let h := p.hdr
    let rs := BitVec.ofNat 4 h.restart.toNat
    (s.tagWindow h.tag = none → exec (.data port p) s = .next { s with net := { s.net with unknownTag := satInc s.net.unknownTag } }) ∧
    (∀ u ix w, s.tagWindow h.tag = some (u, ix, w) →
      let x := s.tenants[u].weir
      let e : Reasm := { key := pktKey h, port := port, window := BitVec.ofNat 13 ix, len := h.msgLen, base := h.msgBase,
                         tag := h.tag, restart := rs }
      (w.revoked.isSome = true ∨ w.pending.isSome = true → exec (.data port p) s = .next (s.status h rs 0x40 0)) ∧
      (w.revoked = none → w.pending = none →
        (w.any = false → w.peer ≠ h.sender → exec (.data port p) s = .next (s.status h rs 0x42 0)) ∧
        (w.any = true ∨ w.peer = h.sender → s.reasm? u (pktKey h) = none →
          (pktKey h ∈ x.dups → s.net.age h.epoch < 9 → exec (.data port p) s = .next (s.sendComplete h rs)) ∧
          (pktKey h ∉ x.dups → s.stale u h = true → exec (.data port p) s = .next (s.status h rs 0x43 0)) ∧
          (pktKey h ∉ x.dups → s.stale u h = false → bitOf h.flags.toNat 0 = false →
            exec (.data port p) s = .next (s.status h (BitVec.ofNat 4 (min 15 (h.restart.toNat + 1))) 0x44 0)) ∧
          (pktKey h ∉ x.dups → s.stale u h = false → bitOf h.flags.toNat 0 = true → w.round = none →
            (w.length.toNat < h.msgBase.toNat + h.msgLen.toNat → exec (.data port p) s = .next (s.status h rs 0x41 0)) ∧
            (h.msgBase.toNat + h.msgLen.toNat ≤ w.length.toNat → 2 ^ 21 < x.buffered + p.body.length →
              ∃ t, exec (.data port p) s = .next t ∧ OnlyWeir u s { x with bufFull := satInc x.bufFull } t) ∧
            (h.msgBase.toNat + h.msgLen.toNat ≤ w.length.toNat → x.buffered + p.body.length ≤ 2 ^ 21 →
              x.reasm.length < 512 → s.dupsFull u = false → h.pktIndex.toNat < 256 →
              ∃ t, exec (.data port p) s = .next t ∧
                OnlyWeir u s { x with reasm := x.reasm ++ [e.accept h.pktIndex.toNat p.body] } t)))))) ∧
  (∀ (s : State) (u : TenantId) (e : Reasm) (w : WWin) (k : Nat) (bs : List Byte) (rest) (xs : List Span) (s' : State) (b),
    s.tenants[u].weir.reasm.find? (fun e => !e.buffer.isEmpty) = some e → e.buffer = (k, bs) :: rest →
    sget? s.tenants[u].weir.windows e.window.toNat = some w → w.round = none →
    spansOf (w.base.toNat + e.base.toNat + 4096 * k) bs.length = some xs →
    (s.modReasm u e.key (fun e => { e with buffer := rest })).writeSpans xs bs = (s', .ok b) →
    ∃ t, exec (.packetPlace u) s = .next t ∧ t.mem = s'.mem ∧
      t.tenants[u].weir.reasm = s'.tenants[u].weir.reasm.map (fun r => if r.key = e.key then
        (if e.placed + bs.length = e.len.toNat then { r with placed := r.placed + bs.length, complete := true, landed := true }
         else { r with placed := r.placed + bs.length }) else r)) ∧
  (∀ (s : State) (port : PortId) (p : WeirPkt) (u : TenantId) (e : Reasm), s.entryOf (pktKey p.hdr) = some (u, e) →
    let x := s.tenants[u].weir
    let gone := x.reasm.filter (fun r => r.key ≠ e.key)
    (Arrives s port p 3 → e.sentComplete = true → ∃ t, exec (.close port p) s = .next t ∧
      OnlyWeir u s { x with reasm := gone, dups := if s.net.age e.key.epoch ≤ 8 then x.dups ++ [e.key] else x.dups } t) ∧
    (Arrives s port p 3 → e.sentComplete = false → exec (.close port p) s = .next s) ∧
    (Arrives s port p 5 → e.all = false → e.complete = false → ∃ t, exec (.abort port p) s = .next t ∧
      OnlyWeir u s { x with reasm := gone, unclaim := t.tenants[u].weir.unclaim } t)) ∧
  (∀ (s : State) (u : TenantId) (k : MsgKey) (e : Reasm), s.reasm? u k = some e →
    let x := s.tenants[u].weir
    let gone := x.reasm.filter (fun r => r.key ≠ e.key)
    (e.unreported ≠ 0 → e.sentComplete = false → exec (.ackDue u k) s =
      .next ((s.sendAck e).modReasm u k (fun e => { e with unreported := 0 }))) ∧
    (e.sentComplete = false → e.complete = false → ∃ t, exec (.reassemblyTimeout u k) s = .next t ∧
      OnlyWeir u s { x with reasm := gone, unclaim := t.tenants[u].weir.unclaim } t) ∧
    (e.sentComplete = true → ∃ t, exec (.reassemblyTimeout u k) s = .next t ∧
      OnlyWeir u s { x with reasm := gone, dups := if s.net.age e.key.epoch ≤ 8 then x.dups ++ [e.key] else x.dups } t)) ∧
  (∀ (s : State) (u : TenantId) (ix : BitVec 13), let x := s.tenants[u].weir
    (∃ t, exec (.duplicateWindowExpire u) s = .next t ∧
      OnlyWeir u s { x with dups := x.dups.filter (fun k => s.net.age k.epoch < 9) } t) ∧
    (∀ w e, sget? x.windows ix.toNat = some w → w.revoked = some e →
      (16 ≤ s.net.age e → ∃ t, exec (.windowFree u ix) s = .next t ∧
        OnlyWeir u s { x with windows := sdel x.windows ix.toNat } t) ∧
      (s.net.age e < 16 → exec (.windowFree u ix) s = .next s)))

/-- R281, R285, R286, R307 to R309, R448: discovery, probes, ports and time. Each changes the network block only, and a
path or port that goes down is an event of every tenant in service. -/
def Obligations.PathsAndTime : Prop :=
  ∀ (s : State), let n := s.net
    let net (y : Net) (t : State) : Prop := t = { s with net := y }
    let lost (port : PortId) : Event := { cls := 0x23, detail := 0x0A, part := 4, index := BitVec.ofNat 16 port.val }
    (∀ port p, Arrives s port p 7 → ∃ t, exec (.probe port p) s = .next t ∧ net { n with out := n.out ++ [.weir port
      (BitVec.ofNat 4 (natBE (bytesAt p.body 0 1))) p.hdr.sender (weirPacket (msgHdr 8 0 0 n.moduleId 0 0 0 0 0 0) p.body)] } t) ∧
    (∀ port p e q path, Arrives s port p 8 → let c := BitVec.ofNat 32 (natBE (bytesAt p.body 4 4))
      n.peers.find? (fun q => q.2.valid && q.2.id = p.hdr.sender && q.2.probes.any (fun x => x.2 = c)) = some (e, q) →
      sget? n.peers e = some q → q.probes.find? (fun x => x.2 = c) = some (path, c) →
      ∃ t y, exec (.probeReply port p) s = .next t ∧ { t with net := n } = s ∧ sget? t.net.peers e = some y ∧
        path ∈ y.up ∧ path ∉ y.down ∧ sget? y.missed path = none ∧ c ∉ y.probes.map (·.2)) ∧
    (∀ (peer : Fin 256) (port : PortId) (path : Fin 16) q, sget? n.peers peer.val = some q →
      let x := port.val * 16 + path.val
      (q.probes.any (fun y => y.1 = x) = true → sget q.missed x 0 = 2 → x ∉ q.down →
        ∃ t y, exec (.probeTimeout peer port path) s = .next t ∧ sget? t.net.peers peer.val = some y ∧ x ∈ y.down ∧ x ∉ y.up ∧
          (∀ u, s.serves u = true → t.tenants[u].jnl.events.getLast? = some (lost port))) ∧
      (q.probes.any (fun y => y.1 = x) = true → sget q.missed x 0 < 2 → ∃ t y, exec (.probeTimeout peer port path) s = .next t ∧
        { t with net := n } = s ∧ sget? t.net.peers peer.val = some y ∧ y.down = q.down ∧
        sget y.missed x 0 = sget q.missed x 0 + 1) ∧
      (x ∈ q.down → n.portOn port = true → ∃ t y, exec (.pathProbe peer port path) s = .next t ∧ { t with net := n } = s ∧
        sget? t.net.peers peer.val = some y ∧ (x, n.cookie) ∈ y.probes ∧ t.net.cookie = n.cookie + 1) ∧
      (q.valid = true → q.disc = true → ∃ t, exec (.stale peer) s = .next t ∧
        net { n with peers := sset n.peers peer.val { q with stale := true } } t)) ∧
    (∀ port b, n.boot = some b → n.portOn port = true → ∃ t, exec (.beaconTimer port) s = .next t ∧
      net { n with beacons := n.beacons.set port (min 5 (n.beacons[port] + 1)), out := n.out ++ [.beacon port none
        (weirPacket (msgHdr 6 0 0 n.moduleId 0 0 0 0 0 0) (n.beaconBody b port false))] } t) ∧
    (∀ port p v6 src, Arrives s port p 6 →
      let boot := BitVec.ofNat 32 (natBE (bytesAt p.body 4 4))
      (BitVec.ofNat 32 (natBE (bytesAt p.body 0 4)) ≠ n.site → exec (.beacon port p v6 src) s = .next s) ∧
      (∀ e q, BitVec.ofNat 32 (natBE (bytesAt p.body 0 4)) = n.site → p.hdr.sender ≠ n.moduleId →
        n.peer? p.hdr.sender = some (e, q) → sget? n.peers e = some q → ∃ t, exec (.beacon port p v6 src) s = .next t ∧
          net { n with peers := sset n.peers e { q with site := n.site, boot := boot, stale := false } } t) ∧
      (BitVec.ofNat 32 (natBE (bytesAt p.body 0 4)) = n.site → p.hdr.sender = n.moduleId → n.boot ≠ some boot →
        ∃ t, exec (.beacon port p v6 src) s = .next t ∧ t.net = { n with idConflict := true } ∧
          { t with net := n, mgmt := s.mgmt } = s) ∧
      (BitVec.ofNat 32 (natBE (bytesAt p.body 0 4)) = n.site → p.hdr.sender ≠ n.moduleId → n.peers = [] → n.boot = none →
        ∃ t y, exec (.beacon port p v6 src) s = .next t ∧ sget? t.net.peers 0 = some y ∧ y.valid = true ∧ y.disc = true ∧
          y.id = p.hdr.sender ∧ y.addr = (if v6 then src else src <<< 96) ∧ y.boot = boot ∧ { t with net := n } = s)) ∧
    (∀ (port : PortId) (up : Bool), port.val < n.portCount → n.ports[port].up ≠ up →
      ∃ t, exec (.portLinkChange port up) s = .next t ∧ t.net.ports = n.ports.set port { n.ports[port] with up := up } ∧
        t.net.beacons = (if up then n.beacons.set port 0 else n.beacons) ∧ (up = true → { t with net := n } = s) ∧
        (up = false → ∀ u, s.serves u = true → t.tenants[u].jnl.events.getLast? = some (lost port))) ∧
    (∀ (port : PortId) (off : W32), n.ptpEn = true → port.val = n.ptpPort.toNat → n.timeSrc = false → s.tick.source ≠ 2 →
      ∃ t y, exec (.ptpEventMessage port true off) s = .next t ∧ net y t ∧ y.ptpOffset = off ∧ y.time = n.time ∧
        y.ptpGood = (if -100 < off.toInt ∧ off.toInt < 100 then min 16 (n.ptpGood + 1) else 0) ∧
        (n.ptpGood = 15 → off = 0 → y.ptpLocked = true) ∧
        (n.ptpBad = 3 → 1000 < off.toInt → n.ptpGood < 16 → y.ptpLocked = false)) ∧
    (∀ value, n.timeSrc = false →
      let hi := n.timeHi.getD (BitVec.ofNat 32 (n.time.toNat / 2 ^ 32))
      ∃ t, exec (.netTimeWrite value) s = .next t ∧
        net { n with timeHi := none, time := BitVec.ofNat 64 (value.toNat + hi.toNat * 2 ^ 32) } t) ∧
    (∀ value, n.timeSrc = true → ∃ t, exec (.netTimeWrite value) s = .next t ∧ t.net = n ∧ t.start.errSet = true) ∧
    (∀ (port : PortId) (v6 : Bool) (target : BitVec 128),
      (n.ports[port].up = true → target = n.address v6 → ∃ t, exec (.arpRequest port false v6 target) s = .next t ∧
        net { n with out := n.out ++ [.address port false v6 (n.mac + BitVec.ofNat 48 port.val)] } t) ∧
      (target ≠ n.address v6 → exec (.arpRequest port false v6 target) s = .next s))

/-- R282, R283, R285, R287, Tables 11-1, 11-11, 11-13 and 11-16: the frame of a Weir packet to a peer, on a port and a path: the
next hop's and the port's own MAC address, the port's 802.1Q tag, an IPv4 header without options, with DF, or an IPv6 header,
with hop limit 64 and the DSCP, the module's and the peer's address, the path's UDP source port, UDP checksum 0 in IPv4 and one
that verifies, never 0, in IPv6, then the packet, at most 4,188 bytes at the IP layer; a beacon goes to the discovery group. -/
def Obligations.WeirFrames : Prop :=
  ∀ (n : Net) (port : PortId) (path : Nat) (p : Peer) (w : WeirPkt), w.body.length ≤ 4096 →
    let q := n.ports[port]
    let f := n.toPeer port path p w
    let l2 := if q.vlanEn then 18 else 14
    let ip := f.drop l2
    let u := ip.drop (if p.v6 then 40 else 20)
    let num (x : List Byte) (off len : Nat) : Nat := natBE (bytesAt x off len)
    num f 0 6 = q.nhMac.toNat ∧ num f 6 6 = (n.mac + BitVec.ofNat 48 port.val).toNat ∧
    (q.vlanEn = true → num f 12 2 = 0x8100 ∧ num f 14 2 = q.vlanId.toNat) ∧ ip.length ≤ 4188 ∧
    (p.v6 = false → num f (l2 - 2) 2 = 0x0800 ∧ num ip 0 1 = 0x45 ∧ num ip 1 1 = n.dscp.toNat * 4 ∧ num ip 2 2 = ip.length ∧
      num ip 6 2 = 0x4000 ∧ num ip 8 2 = 64 * 256 + 17 ∧ inetSum (ip.take 20) = 0 ∧ num ip 12 4 = n.addr4.toNat ∧
      num ip 16 4 = p.addr.toNat / 2 ^ 96 ∧ num u 6 2 = 0) ∧
    (p.v6 = true → num f (l2 - 2) 2 = 0x86DD ∧ num ip 0 4 = 6 * 2 ^ 28 + n.dscp.toNat * 2 ^ 22 ∧ num ip 4 2 = u.length ∧
      num ip 6 2 = 17 * 256 + 64 ∧ (∀ k : Fin 4, num ip (8 + 4 * k.val) 4 = (n.addr6[k]).toNat) ∧ num ip 24 16 = p.addr.toNat ∧
      num u 6 2 ≠ 0 ∧ inetSum (pseudo6 u.length (wide6 n.addr6) p.addr ++ u) = 0) ∧
    num u 0 2 = (n.srcBase.toNat + path) % 2 ^ 16 ∧ num u 2 2 = n.dstPort.toNat ∧ num u 4 2 = u.length ∧ u.drop 8 = weirBytes w ∧
    (∀ (dest : W16) (e : Nat) (x : BitVec 4), path = x.toNat → n.peer? dest = some (e, p) →
      n.frame (.weir port x dest w) = some f) ∧
    (∀ g, n.frame (.beacon port none w) = some g → (n.disc4 ≠ 0 → num g (l2 + 16) 4 = n.disc4.toNat) ∧
      (n.disc4 = 0 → ∀ k : Fin 4, num g (l2 + 24 + 4 * k.val) 4 = (n.disc6[k]).toNat))

-- ## Resets and spare mills

/-- R327, R328, R330 to R333, R474: a warm reset by the pin, or by the key at the boundary, leaves every mill idle, no tick
in progress and every hopper partition in SECDED mode, with the sequencer running where RUN is set, and is an event of every
tenant; a cold reset keeps the security MRAM's records; a race reset waits for the next tick begun; a spare takes the name
and the scratchpad of the retired mill. -/
def Obligations.ResetsAndSpares : Prop :=
  (∀ (s : State) (lanes : Vector Byte 4), s.pwr.alive = true → s.start.ready = true →
    (∃ t, exec (.warmReset .pin lanes) s = .next t ∧ t.warmDone = true ∧ t.tick.phase = .none ∧ t.tick.running = t.tick.run ∧
      t.tick.run = s.tick.run ∧ t.tick.warmReq = false ∧ (∀ m, (t.mill m).item = none ∧ (t.mill m).image = (s.mill m).image ∧
        (t.mill m).active = (s.mill m).active ∧ (t.mill m).seeds = (s.mill m).seeds) ∧
      (∀ p : Fin 17, t.hops[p].secded = true ∧ ∀ q ∈ t.hops[p].queues, q.2.depth = 0) ∧
      (∀ u : TenantId, t.serves u = true → ∃ e, t.tenants[u].jnl.events.getLast? = some e ∧ e.cls = 0x23 ∧ e.detail = 0x0D)) ∧
    ((s.boundary = false ∨ ∃ u : TenantId, s.tenants[u].jnl.marker = true) →
      ∃ t, exec (.warmReset .key lanes) s = .next t ∧ t = { s with tick := { s.tick with warmReq := true } }) ∧
    (s.boundary = true → (∀ u : TenantId, s.tenants[u].jnl.marker = false) →
      exec (.warmReset .key lanes) s = exec (.warmReset .pin lanes) s)) ∧
  (∀ (s : State) (su : StartUp), (s.pwr.alive = true → ∃ t, exec (.coldReset su) s = .next t ∧ t.pwr.alive = true ∧
      t.sec = s.sec ∧ t.start.ready = false ∧ t.start.step = 3 ∧ t.ctxs = [] ∧ (∀ u : TenantId, t.tenants[u].state = .free)) ∧
    (s.pwr.alive = false → exec (.coldReset su) s = .next s)) ∧
  (∀ (s : State) (r : RaceId), ∃ t, exec (.raceReset r) s = .next t ∧ OnlyRace r s { s.races[r] with resetReq := true } t) ∧
  (∀ (s : State) (r : RaceId) (k : Fin 24) (rest : List (Fin 24)) (readable : Bool), s.races[r].toMap = k :: rest →
    s.tick.running = true → s.boundary = true → (∀ u, s.owner r = some u → s.tenants[u].jnl.marker = false) →
    s.races[r].spareUse = false → s.races[r].spareBad = false →
    let p := (s.races[r].map[k]).toNat
    let q := (s.races[r].sparePos).toNat
    ∃ t, exec (.spareMap r readable) s = .next t ∧ t.races[r].map[k] = s.races[r].sparePos ∧
      (∀ j, j ≠ k → t.races[r].map[j] = s.races[r].map[j]) ∧ t.races[r].sparePos = s.races[r].map[k] ∧
      t.races[r].spareUse = true ∧ (t.mill ⟨r, k⟩).image = (s.mill ⟨r, k⟩).image ∧
      (∀ m, m ≠ ⟨r, k⟩ → t.mill m = s.mill m) ∧
      (readable = true → memWf s.mem = true → p ≠ q →
        (∀ off, off < 2 ^ 21 → memGet t.mem (t.spad ⟨r, k⟩ off) = memGet s.mem (s.spad ⟨r, k⟩ off)) ∧
        (∀ a, (a < scratchAddr r q 0 ∨ scratchAddr r q 0 + 2 ^ 21 ≤ a) → memGet t.mem a = memGet s.mem a)))

-- ## Tenants

/-- R336, R341 to R345, Tables 13-2 to 13-4: a tenant's life. ACTIVATE gives the code of the first check that fails; a
tenant whose checks hold owns its races alone; RELEASE of a held tenant leads through Releasing and the scrub, which leaves
no byte of the tenant in the on-die stores, back to Free. -/
def Obligations.TenantLifeCycle : Prop :=
  ∀ (s : State) (u : TenantId), let x := s.tenants[u]
    let here (y : Tenant) (t : State) : Prop := OnlyTenant u s y t
    (s.setupCheck u = 0 → contiguous x.races = true ∧ x.state = .configured ∧
      (∀ r, x.hasRace r = true → (s.owner r = none ∨ s.owner r = some u) ∧ s.races[r].oos = false)) ∧
    (s.setupCheck u ≠ 0 → ∃ t, exec (.activate u) s = .next t ∧ t.start.errSet = true ∧
      t.tenants[u] = { x with setupErr := BitVec.ofNat 4 (s.setupCheck u) } ∧ t.races = s.races ∧ t.mem = s.mem) ∧
    (s.setupCheck u = 0 → s.tick.running = true → ∃ t, exec (.activate u) s = .next t ∧ here { x with activating := true } t) ∧
    (s.setupCheck u = 0 → s.tick.running = false → ∃ t, exec (.activate u) s = .next t ∧
      t.tenants[u] = { x with state := .inService, activating := false, ending := false } ∧
      (∀ v, v ≠ u → t.tenants[v] = s.tenants[v]) ∧ t.races = s.races ∧ t.mem = s.mem) ∧
    (s.boundary = true → x.activating = true → (∀ v, v ≠ u → s.tenants[v].activating = false) →
      (s.setupCheck u = 0 → ∃ t, exec .inService s = .next t ∧
        t.tenants[u] = { x with state := .inService, activating := false, ending := false }) ∧
      (s.setupCheck u ≠ 0 → ∃ t, exec .inService s = .next t ∧
        here { x with activating := false, setupErr := BitVec.ofNat 4 (s.setupCheck u) } t)) ∧
    (s.boundary = false → exec .inService s = .next s) ∧
    (∀ force, (x.state = .inService → s.holding u = true →
        ∃ t, exec (.release u force) s = .next t ∧ here { x with state := .releasing, force := force } t) ∧
      (x.state = .inService → s.holding u = false → ∃ t, exec (.release u force) s = .next t ∧
        t.tenants[u] = { x with setupErr := 7 } ∧ t.start.errSet = true) ∧
      (x.state = .outOfService → ∃ t, exec (.release u force) s = .next t ∧
        here { x with state := .scrubbing, force := force, ending := true, permille := 0 } t) ∧
      (x.state = .free → ∃ t, exec (.release u force) s = .next t ∧ t.tenants[u] = { x with setupErr := 6 })) ∧
    (s.releaseDue u = true → ∃ t, exec (.releasingEnd u) s = .next t ∧ t.tenants[u].state = .scrubbing ∧
      t.tenants[u].descs = [] ∧ t.tenants[u].keys = [] ∧ t.tenants[u].models = [] ∧ t.tenants[u].values = [] ∧
      t.tenants[u].weir.reasm = [] ∧ t.tenants[u].weir.sends = [] ∧ (∀ i ∈ t.tick.items, i.tenant ≠ u) ∧
      t.link.cache[u] = [] ∧ (∀ c y, (c, Ctx.session y) ∈ t.ctxs → y.tenant ≠ u)) ∧
    (s.releaseDue u = false → exec (.releasingEnd u) s = .next s) ∧
    (x.state = .scrubbing → x.ending = false → s.boundary = true → memWf s.mem = true →
      ∃ t, exec (.tenantScrub u) s = .next t ∧ t.tenants[u].permille = 1000 ∧ t.tenants[u].state = .scrubbing ∧
        (∀ r, x.hasRace r = true → (∀ off, off < 25 * 2 ^ 21 → memGet t.mem (scratchAddr r 0 off) = 0) ∧
          (∀ off, off < 2 ^ 24 → memGet t.mem (bufferAddr r off) = 0) ∧ (∀ k, t.mill ⟨r, k⟩ = {})) ∧
        (∀ off, off < x.draftSize.toNat * mib → memGet t.mem (draftAddr (x.draftBase.toNat * mib + off)) = 0) ∧
        (∀ c, x.ctxBase.toNat ≤ c → c < x.ctxBase.toNat + x.ctxCount.toNat → sget? t.ctxs c = none)) ∧
    (x.state = .scrubbing → x.permille = 1000 → ∃ t, exec (.scrubDone u) s = .next t ∧ t.tenants[u].state = .free ∧
      t.tenants[u].races = 0 ∧ t.tenants[u].scrubDone = true ∧ t.mem = s.mem) ∧
    (∀ r, s.owner r = some u → x.state = .inService → s.races[r].oos = false →
      ∃ t, exec (.outOfService (.race r)) s = .next t ∧ t.races[r] = { s.races[r] with oos := true } ∧
        t.tenants[u].state = .outOfService ∧ (∃ e ∈ t.tenants[u].jnl.events, e.cls = 0x03) ∧
        (∀ v, v ≠ u → t.tenants[v] = s.tenants[v]) ∧ t.mem = s.mem)

-- ## Keys

/-- R355, R361, R366 to R370, R377, Table 14-12: the key descriptors. All are refused while the key service is locked or a
life-cycle state or transition forbids it; KEY_LOAD opens a blob into a free slot, KEY_UNLOAD empties a slot, KEY_GENERATE
and KEY_DERIVE make a key, write its blob and claim a cell where the descriptor asks, KEY_WRAP seals a loaded key,
KEY_INVALIDATE and KEY_CELL_FREE name a cell; and a blob opens under the key that sealed it. -/
def Obligations.KeyDescriptors : Prop :=
  (∀ (s : State) (id op : Nat) (i : Item) (c : Instr) (st : Byte), Works s id op i → s.keyGate = some st →
    (op = 0x80 ∧ (∃ host, c = .keyLoad id host) ∨ op = 0x81 ∧ c = .keyUnload id ∨ op = 0x82 ∧ c = .keyGenerate id ∨
      op = 0x83 ∧ c = .keyDerive id ∨ op = 0x84 ∧ c = .keyWrap id ∨ op = 0x85 ∧ c = .keyInvalidate id ∨
      op = 0x86 ∧ c = .keyCellFree id ∨ op = 0x89 ∧ (∃ nonce, c = .attest id nonce)) →
    ∃ t, exec c s = .next t ∧ ItemLeft s id (stopped i st) t) ∧
  (∀ s : State, (s.sec.locked = true → s.keyGate = some 0x87) ∧
    (s.sec.locked = false → s.sec.state = 0 ∨ s.sec.state = 3 ∨ s.sec.pending = true → s.keyGate = some 0x85) ∧
    (s.sec.locked = false → s.sec.state = 1 ∨ s.sec.state = 2 → s.sec.pending = false → s.keyGate = none)) ∧
  (∀ (s : State) (id : Nat) (i : Item), s.keyGate = none →
    let slot := dF i.line 0x10 2
    let u := i.tenant
    let leaves (c : Instr) (x : Item) : Prop := ∃ t, exec c s = .next t ∧ ItemLeft s id x t
    let makes (c : Instr) (n : Nat) (k : List Byte → Key) (nonce : List Byte → List Byte) : Prop :=
      ∀ cell, s.cellFor i = .ok cell → s.rng.fatal = false → s.rootGone u = false → s.slotFree u slot = true →
        dF i.line 0x14 1 = 1 → ∀ s' r, s.drawDevice n = (s', some r) → ∃ t, exec c s = .next t ∧
          ItemLeft (s'.hostWrite (dF i.line 0x18 8) (Key.blob { k r with cell := BitVec.ofNat 16 (cellWord cell) } (s.domainKey u) (nonce r))) id
            (ended i 0 ((k r).keyId.toNat + cellWord cell * 2 ^ 64)
              (.key slot (some { k r with cell := BitVec.ofNat 16 (cellWord cell) }) :: cell.toList.map Effect.cellClaim)) t
    (∀ host, Works s id 0x80 i →
      (s.slotFree u slot = false → leaves (.keyLoad id host) (stopped i 0x80)) ∧
      (s.slotFree u slot = true → dF i.line 0x14 1 = 1 →
        (∀ k, s.unwrap u (dF i.line 0x12 2) (padTo 128 host) = .ok k →
          leaves (.keyLoad id host) (ended i 0 k.keyId.toNat [.key slot (some k)])) ∧
        (∀ st, s.unwrap u (dF i.line 0x12 2) (padTo 128 host) = .error st → leaves (.keyLoad id host) (stopped i st)))) ∧
    (Works s id 0x81 i →
      (∀ k, s.slotKey u slot 0 = .ok k → leaves (.keyUnload id) (ended i 0 0 [.key slot none])) ∧
      (∀ st, s.slotKey u slot 0 = .error st → leaves (.keyUnload id) (stopped i st))) ∧
    (Works s id 0x82 i → makes (.keyGenerate id) 52 (fun r => { key := BitVec.ofNat 256 (natLE (r.take 32))
                                                                attr := BitVec.ofNat 8 (dF i.line 0x12 1)
                                                                testRoot := s.testRoot u, depth := 0, epoch := s.sec.epoch
                                                                cell := 0, keyId := BitVec.ofNat 64 (leAt r 32 8)
                                                                ancestors := [] }) (fun r => r.drop 40)) ∧
    (∀ p, Works s id 0x83 i → s.slotKey u (dF i.line 0x16 2) 4 = .ok p → p.full = false →
      let anc := s.childAncestors p
      let attr := BitVec.ofNat 8 (dF i.line 0x12 1)
      let key := kdf (bytesLE 32 p.key.toNat) "SLBCHLD1" (bytesLE 32 (dF i.line 0x20 32) ++ [attr] ++ ancestorBytes anc)
      makes (.keyDerive id) 12 (fun _ => { key := BitVec.ofNat 256 (natLE key), attr := attr, testRoot := s.testRoot u
                                           depth := BitVec.ofNat 8 anc.length, epoch := s.sec.epoch, cell := 0
                                           keyId := BitVec.ofNat 64 (natLE ((hmac512 key (ascii "KEYID")).take 8))
                                           ancestors := anc }) (fun r => r)) ∧
    (∀ k w s' r, Works s id 0x84 i → s.slotKey u slot 0 = .ok k → s.slotKey u (dF i.line 0x12 2) 3 = .ok w →
      dF i.line 0x14 1 = 1 → s.rng.fatal = false → s.drawDevice 12 = (s', some r) → ∃ t, exec (.keyWrap id) s = .next t ∧
        ItemLeft (s'.hostWrite (dF i.line 0x18 8) (k.blob (bytesLE 32 w.key.toNat) r)) id (ended i 0 0 []) t) ∧
    (∀ k, Works s id 0x85 i → s.slotKey u slot 0 = .ok k →
      (k.cell = 0xFFFF → leaves (.keyInvalidate id) (stopped i 0x84)) ∧
      (k.cell ≠ 0xFFFF → leaves (.keyInvalidate id) (ended i 0 0 [.cellBump (Fin.ofNat 1024 k.cell.toNat)]))) ∧
    (Works s id 0x86 i → (s.sec.cell slot).valid = true → (s.sec.cell slot).tag = s.cellTag u →
      (slot < 1024 → leaves (.keyCellFree id) (ended i 0 0 [.cellFree (Fin.ofNat 1024 slot)])) ∧
      (1024 ≤ slot → leaves (.keyCellFree id) (stopped i 0x84)))) ∧
  (∀ (k : Key) (sk nonce : List Byte), 1 ≤ k.attr.toNat → k.attr.toNat ≤ 4 → k.depth.toNat = k.ancestors.length →
    k.ancestors.length ≤ 4 → nonce.length = 12 →
    (k.blob sk nonce).length = 128 ∧ openBlob sk (k.blob sk nonce) = some k)

/-- R371 to R374, R376: CRYPT applies the keystream of its slot's key to its part of the text (and the keystream undoes
itself), keeps the key in the engine of the destination's race and ends with the tag; PKG_OPEN's first item and ATTEST become
the RTP's job; a later item of PKG_OPEN decrypts its part; RTP_JOB_DONE completes a job at the end of its 200 ms, LATE where
the RTP restarted under it. -/
def Obligations.CipherAndJobs : Prop :=
  (∀ (s : State) (id : Nat) (i : Item) (k : Key), Works s id 0x87 i → s.keyGate = none → s.isZeroing i = false → i.index = 0 →
    let src := dF i.line 0x18 8
    let dst := dF i.line 0x20 8
    let len := dF i.line 0x28 8
    let dec := dF i.line 0x12 1 = 1
    let rg := i.range len
    let r := raceOfAddr dst
    let out (x : List Byte) := gcmCtrAt (bytesLE 32 k.key.toNat) (bytesLE 12 (dF i.line 0x30 12)) rg.1 x
    s.engineJob? r i.ring i.seq = none → s.slotKey i.tenant (dF i.line 0x10 2) (if dec then 2 else 1) = .ok k →
    ∀ s1 x s2 y, s.devRead i.tenant (src + rg.1) rg.2 = (s1, .ok x) → s1.devWrite i.tenant (dst + rg.1) (out x) = (s2, .ok y) →
      let ct := if dec then x else out x
      let tag := gcmTag (bytesLE 32 k.key.toNat) (bytesLE 12 (dF i.line 0x30 12)) [] (s2.engineTail i ++ ct)
      (i.last = false → exec (.crypt id) s = .next (s2.endItem id 0 0 [.engine r k.key ct])) ∧
      (i.last = true → dF i.line 0x12 1 ≠ 1 → s2.engineJob? r i.ring i.seq = none →
        ∀ s3 z, s2.devWrite i.tenant (dst + len) tag = (s3, .ok z) →
        exec (.crypt id) s = .next (s3.endItem id 0 0 [.engine r k.key ct])) ∧
      (i.last = true → dec → s2.engineJob? r i.ring i.seq = none →
        ∀ s3 z, s2.devRead i.tenant (src + len) 16 = (s3, .ok z) →
        exec (.crypt id) s = .next (s3.endItem id 0 0
          (if z = tag then [.engine r k.key ct] else [.engine r k.key ct, .authFail])))) ∧
  (∀ (key iv x : List Byte) (off : Nat), gcmCtrAt key iv off (gcmCtrAt key iv off x) = x) ∧
  (∀ (s : State) (id : Nat) (i : Item), Works s id 0x88 i → i.index = 0 →
    s.pkgRefusal i.tenant (dF i.line 0x10 1) = none →
    ∃ t, exec (.pkgOpen id) s = .next t ∧ ItemLeft s id (ended i 0 0 [.pkgJob]) t) ∧
  (∀ (s : State) (id : Nat) (i : Item), Works s id 0x88 i → i.index = 0 → s.keyGate = none →
    s.tenants[i.tenant].flocks.getLsbD (dF i.line 0x10 1) = false →
    ∃ t, exec (.pkgOpen id) s = .next t ∧ ItemLeft s id (stopped i 0x88) t) ∧
  (∀ (s : State) (id : Nat) (i : Item) (d : Desc) (e : EngineJob), Works s id 0x88 i → i.index ≠ 0 →
    s.desc? i.tenant i.ring i.seq = some d → d.zeroing = false →
    let len := d.aux.getD 0 0
    let rg := i.range len
    let src := dF i.line 0x18 8
    let dst := dF i.line 0x20 8
    s.engineJob? (raceOfAddr dst) i.ring i.seq = some e → i.last = false →
    ∀ s1 h s2 ct s3 y, s.devRead i.tenant src 0x80 = (s1, .ok h) →
      s1.devRead i.tenant (src + d.aux.getD 1 0 + rg.1) rg.2 = (s2, .ok ct) →
      s2.devWrite i.tenant (dst + rg.1) (gcmCtrAt (bytesLE 32 e.key.toNat) (bytesAt h 0x20 12) rg.1 ct) = (s3, .ok y) →
      exec (.pkgOpen id) s = .next (s3.endItem id 0 0 [.engine (raceOfAddr dst) e.key ct])) ∧
  (∀ (s : State) (id : Nat) (i : Item) (nonce : BitVec 512), Works s id 0x89 i → s.keyGate = none →
    (s.rng.fatal = false → ∃ t, exec (.attest id nonce) s = .next t ∧ ItemLeft s id (ended i 0 0 [.attestJob nonce]) t) ∧
    (s.rng.fatal = true → ∃ t, exec (.attest id nonce) s = .next t ∧ ItemLeft s id (stopped i 0x13) t)) ∧
  (∀ (s : State) (u : TenantId), (s.tenants[u].job = none → exec (.rtpJobDone u) s = .next s) ∧
    ∀ j, s.tenants[u].job = some j →
    let age := (s.tick.count - j.tick).toNat * s.tick.period.toNat
    (age < 200000 → exec (.rtpJobDone u) s = .next s) ∧
    (200000 ≤ age → j.late = true → ∃ t, exec (.rtpJobDone u) s = .next t ∧
      OnlyTenant u s { s.tenants[u] with job := none, descs := t.tenants[u].descs } t ∧
      ∀ d, s.desc? u j.ring j.seq = some d → d.done = false → t.desc? u j.ring j.seq =
        some { d with done := true, waits := false, status := 0x0C, body := 0, todo := [] }) ∧
    (200000 ≤ age → j.late = false → s.keyGate = none → ∀ d, s.desc? u j.ring j.seq = some d → dOp d.line = 0x89 → d.done = false →
      ∃ t, exec (.rtpJobDone u) s = .next t ∧ t.tenants[u].job = none ∧ t.desc? u j.ring j.seq =
        some { d with done := true, waits := false, status := 0, body := BitVec.ofNat 128 (j.report.length - 512), todo := [] }))

/-- R369: KEY_GENERATE or KEY_DERIVE with CELL set claims the lowest free cell; it fails with NO_CELL where the tenant's quota
is used up or no cell is free; the claim gives the cell the tenant's tag; a key is usable only while each ancestor's cell
bears that tag at the recorded counter, and is refused with KEY_INVALID otherwise. -/
def Obligations.GenerationCellClaims : Prop :=
  ∀ (s : State) (id : Nat) (i : Item), let u := i.tenant
    let tag := BitVec.ofNat 64 (natLE ((sha512 (bytesLE 32 s.tenants[u].domain.toNat)).take 8))
    let free (c : Fin 1024) : Prop := (s.sec.cell c.val).valid = true ∧ (s.sec.cell c.val).tag = 0
    let bearing := (s.sec.cells.filter (fun c => (s.sec.cell c.1).tag = tag)).length
    let asks (c : Instr) : Prop := s.keyGate = none ∧ s.rng.fatal = false ∧ s.rootGone u = false ∧
      s.slotFree u (dF i.line 0x10 2) = true ∧ bitOf (dF i.line 0x13 1) 0 = true ∧
      (∀ j ∈ s.tick.items, ∀ k, Effect.cellClaim k ∉ j.effects) ∧
      (c = .keyGenerate id ∧ Works s id 0x82 i ∨
       c = .keyDerive id ∧ Works s id 0x83 i ∧ ∃ p, s.slotKey u (dF i.line 0x16 2) 4 = .ok p ∧ p.full = false)
    (∀ c, asks c → (s.tenants[u].cells.toNat ≤ bearing ∨ ∀ k, ¬ free k) →
      ∃ t, exec c s = .next t ∧ ItemLeft s id (stopped i 0x84) t) ∧
    (∀ c k, asks c → bearing < s.tenants[u].cells.toNat → free k → (∀ j, j < k → ¬ free j) → dF i.line 0x14 1 = 1 →
      s.rng.rawActive = false → s.rng.drbgs[8].on = true → s.rng.drbgs[8].count < 2 ^ 16 →
      ∃ t x, exec c s = .next t ∧ t.item? id = some x ∧ x.state = .ended ∧ x.status = 0 ∧ Effect.cellClaim k ∈ x.effects) ∧
    (∀ k : Fin 1024, (s.sec.cell k.val).valid = true → (s.sec.cell k.val).gen.toNat + 1 < 2 ^ 32 →
      (s.applyEffect i (.cellClaim k)).1.sec.cell k.val =
        { s.sec.cell k.val with tag := tag, gen := (s.sec.cell k.val).gen + 1 }) ∧
    (∀ slot attr k, slot < s.tenants[u].keySlots.toNat → sget? s.tenants[u].keys slot = some k → k.testRoot = s.testRoot u →
      attr = 0 ∨ k.attr.toNat = attr →
      let usable : Prop := ∀ a ∈ k.ancestors, a.1 = 0xFFFF ∨ (s.sec.cell a.1.toNat).valid = true ∧
        (s.sec.cell a.1.toNat).tag = tag ∧ (s.sec.cell a.1.toNat).counter = a.2
      (usable → s.slotKey u slot attr = .ok k) ∧ (¬ usable → s.slotKey u slot attr = .error 0x83))

-- ## The mailbox

/-- R355, R358 to R364, R370, R375, R379, Tables 14-5 to 14-7: a command finds the mailbox busy and is ignored with MBX_ERR,
is refused while a transition completes or the subsystem is locked, or runs: the transitions, the unlock challenge, flock
keys, certificates, firmware and cell release leave what the rules say; MBX_COMMAND_END ends the command in progress and
completes a transition; a restart of the RTP makes jobs late, and the third in a second locks the subsystem. Generation
numbers are taken below their last value. -/
def Obligations.MailboxCommands : Prop :=
  ∀ (s : State), let c := s.sec
    let asks (i : Instr) (code : Byte) : Prop := (i, code) ∈ [(Instr.lcQuery, (0x01 : Byte)), (.lcSeal, 2), (.lcUnlockChallenge, 3),
      (.lcUnlock, 4), (.lcReseal, 5), (.lcRetire, 6), (.flockCreate, 0x10), (.flockDelete, 0x11), (.identityGet, 0x12), (.cellRelease, 0x21)]
    let begun (code : Byte) : Sec := { c with busy := true, code := code, served := false, asker := none }
    let ends (y : Sec) (result : Byte) (rsp : List Byte) : Sec :=
      { y with served := true, result := result, rsp := rsp, rspLen := BitVec.ofNat 16 rsp.length }
    let answers (i : Instr) (code result : Byte) (rsp : List Byte) : Prop :=
      ∃ t, exec i s = .next t ∧ t = { s with sec := ends (begun code) result rsp }
    let keysGone (t : State) : Prop := (∀ u : TenantId, t.tenants[u].keys = []) ∧ ∀ r : RaceId, t.races[r].engine = []
    let fresh : Prop := ∀ x, c.lc = some x → x.gen.toNat + 1 < 2 ^ 64
    let arg := (begun 0).argBytes
    let f := natLE (arg 0 4)
    let tag := BitVec.ofNat 64 (natLE (arg 0 8))
    (∀ i code, asks i code → c.busy = true → ∃ t, exec i s = .next t ∧ t.sec = { c with err := true } ∧ t.start.errSet = true ∧
      { t with sec := c, start := s.start } = s) ∧
    (∀ i code st, asks i code → c.busy = false → s.mbxGate code = some st → answers i code st []) ∧
    (∀ code, code ≠ 1 → c.pending = true → s.mbxGate code = some 0x85) ∧
    (∀ code, code ≠ 1 → c.pending = false → s.mbxGate code =
      if c.locked = true ∧ code ≠ 0x12 ∧ code ≠ 0x20 then some 0x87 else none) ∧
    (∀ x, c.busy = false → c.lc = some x → (c.lcBytes x).length = 256 ∧ answers .lcQuery 0x01 0 (c.lcBytes x)) ∧
    (c.busy = false → c.lc = none → answers .lcQuery 0x01 0x85 []) ∧
    (c.busy = false → c.pending = false → c.locked = false →
      (∀ i code source, (i = .lcSeal ∧ code = 2 ∧ source = 0 ∨ i = .lcReseal ∧ code = 5 ∧ source = 2) →
        (c.state ≠ source → answers i code 0x85 []) ∧
        (c.state = source → s.allFree = false → answers i code 0x8B []) ∧
        (c.state = source → s.allFree = true → c.lc.isSome = true → fresh → ∃ t, exec i s = .next t ∧ t.sec.state = 1 ∧
          t.sec.pending = true ∧ t.sec.epoch = c.epoch + 1 ∧ t.sec.busy = true ∧ t.sec.served = false ∧ keysGone t ∧
          t.mem = s.mem ∧ t.tick = s.tick)) ∧
      (s.rng.fatal = true → answers .lcUnlockChallenge 3 0x8C []) ∧
      (s.rng.fatal = false → s.rng.rawActive = false → s.rng.drbgs[8].on = true → s.rng.drbgs[8].count < 2 ^ 16 →
        ∃ t bs, exec .lcUnlockChallenge s = .next t ∧ bs.length = 32 ∧
          t.sec = ends { begun 3 with challenge := some (BitVec.ofNat 256 (natBE bs)) } 0 bs) ∧
      (c.state = 2 ∨ c.state = 3 → answers .lcUnlock 4 0x85 []) ∧
      (c.state = 0 ∨ c.state = 1 → s.allFree = false → answers .lcUnlock 4 0x8B []) ∧
      (c.state = 0 ∨ c.state = 1 → s.allFree = true → c.challenge = none → answers .lcUnlock 4 0x82 []) ∧
      (∀ ch, c.state = 0 ∨ c.state = 1 → s.allFree = true → c.challenge = some ch → fresh →
        (pssVerify Config.lifeCycleModulus 65537 (s.unlockText ch) (arg 0 512) = true → ∃ t, exec .lcUnlock s = .next t ∧
          t.sec.state = 2 ∧ t.sec.pending = true ∧ t.sec.epoch = c.epoch ∧ t.sec.challenge = none ∧ keysGone t) ∧
        (pssVerify Config.lifeCycleModulus 65537 (s.unlockText ch) (arg 0 512) = false → ∃ t, exec .lcUnlock s = .next t ∧
          t = { s with sec := ends { begun 4 with challenge := none } 0x82 [] })) ∧
      (c.state ≠ 3 → natLE (arg 0 4) = 0x52424D55 → fresh → ∃ t, exec .lcRetire s = .next t ∧ t.sec.state = 3 ∧
        t.sec.pending = true ∧ keysGone t ∧ t.sec.rootA = {} ∧ t.sec.rootB = {}) ∧
      (c.state = 3 ∨ natLE (arg 0 4) ≠ 0x52424D55 → answers .lcRetire 6 0x85 []) ∧
      ((c.state = 1 ∨ c.state = 2 → s.rng.fatal = false → f < 32 → ∀ x, c.slot (8 + f) = some x →
          (x.cls ≠ 0 → answers .flockCreate 0x10 0x80 []) ∧
          (x.cls = 0 → x.gen.toNat + 1 < 2 ^ 64 → s.drbgServes = true → ∃ t y, exec .flockCreate s = .next t ∧
            t.sec.slot (8 + f) = some y ∧ y.cls = 3 ∧ y.kind = 1 ∧ y.epoch = c.epoch ∧ y.body = Config.rsaKeyBody c.draws ∧
            y.label = BitVec.ofNat 64 (natLE (arg 4 8)) ∧ (∀ k, k ≠ 8 + f → t.sec.slot k = c.slot k) ∧
            t.sec.draws = c.draws + 1 ∧ t.sec.result = 0 ∧ t.sec.rsp = bytesAt y.body 0 512 ++ memberId y.body)) ∧
        (c.state = 0 ∨ c.state = 3 → answers .flockCreate 0x10 0x85 []) ∧
        (32 ≤ f → answers .flockDelete 0x11 0x80 []) ∧
        (f < 32 → ∀ x, c.slot (8 + f) = some x →
          (x.cls = 0 → answers .flockDelete 0x11 0x80 []) ∧
          (x.cls ≠ 0 → x.gen.toNat + 1 < 2 ^ 64 → ∃ t y, exec .flockDelete s = .next t ∧ t.sec.slot (8 + f) = some y ∧
            y.cls = 0 ∧ y.body = [] ∧ (∀ k, k ≠ 8 + f → t.sec.slot k = c.slot k) ∧ t.sec.result = 0 ∧ t.sec.served = true))) ∧
      (∀ host st, s.fwCheck host = .error st → answers (.fwLoad host) 0x20 st []) ∧
      (∀ host k f, s.fwCheck host = .ok (k, f) → ∃ t, exec (.fwLoad host) s = .next t ∧
        t.sec.fwNext = c.fwNext.filter (fun q => q.1 ≠ k.val) ++ [(k.val, f)] ∧ t.sec.result = 0 ∧ t.sec.served = true ∧
        t.sec.fw = c.fw) ∧
      (tag ≠ 0 → (c.cells.map (·.1)).Nodup → ∃ t, exec .cellRelease s = .next t ∧ t.sec.result = 0 ∧ t.sec.served = true ∧
          ∀ k, (c.cell k).valid = true → (c.cell k).gen.toNat + 1 < 2 ^ 32 →
            ((c.cell k).tag ≠ tag → t.sec.cell k = c.cell k) ∧
            ((c.cell k).tag = tag → (t.sec.cell k).tag = 0 ∧ (t.sec.cell k).valid = true ∧
              (t.sec.cell k).counter = (c.cell k).counter + 1))) ∧
    (∀ x y z, c.busy = false → c.pending = false → c.slot 4 = some x → c.slot 1 = some y → c.slot 2 = some z →
      answers .identityGet 0x12 0 (x.body ++ y.body ++ z.body)) ∧
    (c.pending = false → c.busy = false → exec .mbxCommandEnd s = .next s) ∧
    (c.pending = false → c.busy = true → c.served = true → c.asker = none → c.fwNext = [] →
      ∃ t, exec .mbxCommandEnd s = .next t ∧ t = { s with sec := { c with busy := false, done := true, served := false } }) ∧
    (∀ x, c.lc = some x → c.pending = true → x.rootPend = false → s.drbgServes = true → fresh → c.busy = true → c.asker = none →
      c.fwNext = [] → ∃ t, exec .mbxCommandEnd s = .next t ∧ t.sec.state = c.state ∧ t.sec.pending = false ∧
        t.sec.epoch = c.epoch ∧ t.sec.busy = false ∧ t.sec.done = true) ∧
    (∀ third, ∃ t, exec (.rtpWatchdog third) s = .next t ∧ t.sec.restarts = satInc c.restarts ∧
      (∀ u : TenantId, t.tenants[u].job = s.tenants[u].job.map (fun j => { j with late := true })) ∧
      t.sec.locked = (c.locked || third) ∧ (third = true → c.locked = false → keysGone t))

-- ## Random numbers

/-- R381 to R386, R388, R389, R392, R393: a block of a vane is measured and counted; a passed one starts a vane up or feeds
the pool, a failed one restarts the vane, and the third failure in a row retires it; the trim follows the ones of its window;
a DRBG is reseeded from 1,024 raw bits when it is due and fills its tenant's queue; raw test mode starts at a boundary with
every race held. -/
def Obligations.RandomNumbers : Prop :=
  ∀ (s : State), let g := s.rng
    let rng (y : Rng) (t : State) : Prop := t = { s with rng := y }
    (∀ (v : Fin 4) (bits : BitVec 1024), let x := g.vanes[v]
      let m := x.measure bits
      (m.pass = true ↔ 432 ≤ m.ones.toNat ∧ m.ones.toNat ≤ 592 ∧ 432 ≤ m.agree.toNat ∧ m.agree.toNat ≤ 591 ∧ m.run.toNat ≤ 40) ∧
      m.ones.toNat = ((List.range 1024).filter bits.getLsbD).length ∧ m.blocks = satInc x.blocks ∧
      (g.rawActive = false → x.state = 2 → m.pass = true → g.feeding = some v → g.fatal = false →
        (∀ i : Fin 9, g.drbgs[i].on = true) → g.pool.length + 1024 ≤ 32 * 1024 →
        ∃ t y, exec (.vaneBlockEnd v bits) s = .next t ∧ rng y t ∧ y.pool = g.pool ++ (List.range 1024).map bits.getLsbD ∧
          (∀ w, w ≠ v → y.vanes[w] = g.vanes[w]) ∧ y.drbgs = g.drbgs) ∧
      (g.rawActive = false → x.state = 1 → m.pass = true → ∃ t y, exec (.vaneBlockEnd v bits) s = .next t ∧ rng y t ∧
        y.vanes[v].state = (if x.started + 1 = 4 then 2 else 1) ∧ y.pool = g.pool) ∧
      (g.rawActive = false → x.state = 1 ∨ x.state = 2 → m.pass = false → x.failRun ≠ 2 →
        ∃ t y, exec (.vaneBlockEnd v bits) s = .next t ∧ rng y t ∧ y.vanes[v].state = 0 ∧ y.vanes[v].trim = 0x200 ∧
          y.vanes[v].failRun = x.failRun + 1 ∧ y.vanes[v].failCnt = satInc x.failCnt ∧ y.blockFail = true) ∧
      (g.rawActive = false → x.state = 1 ∨ x.state = 2 → m.pass = false → x.failRun = 2 →
        ∃ t, exec (.vaneBlockEnd v bits) s = .next t ∧ t.rng.vanes[v].state = 3 ∧ t.rng.retireEvent = true ∧
          ((∀ w, w ≠ v → g.vanes[w].state = 3) → g.fatal = false → t.rng.fatal = true ∧ t.pwr.fatalN = true ∧
            t.rng.pool = [] ∧ ∀ u : TenantId, t.tenants[u].values = [])) ∧
      (g.rawActive = false → x.state = 3 ∨ x.state = 0 → exec (.vaneBlockEnd v bits) s = .next s) ∧
      (∃ t, exec (.vaneSettled v) s = .next t ∧
        rng (if x.state = 0 then { g with vanes := g.vanes.set v { x with state := 1, started := 0 } } else g) t) ∧
      (g.rawActive = false → ∀ ones : Fin 65, ∃ t, exec (.trimStep v ones) s = .next t ∧
        rng { g with vanes := g.vanes.set v { x with trim :=
          if 36 < ones.val ∧ x.trim ≠ 0 then x.trim - 1 else if ones.val < 28 ∧ x.trim ≠ 0x3FF then x.trim + 1 else x.trim } } t)) ∧
    (∀ i : Fin 9, g.drbgs[i].on = true → 2 ^ 16 ≤ g.drbgs[i].count → 1024 ≤ g.pool.length →
      ∃ t y, exec (.drbgReseed i) s = .next t ∧ rng y t ∧ y.pool = g.pool.drop 1024 ∧ y.reseeds = satInc g.reseeds ∧
        y.drbgs[i].count = 0 ∧ y.drbgs[i].on = true ∧ (∀ j, j ≠ i → y.drbgs[j] = g.drbgs[j])) ∧
    (∀ i : Fin 9, g.drbgs[i].count < 2 ^ 16 → exec (.drbgReseed i) s = .next s) ∧
    (∀ u : TenantId, let d := g.drbgs[u.castSucc]
      g.fatal = false → g.rawActive = false → d.on = true → d.count < 2 ^ 16 → s.tenants[u].values.length < 64 →
      s.tick.owned 11 u ≠ 0 → ∃ t v, exec (.drbgFill u) s = .next t ∧
        t.tenants[u] = { s.tenants[u] with values := s.tenants[u].values ++ [v] } ∧ (∀ w, w ≠ u → t.tenants[w] = s.tenants[w]) ∧
        t.rng.drbgs[u.castSucc].count = d.count + 1 ∧ { t with rng := g, tenants := s.tenants } = s) ∧
    (∀ u : TenantId, 64 ≤ s.tenants[u].values.length → exec (.drbgFill u) s = .next s) ∧
    (∃ t, exec (.rawReq true) s = .next t ∧ rng { g with rawReq := true, rawPend := g.rawPend || !g.rawActive } t) ∧
    (∃ t, exec (.rawReq false) s = .next t ∧ rng { g with rawReq := false, rawPend := false } t) ∧
    (g.rawPend = true → s.boundary = true → s.allHeld = true → ∃ t, exec .rawTestStart s = .next t ∧
      rng { g with rawActive := true, rawPend := false } t) ∧
    (s.boundary = false ∨ s.allHeld = false → exec .rawTestStart s = .next s) ∧
    (∀ w b rest, g.fifo = (w, b) :: rest → ∃ t, exec .rngRawData s = .next t ∧ rng { g with fifo := rest } t) ∧
    (g.fifo = [] → ∃ t, exec .rngRawData s = .next t ∧ rng { g with underrun := true } t)

-- ## Power and start-up

/-- R402 to R406, Tables 16-5, 16-10, 16-11: the command slot of PWR_CMD. A command whose check fails ends at once with its result; one
that finds the slot in use is CMD_ERR; a domain command takes effect at a boundary, puts the domains concerned into
transition, and DONE brings them to their state; cancel withdraws a command that has not taken effect. -/
def Obligations.PowerCommands : Prop :=
  ∀ (s : State), let p := s.pwr
    let pwr (y : Pwr) (t : State) : Prop := t = { s with pwr := y }
    let sends (i : Instr) (c : PwrCmd) : Prop :=
      (p.cmd = none → s.cmdCheck c = 0 → ∃ t, exec i s = .next t ∧ pwr { p with cmd := some c, pending := s.cmdWaits c } t) ∧
      (p.cmd = none → s.cmdCheck c ≠ 0 → ∃ t, exec i s = .next t ∧
        pwr { p with cmd := none, pending := false, done := true, result := s.cmdCheck c } t) ∧
      (p.cmd ≠ none → ∃ t, exec i s = .next t ∧ t.pwr = { p with cmdErr := true } ∧ t.start.errSet = true)
    (∀ d st, sends (.domainCommand d st) { kind := 0, domain := d, st := st, mhz := 0 }) ∧
    (∀ st, sends (.deviceStateCommand st) { kind := 1, domain := 0, st := st, mhz := 0 }) ∧
    (∀ mhz, sends (.frequencyCommand mhz) { kind := 2, domain := 0, st := 0, mhz := mhz }) ∧
    (p.devState = 2 → sends .linkWake { kind := 1, domain := 0, st := 0, mhz := 0 }) ∧
    (p.devState ≠ 2 → exec .linkWake s = .next s) ∧
    (∀ mhz : BitVec 11, s.frequencyCheck mhz = 0 ↔
      100 ≤ mhz.toNat ∧ mhz.toNat ≤ 1250 ∧ mhz.toNat % 25 = 0 ∧ s.tick.priceMhz.toNat ≤ mhz.toNat) ∧
    (p.cmd = none → ∃ t, exec .cancelPendingCommand s = .next t ∧
      pwr { p with cmd := none, pending := false, done := true, result := 4 } t) ∧
    (∀ c, p.cmd = some c → c.moving = false → c.req = none → ∃ t, exec .cancelPendingCommand s = .next t ∧
      pwr { p with cmd := none, pending := false, done := true, result := 6 } t) ∧
    (∀ c, p.cmd = some c → c.moving = false → s.boundary = true →
      (s.cmdWaits c = true → ∃ t, exec .powerCommandEffect s = .next t ∧ pwr { p with pending := true } t) ∧
      (s.cmdWaits c = false → c.kind = 0 → s.domainCheck c.domain.toNat c.st = 0 →
        ∃ t, exec .powerCommandEffect s = .next t ∧ t.pwr.cmd = some { c with moving := true } ∧ t.pwr.pending = false ∧
          ∀ d : Fin 80, t.pwr.domains[d] = if d.val ∈ s.concerned c.domain.toNat ∧ p.domains[d] ≠ c.st then 3 else p.domains[d]) ∧
      (c.kind = 2 → p.curMhz < c.mhz → ∃ t, exec .powerCommandEffect s = .next t ∧
        pwr { p with cmd := some { c with moving := true }, pending := false } t) ∧
      (c.kind = 2 → c.mhz ≤ p.curMhz → ∃ t, exec .powerCommandEffect s = .next t ∧ t.pwr.curMhz = c.mhz)) ∧
    (p.cmd = none ∨ s.boundary = false → exec .powerCommandEffect s = .next s) ∧
    (∀ c, p.cmd = some c → c.moving = true → c.kind = 0 → ∃ t, exec .done s = .next t ∧ t.pwr.cmd = none ∧ t.pwr.done = true ∧
      t.pwr.result = 0 ∧ t.pwr.devState = p.devState ∧
      ∀ d : Fin 80, t.pwr.domains[d] = if d.val ∈ s.concerned c.domain.toNat ∧ p.domains[d] = 3 then c.st else p.domains[d]) ∧
    (∀ c, p.cmd = some c → c.moving = true → c.kind = 2 → ∃ t, exec .done s = .next t ∧ t.pwr.cmd = none ∧
      t.pwr.done = true ∧ t.pwr.curMhz = c.mhz) ∧
    (∀ c, p.cmd = some c → c.moving = false → exec .done s = .next s)

/-- R333, R398, R399, R409, R410, R412, R413, R434 to R437, Table 18-1: the supply, the start-up and the readings. Power lost
leaves nothing but the security MRAM and the messages sent; power good starts the sequence, which waits for the mill
reference and ends with READY; the phases, the droop counters, the telemetry and the PMBus page are as the rules say. -/
def Obligations.PowerAndStartUp : Prop :=
  ∀ (s : State), let p := s.pwr
    let pwr (y : Pwr) (t : State) : Prop := t = { s with pwr := y }
    let dark (t : State) : Prop := t.mem = [] ∧ t.races = State.reset.races ∧ t.tenants = State.reset.tenants ∧
      t.tick = State.reset.tick ∧ t.rounds = State.reset.rounds ∧ t.ctxs = [] ∧ t.sec.lcA = s.sec.lcA ∧ t.sec.lcB = s.sec.lcB ∧
      t.sec.slots = s.sec.slots ∧ t.sec.cells = s.sec.cells ∧ t.sec.svnA = s.sec.svnA ∧ t.sec.svnB = s.sec.svnB
    (∀ su : StartUp, p.alive = false → su.inputInRange = true → ∃ t, exec (.powerGoodRise su) s = .next t ∧ t.pwr.alive = true ∧
      t.pwr.pfail = false ∧ t.start.ready = false ∧ t.start.step = (if su.millRef then 3 else 6) ∧
      t.sec.slots = s.sec.slots ∧ (∀ u : TenantId, t.tenants[u].state = .free)) ∧
    (∀ su : StartUp, p.alive = true ∨ su.inputInRange = false → exec (.powerGoodRise su) s = .next s) ∧
    (∀ su : StartUp, p.alive = true → s.start.step = 6 → ∃ t, exec (.millReferenceAppears su) s = .next t ∧ t.start.step = 3) ∧
    (p.alive = true → s.start.step = 6 → ∃ t, exec .clkErr s = .next t ∧ t = { s with start := { s.start with clkErr := true } }) ∧
    (∀ d : Fin 80, d ∈ s.start.filling → p.domains[d] = 0 → ∃ t, exec (.fillDone d []) s = .next t ∧
      t.start = { s.start with filling := s.start.filling.filter (· ≠ d) } ∧ t.mem = s.mem ∧
      let r : RaceId := Fin.ofNat 8 d.val
      t.races[r].mem.fillDone = (s.start.filling.filter (· ≠ d)).all (fun f => f.val % 8 ≠ r.val) ∧
      (∀ q, q ≠ r → t.races[q] = s.races[q])) ∧
    (s.startReady = true → ∃ t, exec .ready s = .next t ∧ t.start.ready = true ∧ t.start.step = 5 ∧
      t.start.readyMs = s.start.su.pgoodMs ∧ t.net.enable = (s.net.enable || s.net.held) ∧ t.net.held = false ∧
      (∀ k : Fin 17, t.hops[k].secded = true ∧ ∀ q ∈ t.hops[k].queues, q.2.depth = 0) ∧ t.tenants = s.tenants ∧ t.races = s.races) ∧
    (s.startReady = false → exec .ready s = .next s) ∧
    (p.alive = true → (∀ cause, ∃ t, exec (.powerFail cause) s = .next t ∧ dark t) ∧
      (∃ t, exec .thermalShutdown s = .next t ∧ dark t)) ∧
    (p.alive = true → ∃ t, exec .lowInputWarning s = .next t ∧ t.pwr = { p with pfWarn := true, stInput := p.stInput ||| 0x20 } ∧
      { t with pwr := p, mgmt := s.mgmt } = s) ∧
    (∀ (k : Fin 15) (phase : BitVec 5), let n := p.rails[k].phases
      n ≠ 0 → ∃ t, exec (.phaseFault k phase) s = .next t ∧ t.pwr.phaseFault = true ∧ t.pwr.rails[k].phases = n - 1 ∧
        t.pwr.rails[k].fault = true ∧ (∀ j, j ≠ k → t.pwr.rails[j] = p.rails[j]) ∧
        (railHolds k (n - 1).toNat = true → t.pwr.fatalN = p.fatalN) ∧ (railHolds k (n - 1).toNat = false → t.pwr.fatalN = true) ∧
        (∀ u, k.val < 8 → s.owner (Fin.ofNat 8 k.val) = some u → ∃ e, t.tenants[u].jnl.events.getLast? = some e ∧
          e.cls = 0x0F ∧ e.part = 7 ∧ e.index = phase.setWidth 16)) ∧
    (∀ (r : RaceId) (cycles : W32), let n := p.stretchRem[r].toNat + cycles.toNat
      ∃ t, exec (.droop r cycles) s = .next t ∧ pwr { p with stretchRem := p.stretchRem.set r (BitVec.ofNat 10 n)
                                                             stretch := p.stretch.set r (BitVec.ofNat 32 (min (2 ^ 32 - 1) (p.stretch[r].toNat + n / 1024))) } t) ∧
    (∀ x : PowerSample, ∃ t, exec (.telemetrySample x) s = .next t ∧ t.pwr.vin = x.vin ∧ t.pwr.pinW = x.pinW ∧
      t.pwr.peakW.toNat = max p.peakW.toNat x.peakW.toNat ∧ t.pwr.temp = x.temp ∧ t.pwr.domains = p.domains ∧ t.pwr.cmd = p.cmd ∧
      { t with pwr := p } = s) ∧
    (∃ t, exec .clr s = .next t ∧ pwr { p with peakW := 0 } t) ∧
    (p.alive = true →
      (∃ t, exec (.pmbusRead 0x98) s = .next t ∧ pwr { p with pmOut := [0x33] } t) ∧
      (∃ t, exec (.pmbusRead 0x99) s = .next t ∧ pwr { p with pmOut := [4, 0x4F, 0x48, 0x4D, 0x44] } t) ∧
      (∃ t, exec (.pmbusRead 0x00) s = .next t ∧ pwr { p with pmOut := [0xFF], cml := true } t) ∧
      (∀ c bs, ∃ t, exec (.pmbusWrite c bs) s = .next t ∧ pwr { p with cml := true } t))

/-- R404: a frequency command names 100 MHz to 1,250 MHz in steps of 25; any other value ends with PARAM, one below the
pricing frequency with BELOW_PRICE, and any other command is taken into the slot. -/
def Obligations.FrequencyCommands : Prop :=
  ∀ (s : State) (mhz : BitVec 11), s.pwr.cmd = none →
    let named : Prop := 100 ≤ mhz.toNat ∧ mhz.toNat ≤ 1250 ∧ mhz.toNat % 25 = 0
    let gives (y : Pwr) : Prop := ∃ t, exec (.frequencyCommand mhz) s = .next t ∧ t = { s with pwr := y }
    (¬ named → gives { s.pwr with cmd := none, pending := false, done := true, result := 5 }) ∧
    (named → mhz.toNat < s.tick.priceMhz.toNat → gives { s.pwr with cmd := none, pending := false, done := true, result := 1 }) ∧
    (named → s.tick.priceMhz.toNat ≤ mhz.toNat → ∃ c b, gives { s.pwr with cmd := some c, pending := b } ∧
      c.kind = 2 ∧ c.mhz = mhz ∧ c.moving = false)

-- ## Management

/-- R416 to R426, R432, R452, Tables 17-2, 17-3, 17-11 and 17-12: a request of a closed session is not heard, a ninth
outstanding one closes the session, one without its role or without room is refused, and a response waits for those before
it; each operator request then has its response or effect; sessions open, end and close, telemetry goes out, the decimation
follows the backlog, the first anchor is installed and the MGC's watchdog closes every session. -/
def Obligations.OperatorRequests : Prop :=
  ∀ (s : State) (q : ReqId), let g := s.mgmt
    let asks (i : Instr) (op : W16) (role : Nat) : Prop :=
      i = .ident q ∧ op = 0x01 ∧ role = 0 ∨ i = .telemetryGet q ∧ op = 0x02 ∧ role = 0 ∨
      (∃ n, i = .telemetrySub q n) ∧ op = 0x03 ∧ role = 0 ∨ (∃ a n, i = .logRead q a n) ∧ op = 0x04 ∧ role = 0 ∨
      (∃ w, i = .power q w) ∧ op = 0x10 ∧ role = 1 ∨ (∃ a, i = .test q a) ∧ op = 0x20 ∧ role = 1 ∨
      (∃ r, i = .testCancel q r) ∧ op = 0x21 ∧ role = 1 ∨ (∃ r, i = .debugEngage q r) ∧ op = 0x30 ∧ role = 2 ∨
      (∃ r, i = .debugEnd q r) ∧ op = 0x31 ∧ role = 2 ∨ (∃ m, i = .debugHalt q m) ∧ op = 0x32 ∧ role = 2 ∨
      (∃ m, i = .debugStep q m) ∧ op = 0x33 ∧ role = 2 ∨ (∃ m, i = .debugResume q m) ∧ op = 0x34 ∧ role = 2 ∨
      (∃ r k m o n, i = .debugRead q r k m o n) ∧ op = 0x35 ∧ role = 2 ∨
      (∃ c a, i = .lifeCycle q c a) ∧ op = 0x40 ∧ role = 3 ∨ (∃ d, i = .anchorSet q d) ∧ op = 0x41 ∧ role = 3 ∨
      (∃ m, i = .spdm q m) ∧ op = 0x50 ∧ role = 0
    let tells (i : Instr) (op : W16) (status : Byte) (body : List Byte) : Prop :=
      ∃ t, exec i s = .next t ∧ Sent s (response q op status body) t
    let closed (gone : Nat → Bool) (t : State) : Prop :=
      (∀ k, sget? t.mgmt.sessions k = if gone k then none else sget? g.sessions k) ∧ t.mgmt.out = g.out ∧ t.tenants = s.tenants ∧
        t.races = s.races ∧ t.mem = s.mem ∧ t.sec = s.sec
    (∀ i op role, asks i op role → sget? g.sessions q.session.val = none → exec i s = .next s) ∧
    (∀ i op role x, asks i op role → sget? g.sessions q.session.val = some x →
      (8 ≤ x.waiting.length → ∃ t, exec i s = .next t ∧ closed (fun k => k = q.session.val) t) ∧
      (x.waiting = [] → x.roles.getLsbD role = false → tells i op 0x01 []) ∧
      (x.waiting = [] → x.roles.getLsbD role = true → s.hopFull .device 8192 = true → tells i op 0x02 []) ∧
      (x.waiting ≠ [] → x.waiting.length < 8 → (∀ w ∈ x.waiting, w.msg = none ∧ (w.op, w.id) ≠ (op, q.id)) →
        x.roles.getLsbD role = false → ∃ t, exec i s = .next t ∧ t.mgmt.out = g.out ∧
          sget? t.mgmt.sessions q.session.val = some { x with waiting := x.waiting ++
            [{ op := op, id := q.id, msg := some (response q op 0x01 []) }] })) ∧
    (∀ x, Admitted s q 0 x →
      tells (.ident q) 0x01 0 (Config.bodyLayout 0x01 [s.regValue 0x0, s.regValue 0x8, s.regValue 0x800000, x.roles.toNat]) ∧
      tells (.telemetryGet q) 0x02 0 (Config.telemetryLayout s.sample) ∧
      (∀ n : W16, (n ≠ 0 ∧ n.toNat < 10 ∨ 60000 < n.toNat → tells (.telemetrySub q n) 0x03 0x04 []) ∧
        (n = 0 ∨ 10 ≤ n.toNat ∧ n.toNat ≤ 60000 → ∃ t, exec (.telemetrySub q n) s = .next t ∧
          t.mgmt.out = g.out ++ [response q 0x03 0 []] ∧
          sget? t.mgmt.sessions q.session.val = some { x with interval := n })) ∧
      (∀ a n, (n = 0 ∨ 1024 < n.toNat → tells (.logRead q a n) 0x04 0x04 []) ∧
        (n ≠ 0 → n.toNat ≤ 1024 → tells (.logRead q a n) 0x04 0
          (Config.bodyLayout 0x04 [g.logSeq.toNat - g.log.length - a.toNat] ++
            ((g.log.filter (fun r => a.toNat ≤ r.seq.toNat)).take n.toNat).flatMap LogRec.bytes))) ∧
      (∀ m, ∃ t, exec (.spdm q m) s = .next t ∧ Sent { s with sec := { s.sec with draws := s.sec.draws + 1 } }
        (response q 0x50 0 (Config.spdmResponse s.sec.draws m)) t)) ∧
    (∀ x (w : W32), Admitted s q 1 x → (s.start.ready = false → tells (.power q w) 0x10 0x05 []) ∧
      (∀ c, s.start.ready = true → s.pwr.cmd = some c → BitVec.ofNat 2 w.toNat ≠ 3 ∨ c.moving = true →
        tells (.power q w) 0x10 0x02 []) ∧
      (s.start.ready = true → s.pwr.cmd = none →
        let c : PwrCmd := { kind := BitVec.ofNat 2 w.toNat, domain := BitVec.ofNat 7 (fld w.toNat 2 7)
                            st := BitVec.ofNat 2 (fld w.toNat 9 2), mhz := BitVec.ofNat 11 (fld w.toNat 11 11), req := some q }
        c.kind ≠ 3 → s.cmdCheck c = 0 → ∃ t, exec (.power q w) s = .next t ∧ t.pwr.cmd = some c ∧ t.mgmt.out = g.out ∧
          sget? t.mgmt.sessions q.session.val = some { x with waiting := [{ op := 0x10, id := q.id }] })) ∧
    (∀ x code args, Admitted s q 3 x → (operatorCode code = false → tells (.lifeCycle q code args) 0x40 0x04 []) ∧
      (operatorCode code = true → s.sec.busy = true → tells (.lifeCycle q code args) 0x40 0x02 []) ∧
      (∀ y, s.sec.busy = false → s.sec.lc = some y → ∃ t, exec (.lifeCycle q 0x01 args) s = .next t ∧
        t.sec = { s.sec with busy := true, code := 0x01, served := true, asker := some q, opArg := args
                             opRsp := 0 :: s.sec.lcBytes y } ∧ t.mgmt.out = g.out)) ∧
    (∀ x, sget? g.sessions q.session.val = some x → x.waiting = [{ op := 0x40, id := q.id }] → s.sec.asker = some q →
      s.sec.busy = true → s.sec.served = true → s.sec.pending = false → s.sec.fwNext = [] →
      ∃ t, exec .mbxCommandEnd s = .next t ∧ t.mgmt.out = g.out ++ [response q 0x40 0 s.sec.opRsp] ∧ t.sec.busy = false ∧
        t.sec.done = s.sec.done ∧ t.sec.asker = none) ∧
    (∀ x der y, Admitted s q 3 x → (der = [] ∨ 1952 < der.length → tells (.anchorSet q der) 0x41 0x04 []) ∧
      (der ≠ [] → der.length ≤ 1952 → s.tlsReady = false → tells (.anchorSet q der) 0x41 0x05 []) ∧
      (der ≠ [] → der.length ≤ 1952 → s.tlsReady = true → s.sec.slot 6 = some y → y.gen.toNat + 1 < 2 ^ 64 →
        (Config.anchorWellFormed der = false → tells (.anchorSet q der) 0x41 0x06 []) ∧
        (Config.anchorWellFormed der = true → ∃ t, exec (.anchorSet q der) s = .next t ∧
          t.mgmt.out = g.out ++ [response q 0x41 0 []] ∧ t.mgmt.sessions = [] ∧ t.sec.anchor = some der))) ∧
    (∀ len y, s.sec.slot 6 = some y → y.gen.toNat + 1 < 2 ^ 64 → y.cls = 0 → 1 ≤ len.toNat → len.toNat ≤ 1952 →
      Config.anchorWellFormed (g.anchorBytes len.toNat) = true → s.sec.state ≠ 3 → s.sec.pending = false → s.sec.locked = false →
      ∃ t, exec (.install len) s = .next t ∧ t.sec.anchor = some (g.anchorBytes len.toNat) ∧ t.mgmt.installed = true ∧
        t.mgmt.sessions = []) ∧
    (∀ len y, s.sec.slot 6 = some y → y.cls ≠ 0 → ∃ t, exec (.install len) s = .next t ∧ t.mgmt.refused = true ∧
      t.sec = s.sec ∧ t.mgmt.sessions = g.sessions ∧ t.start.errSet = true) ∧
    (∀ cert k, s.tlsReady = true → s.drbgServes = true →
      (List.range 4).find? (fun k => (sget? g.sessions k).isNone) = some k →
      (s.sec.anchor = some cert.issuer → cert.rsa4096 = true → cert.pssValid = true →
        ∃ t, exec (.tlsConnect cert) s = .next t ∧
          t = { s with mgmt := { g with sessions := sset g.sessions k { roles := cert.roles } } }) ∧
      (s.sec.anchor ≠ some cert.issuer ∨ cert.rsa4096 = false ∨ cert.pssValid = false →
        ∃ t, exec (.tlsConnect cert) s = .next t ∧ t.mgmt.sessions = g.sessions ∧ t.mgmt.authFail = true ∧
          t.mgmt.logSeq = g.logSeq + 1 ∧ { t with mgmt := g } = s)) ∧
    (∀ cert, s.tlsReady = false ∨ (∀ k < 4, (sget? g.sessions k).isSome = true) → exec (.tlsConnect cert) s = .next s) ∧
    (∀ (i : Instr) (k : Fin 4), i = .sessionIdle k ∨ i = .sessionClosed k →
      ∃ t, exec i s = .next t ∧ closed (fun j => j = k.val) t) ∧
    (∀ (k : Fin 4) x, sget? g.sessions k.val = some x → x.interval ≠ 0 → ∃ t, exec (.telemetry k) s = .next t ∧
      Sent s { session := k, op := 0x82, id := 0, status := 0, flags := 2
               body := Config.telemetryLayout (s.sample ++ [2 ^ g.decLog2.toNat, 2 ^ g.decLog2.toNat - 1]) } t) ∧
    (∀ (k : Fin 4) x, sget? g.sessions k.val = some x → x.interval = 0 → exec (.telemetry k) s = .next s) ∧
    (∀ high, g.decLog2.toNat ≤ 6 → ∃ t, exec (.decimation high) s = .next t ∧ { t with mgmt := g } = s ∧
      { t.mgmt with decLog2 := g.decLog2 } = g ∧
      t.mgmt.decLog2.toNat = if high then min 6 (g.decLog2.toNat + 1) else g.decLog2.toNat - 1) ∧
    (s.pwr.alive = true → ∃ t, exec .mgcWatchdog s = .next t ∧ t.mgmt.sessions = [] ∧ t.mgmt.restarts = satInc g.restarts ∧
      t.tenants = s.tenants ∧ t.races = s.races ∧ t.mem = s.mem ∧ t.sec = s.sec) ∧
    (s.pwr.alive = false → exec .mgcWatchdog s = .next s)

/-- R66, R427 to R431, R433, Tables 17-8 to 17-10, 17-13: an operator's or the host's test request is refused with its
status, or pending or running; a cancel ends a pending test and stops a march; a destructive test starts at a boundary on a
held race; TEST_DONE delivers the record and leaves what the code's row says: nothing, a zeroed scratchpad, a mill to be
mapped out, a zeroed range, a lost channel. -/
def Obligations.TestRequests : Prop :=
  ∀ (s : State), let g := s.mgmt
    let tells (q : ReqId) (i : Instr) (op : W16) (status : Byte) : Prop :=
      ∃ t, exec i s = .next t ∧ Sent s (response q op status []) t
    let words (x : TestRun) (result : Byte) (f : TestFound) : Vector W32 8 :=
      Vector.ofFn (fun k => BitVec.ofNat 32 (leAt (testRecord x result s.tick.count f) (4 * k.val) 4))
    let taken (x : TestRun) (t : State) : Prop :=
      t.test? x.race.toNat = some { x with running := !destructive x.code } ∧
      (∀ k, k ≠ x.race.toNat → t.test? k = s.test? k) ∧ t.mem = s.mem ∧
      ∀ r : RaceId, t.races[r] = if r.val = x.race.toNat then { s.races[r] with testPending := destructive x.code } else s.races[r]
    let gone (race : Nat) (t : State) : Prop := t.test? race = none ∧ (∀ k, k ≠ race → t.test? k = s.test? k) ∧
      ∀ r : RaceId, r.val = race → t.races[r].testPending = false
    let hosts (x : TestRun) (result : Byte) (f : TestFound) (t : State) : Prop :=
      t.mgmt.done = true ∧ t.mgmt.result = words x result f
    (∀ q a x, Admitted s q 1 x →
      (s.testFields a = false → tells q (.test q a) 0x20 0x04) ∧
      (s.testFields a = true → (s.test? a.race.toNat).isSome = true → tells q (.test q a) 0x20 0x02) ∧
      (s.testFields a = true → s.test? a.race.toNat = none →
        (s.testRefused (testOf a (some q)) = none → ∃ t, exec (.test q a) s = .next t ∧ taken (testOf a (some q)) t ∧
          t.mgmt.out = g.out ++ [response q 0x20 0 []]) ∧
        (∀ res, s.testRefused (testOf a (some q)) = some res → ∃ t tail, exec (.test q a) s = .next t ∧
          t.mgmt.tests = g.tests ∧ t.mgmt.out = g.out ++ [response q 0x20 0 [],
            { session := q.session, op := 0x81, id := 0, status := 0, flags := 2
              body := testRecord (testOf a (some q)) res s.tick.count noFinding }] ++ tail))) ∧
    (∀ a, (s.testFields a = true → a.code = 0x11 → marchSpan a.race a.start a.length = none →
        s.testRefused (testOf a none) = some 0x04) ∧
      (a.code.toNat < 0x10 → s.testRefused (testOf a none) = none)) ∧
    (∀ code race unit, let a := g.hostArgs code race unit
      let x := testOf a none
      (g.hostTest = none → s.testFields a = true → s.test? race.toNat = none → s.testRefused x = none →
        ∃ t, exec (.go code race unit) s = .next t ∧ taken x t ∧ t.mgmt.reqCode = code ∧ t.mgmt.reqRace = race ∧
          t.mgmt.reqUnit = unit ∧ t.mgmt.out = g.out) ∧
      (g.hostTest = none → s.testFields a = false → ∃ t, exec (.go code race unit) s = .next t ∧
        hosts x 0x08 noFinding t ∧ t.mgmt.tests = g.tests) ∧
      (g.hostTest = none → s.testFields a = true → (s.test? race.toNat).isSome = true →
        ∃ t, exec (.go code race unit) s = .next t ∧ hosts x 0x07 noFinding t ∧ t.mgmt.tests = g.tests) ∧
      (g.hostTest ≠ none → ∃ t, exec (.go code race unit) s = .next t ∧ hosts x 0x07 noFinding t ∧ t.mgmt.tests = g.tests ∧
        t.start.errSet = true)) ∧
    (∀ q race x, Admitted s q 1 x →
      (8 ≤ race.toNat → race ≠ 15 → tells q (.testCancel q race) 0x21 0x04) ∧
      (race.toNat < 8 ∨ race = 15 → s.test? race.toNat = none → tells q (.testCancel q race) 0x21 0x05) ∧
      (∀ y, race.toNat < 8 ∨ race = 15 → s.test? race.toNat = some y →
        (y.running = false → ∃ t tail, exec (.testCancel q race) s = .next t ∧ gone race.toNat t ∧
          t.mgmt.out = g.out ++ response q 0x21 0 [] :: tail ∧ (y.from? = none → hosts y 0x05 noFinding t)) ∧
        (y.running = true → y.code = 0x11 → ∃ t, exec (.testCancel q race) s = .next t ∧
          t.test? race.toNat = some { y with cancel := true } ∧ t.mgmt.out = g.out ++ [response q 0x21 0 []]) ∧
        (y.running = true → y.code ≠ 0x11 → tells q (.testCancel q race) 0x21 0))) ∧
    (g.hostTest = none → exec .mgtTestCancel s = .next s) ∧
    (∀ y, g.hostTest = some y → s.test? y.race.toNat = some y → y.running = false → ∃ t, exec .mgtTestCancel s = .next t ∧
      gone y.race.toNat t ∧ hosts y 0x05 noFinding t) ∧
    (∀ (r : RaceId) y, s.test? r.val = some y → y.running = false → s.boundary = true → s.raceHeld r = true → s.scrubbing r = false →
      (s.testRefused y = none → ∃ t, exec (.testStart r) s = .next t ∧ t.test? r.val = some { y with running := true } ∧
        (∀ k, k ≠ r.val → t.test? k = s.test? k) ∧ { t with mgmt := g } = s) ∧
      (∀ res, s.testRefused y = some res → ∃ t, exec (.testStart r) s = .next t ∧ gone r.val t ∧
        (y.from? = none → hosts y res noFinding t))) ∧
    (∀ r : RaceId, s.boundary = false ∨ s.raceHeld r = false ∨ s.test? r.val = none → exec (.testStart r) s = .next s) ∧
    (∀ race f, s.test? race.toNat = none → exec (.testDone race f) s = .next s) ∧
    (∀ (race : BitVec 4) (f : TestFound) y, s.test? race.toNat = some y → y.race = race →
      (y.running = false → exec (.testDone race f) s = .next s) ∧
      (y.running = true → y.from? = none →
        let pass : Byte := if f.bad = 0 then 0 else 1
        let r : RaceId := Fin.ofNat 8 race.toNat
        (y.code.toNat = 2 ∨ y.code.toNat = 3 ∨ y.code.toNat = 4 ∨ y.code.toNat = 1 ∧ f.bad = 0 → ∃ t, exec (.testDone race f) s = .next t ∧ gone race.toNat t ∧
          hosts y pass f t ∧ t.mem = s.mem ∧ t.tenants = s.tenants) ∧
        (y.code = 0x05 → ∃ t, exec (.testDone race f) s = .next t ∧ gone race.toNat t ∧
          hosts y (if f.ok.toNat + f.bad.toNat < 2 ^ 27 then 2 else pass) { f with detail := 0 } t) ∧
        (y.code = 0x10 → ∃ t, exec (.testDone race f) s = .next t ∧ gone race.toNat t ∧ hosts y pass f t ∧
          t.mem = memZero s.mem (scratchAddr r y.unit.toNat 0) (2 ^ 21) ∧
          (∀ k, f.bad ≠ 0 → s.millAt r y.unit.toNat = some k → s.races[r].spareUse = false → s.races[r].spareBad = false →
            t.races[r].retired = true ∧ k ∈ t.races[r].toMap)) ∧
        (∀ sp, y.code = 0x11 → marchSpan y.race y.start y.length = some sp → f.bursts = [] → ∃ t, exec (.testDone race f) s = .next t ∧
          gone race.toNat t ∧ t.mem = (s.zeroSpan sp).mem ∧ hosts y (if y.cancel then 5 else pass) f t) ∧
        (y.code = 0x12 → race.toNat < 8 → y.unit.toNat < 46 → ∃ t, exec (.testDone race f) s = .next t ∧ gone race.toNat t ∧
          hosts y pass f t ∧ (f.bad ≠ 0 → t.races[r].mem.lost (Fin.ofNat 46 y.unit.toNat) = true))))

/-- R351, R352, R432: race debug marks a race for its tenant and tells it; a halted mill reports its sequencer, runs one
bundle and resumes; ending the debug resumes every halted mill; a debug read gives scratchpad, buffer, tier or register bytes
of an engaged race; without the engagement, or out of range, the request is refused with its status. -/
def Obligations.DebugSessions : Prop :=
  ∀ (s : State) (q : ReqId) (x : OpSess), Admitted s q 2 x → let g := s.mgmt
    let tells (i : Instr) (op : W16) (status : Byte) (body : List Byte) : Prop :=
      ∃ t, exec i s = .next t ∧ Sent s (response q op status body) t
    (∀ r : RaceId, s.engaged r = true → tells (.debugEngage q r) 0x30 0 []) ∧
    (∀ r : RaceId, s.engaged r = false →
      (s.owner r = none → ∃ t, exec (.debugEngage q r) s = .next t ∧
        Sent { s with mgmt := { g with engaged := g.engaged ||| raceBit r } } (response q 0x30 0 []) t) ∧
      (∀ u, s.owner r = some u → ∃ t front, exec (.debugEngage q r) s = .next t ∧
        t.mgmt.engaged = g.engaged ||| raceBit r ∧ t.mgmt.out = g.out ++ front ++ [response q 0x30 0 []] ∧
        OnlyTenant u s { s.tenants[u] with
          debugRaces := s.tenants[u].debugRaces ||| raceBit r, debugAbort := s.tenants[u].debugAbort || s.hasRound u
          jnl := { s.tenants[u].jnl with
            events := s.tenants[u].jnl.events ++ [{ cls := 0x20, race := BitVec.ofNat 8 r.val }] } } { t with mgmt := g })) ∧
    (∀ r : RaceId, (s.engaged r = false → tells (.debugEnd q r) 0x31 0x05 []) ∧
      (s.engaged r = true → (∀ u : TenantId, s.tenants[u].state.owns = false → s.tenants[u].debugRaces &&& raceBit r = 0) →
        ∃ t, exec (.debugEnd q r) s = .next t ∧ t.mgmt.engaged = g.engaged &&& ~~~(raceBit r) ∧
          t.mgmt.out = g.out ++ [response q 0x31 0 []] ∧ t.tenants = s.tenants ∧
          OnlyRace r s { s.races[r] with mills := s.races[r].mills.map (fun m => { m with halted := false }) } { t with mgmt := g, tenants := s.tenants })) ∧
    (∀ m : MillName, (s.engaged m.race = false → tells (.debugHalt q m) 0x32 0x05 [] ∧ tells (.debugStep q m) 0x33 0x05 [] ∧
        tells (.debugResume q m) 0x34 0x05 []) ∧
      ((s.mill m).halted = false → tells (.debugStep q m) 0x33 0x05 [] ∧ tells (.debugResume q m) 0x34 0x05 []) ∧
      (s.engaged m.race = true → s.millTested m = false → ∃ t, exec (.debugHalt q m) s = .next t ∧
        Sent (s.modMill m (fun y => { y with halted := true }))
          (response q 0x32 0 (Config.bodyLayout 0x32 { s.mill m with halted := true }.report)) t) ∧
      (s.engaged m.race = true → (s.mill m).halted = true →
        (∃ t, exec (.debugResume q m) s = .next t ∧
          Sent (s.modMill m (fun y => { y with halted := false })) (response q 0x34 0 []) t) ∧
        (∀ f id, (s.mill m).image = some f → imgBundle f (s.mill m).pc = 0 → (s.mill m).item = some id →
          (s.mill m).ended = false → (s.mill m).bar = none →
          let y := { ({ s.mill m with halted := false } : Mill).advance with halted := true }
          ∃ t, exec (.debugStep q m) s = .next t ∧
            Sent (s.modMill m (fun _ => y)) (response q 0x33 0 (Config.bodyLayout 0x33 y.report)) t) ∧
        (∀ u, ((s.modMill m (fun y => { y with halted := false })).runBundle m) = u → sget? u.mgmt.sessions q.session.val = some x →
          ∃ t, exec (.debugStep q m) s = .next t ∧ Sent (u.modMill m (fun y => { y with halted := true }))
            (response q 0x33 0 (Config.bodyLayout 0x33 { u.mill m with halted := true }.report)) t))) ∧
    (∀ (r : RaceId) (kind : Byte) (mill : Fin 24) (off : W48) (len : W16),
      let reads := Instr.debugRead q r kind mill off len
      let last := off.toNat + len.toNat
      (s.engaged r = false → tells reads 0x35 0x05 []) ∧
      (s.engaged r = true → len.toNat < 4 ∨ 61440 < len.toNat → tells reads 0x35 0x04 []) ∧
      (s.engaged r = true → 4 ≤ len.toNat → len.toNat ≤ 61440 → s.debugSealed r = true → tells reads 0x35 0x06 []) ∧
      (s.engaged r = true → 4 ≤ len.toNat → len.toNat ≤ 61440 → s.debugSealed r = false →
        (kind = 0 → last ≤ 2 ^ 21 → tells reads 0x35 0 (s.spadRead { race := r, mill := mill } off.toNat len.toNat)) ∧
        (kind = 1 → last ≤ 2 ^ 24 → tells reads 0x35 0 (memBytes s.mem (bufferAddr r off.toNat) len.toNat)) ∧
        (∀ (tierB : Bool) u bs, kind = (if tierB then 3 else 2) → last ≤ (if tierB then tenantTb else 64 * gib) →
          s.readSpan { race := r, tierB := tierB, off := off.toNat, len := len.toNat } false = (u, .ok bs) →
          sget? u.mgmt.sessions q.session.val = some x → ∃ t, exec reads s = .next t ∧ Sent u (response q 0x35 0 bs) t) ∧
        (∀ tierB : Bool, kind = (if tierB then 3 else 2) → (if tierB then tenantTb else 64 * gib) < last → tells reads 0x35 0x06 []) ∧
        (kind = 4 → off.toNat % 4 = 0 → len.toNat % 4 = 0 → last ≤ 0x80000 → tells reads 0x35 0
          ((List.range (len.toNat / 4)).flatMap (fun i => bytesLE 4 (s.regValue (raceReg r (off.toNat + 4 * i)))))) ∧
        (4 < kind.toNat → tells reads 0x35 0x04 [])))

-- ## Registers

/-- R13, R58, R105, R311, R342, R395, R433, R437, R448, R453, Tables 2-9 to 2-17, 19-2 and 19-5: a read of a low word latches
its high word; a write to a hole, or before READY outside the network registers, has no effect; a write that its rule accepts
is stored, and one that its rule refuses leaves the register, sets its chapter's flag and is recorded in MGT_WRITE_ERR. -/
def Obligations.RegisterAccess : Prop :=
  ∀ (s : State), let k := s.tick
    let reads (a : BitVec 24) (t : State) : Prop := exec (.latchedRead a) s = .next t
    let writes (a : Nat) (v : W32) (t : State) : Prop := exec (.registerWrite (BitVec.ofNat 24 a) v) s = .next t
    let refused (a : Nat) (y t : State) : Prop := t = { y with start :=
      if s.start.errSet then { s.start with errMore := true } else { s.start with errSet := true, errAddr := BitVec.ofNat 24 a } }
    let open' : Prop := s.start.ready = true
    (∃ t, reads 0x2014 t ∧ t = { s with tick := { k with latch := BitVec.ofNat 32 (k.count.toNat / 2 ^ 32) } } ∧
      t.regValue 0x2018 = k.count.toNat / 2 ^ 32 ∧ t.regValue 0x2014 = k.count.toNat % 2 ^ 32) ∧
    (∃ t, reads 0x6208 t ∧ t = { s with net := { s.net with latch := BitVec.ofNat 32 (s.net.time.toNat / 2 ^ 32) } }) ∧
    (∀ u : TenantId, ∃ t, reads (BitVec.ofNat 24 (0xA104 + 0x10 * u.val)) t ∧
      t.regValue (0xA108 + 0x10 * u.val) = s.tenants[u].jnl.commitTick.toNat / 2 ^ 32 ∧
      { t with tick := { t.tick with commitLatch := k.commitLatch } } = s) ∧
    (∀ a : BitVec 24, a ≠ 0x2014 → a ≠ 0x6208 → a ≠ 0x9054 → (∀ u : TenantId, a.toNat ≠ 0xA104 + 0x10 * u.val) →
      a.toNat % 4 = 0 → reads a s) ∧
    (∀ (a : BitVec 24) (v : W32), a.toNat % 4 ≠ 0 ∨ 0x810000 ≤ a.toNat ∧ a.toNat < 0xC00000 ∨
      s.start.ready = false ∧ (a.toNat < 0x6000 ∨ 0x9000 ≤ a.toNat) → exec (.registerWrite a v) s = .next s) ∧
    (open' → ∀ v : W32,
      (∃ t, writes 0x10 v t ∧ t = { s with start := { s.start with scratch := v } } ∧ t.regValue 0x10 = v.toNat) ∧
      (∃ t, writes 0x14 v t ∧ t = { s with start := { s.start with
        errSet := s.start.errSet && !v.getLsbD 24, errMore := s.start.errMore && !v.getLsbD 25 } }) ∧
      (let p := v.toNat % 2 ^ 15
       let f := v.toNat / 2 ^ 16 % 2 ^ 11
       let fits : Prop := 25 ≤ p ∧ p ≤ 20000 ∧ 100 ≤ f ∧ f ≤ 1250 ∧ f ≤ s.pwr.curMhz.toNat
       (k.running = false → fits → ∃ t, writes 0x2004 v t ∧
          t = { s with tick := { k with period := BitVec.ofNat 15 p, priceMhz := BitVec.ofNat 11 f } }) ∧
       (k.running = true ∨ ¬ fits → ∃ t, writes 0x2004 v t ∧ refused 0x2004 { s with tick := { k with paramErr := true } } t)) ∧
      (∃ t, writes 0x2010 v t ∧ t = { s with tick := { k with
        lockLost := k.lockLost && !v.getLsbD 2, paramErr := k.paramErr && !v.getLsbD 3, planErr := k.planErr && !v.getLsbD 4
        overrun := k.overrun && !v.getLsbD 5, overrunCnt := if v.getLsbD 5 then 0 else k.overrunCnt } }) ∧
      (∀ x : BitVec 2, x = BitVec.ofNat 2 v.toNat → x ≠ k.source →
        (x = 1 ∨ x = 2 → 1000000 % k.period.toNat ≠ 0 → ∃ t, writes 0x2008 v t ∧
          refused 0x2008 { s with tick := { k with paramErr := true } } t) ∧
        (x ≠ 1 ∧ x ≠ 2 ∨ 1000000 % k.period.toNat = 0 → ∃ t, writes 0x2008 v t ∧ t.tick.source = x ∧ t.tick.locked = false ∧
          t.tick.period = k.period)) ∧
      (∀ (path : Fin 13) (word : Fin 8), (∀ u : TenantId, s.serves u = false) →
        ∃ t, writes (0x2100 + 0x20 * path.val + 4 * word.val) v t ∧ { t with tick := { t.tick with slots := k.slots } } = s ∧
          (∀ p : Fin 13, p ≠ path → t.tick.slots[p] = k.slots[p]) ∧
          (∀ i : Fin 64, t.tick.slots[path][i] =
            if i.val / 8 = word.val then BitVec.ofNat 4 (v.toNat / 2 ^ (4 * (i.val % 8))) else k.slots[path][i])) ∧
      (∀ (path : Fin 13) (i : Fin 64), BitVec.ofNat 4 (v.toNat / 2 ^ (4 * (i.val % 8))) ≠ k.slots[path][i] →
        s.entryServed k.slots[path][i] = true ∨ s.entryServed (BitVec.ofNat 4 (v.toNat / 2 ^ (4 * (i.val % 8)))) = true →
        ∃ t, writes (0x2100 + 0x20 * path.val + 4 * (i.val / 8)) v t ∧ t.tick.slots[path][i] = k.slots[path][i] ∧
          t.tick.planErr = true ∧ t.start.errSet = true) ∧
      (∀ u : TenantId,
        (s.serves u = false → ∃ t, writes (0x2300 + 4 * u.val) v t ∧ OnlyTenant u s { s.tenants[u] with
          share := Vector.ofFn (fun c => BitVec.ofNat 4 (v.toNat / 2 ^ (4 * c.val))) } t) ∧
        (s.serves u = true → Vector.ofFn (fun c : Fin 4 => BitVec.ofNat 4 (v.toNat / 2 ^ (4 * c.val))) ≠ s.tenants[u].share →
          ∃ t, writes (0x2300 + 4 * u.val) v t ∧
            refused (0x2300 + 4 * u.val) { s with tick := { k with planErr := true } } t) ∧
        (s.setupOpen u = true → s.sec.fwNext = [] → ∃ t, writes (0x1000 + 0x20 * u.val) v t ∧ OnlyTenant u s { s.tenants[u] with
          races := BitVec.ofNat 8 v.toNat, rounds := BitVec.ofNat 5 (v.toNat / 2 ^ 8)
          keySlots := BitVec.ofNat 11 (v.toNat / 2 ^ 13), state := if v.toNat % 2 ^ 8 = 0 then .free else .configured } t) ∧
        (s.setupOpen u = false → s.sec.fwNext = [] → ∃ t, writes (0x1000 + 0x20 * u.val) v t ∧
          refused (0x1000 + 0x20 * u.val) { s with tick := { k with planErr := true } } t) ∧
        (s.setupOpen u = true → ∃ t, writes (0x800120 + 0x40 * u.val) v t ∧
          OnlyTenant u s { s.tenants[u] with cells := BitVec.ofNat 11 v.toNat } t)) ∧
      (∀ r : RaceId, let a := 0xC00000 + 0x80000 * r.val
        let e := v.toNat / 4 % 2 ^ 5
        (s.raceServed r = false → 8 ≤ e → e ≤ 23 → ∃ t, writes (a + 0x300) v t ∧ OnlyRace r s { s.races[r] with
          intEn := v.getLsbD 0, floatEn := v.getLsbD 1, tolExp := BitVec.ofNat 5 e } t) ∧
        (s.raceServed r = false → e < 8 ∨ 23 < e → ∃ t, writes (a + 0x300) v t ∧ t.races[r] = { s.races[r] with
          intEn := v.getLsbD 0, floatEn := v.getLsbD 1 } ∧ t.start.errSet = true) ∧
        (s.raceServed r = true → ∃ t, writes (a + 0x300) v t ∧ refused (a + 0x300) s t) ∧
        (∃ t, writes (a + 0x304) v t ∧ OnlyRace r s { s.races[r] with
          mismatch := s.races[r].mismatch && !v.getLsbD 0, retired := s.races[r].retired && !v.getLsbD 1 } t) ∧
        (s.raceServed r = false → ∃ t, writes (a + 0x200) v t ∧ OnlyRace r s { s.races[r] with
          classMills := Vector.ofFn (fun c => BitVec.ofNat 5 (v.toNat / 2 ^ (5 * c.val))) } t)) ∧
      (s.net.enable = false → ∃ t, writes 0x6004 v t ∧ t = { s with net := { s.net with
        moduleId := BitVec.ofNat 16 v.toNat, pathsM1 := BitVec.ofNat 4 (v.toNat / 2 ^ 16) } }) ∧
      (s.net.enable = true → ∃ t, writes 0x6004 v t ∧ refused 0x6004 { s with net := { s.net with cfgErr := true } } t) ∧
      (∃ t, writes 0xA004 v t ∧ t = { s with tick := { k with warmReq := k.warmReq || v = 0x57525354 } }) ∧
      (∀ i : Fin 1024, ∃ t, writes (0x801000 + 4 * i.val) v t ∧ t = { s with sec := { s.sec with arg := sset s.sec.arg i.val v } }) ∧
      (s.rng.rawActive = true → v.getLsbD 0 = s.rng.rawReq → v.getLsbD 5 ≠ s.rng.freeze →
        ∃ t, writes 0x9000 v t ∧ refused 0x9000 s t) ∧
      (s.mgmt.hostTest ≠ none → ∃ t, writes 0xC104 v t ∧ refused 0xC104 s t) ∧
      (s.mgmt.hostTest = none → ∃ t, writes 0xC104 v t ∧ t = { s with mgmt := { s.mgmt with args := s.mgmt.args.set 0 v } }))

-- ## Reset and invariants

/-- The Reset columns of chapters 0 to 19: what the registers read right after the supplies appear; every tenant is Free, no
round is open, nothing is queued, and memory lists nothing. -/
def Obligations.ResetValues : Prop :=
  let s := State.reset
  (∀ x ∈ [(0xC, 8 + 24 * 2 ^ 4 + 25 * 2 ^ 9 + 18 * 2 ^ 14 + 8 * 2 ^ 19 + 4 * 2 ^ 23), (0x4, 0), (0x10, 0), (0x14, 0), (0x1000, 0),
      (0x1008, 0), (0x2000, 5 * 2 ^ 4), (0x2004, 0x3E8 + 0x4E2 * 2 ^ 16), (0x2008, 0), (0x2010, 0), (0x2014, 0), (0x2100, 0xFFFFFFFF),
      (0x2300, 0), (0x3000, 1), (0x3100, 0x3800), (0x4000, 0), (0x4004, 0), (0x4400, 0), (0x5000, 64 + 16 * 2 ^ 7), (0x5100, 0),
      (0x6000, 0), (0x6004, 3 * 2 ^ 16), (0x600C, 0xD2A5 + 0xC000 * 2 ^ 16), (0x6040, 10), (0x6044, 0), (0x7000, 0), (0x9000, 0),
      (0x9004, 0), (0x9010, 0x200 * 2 ^ 4), (0xA000, 0), (0xA100, 290229), (0xB004, 0x4E2 * 2 ^ 16), (0xB010, 0), (0xC004, 0),
      (0xC100, 0), (0xD000, 0), (0xE000, 0), (0x800120, 0), (0x800804, 0)], s.regValue x.1 = x.2) ∧
  (∀ r : RaceId, ∀ x ∈ [(0x0, r.val), (0x200, 0), (0x204, 0), (0x300, 1 + 2 + 14 * 2 ^ 2), (0x304, 0), (0x308, 24), (0x400, 1),
      (0x600, 0), (0x800, 0), (0x808, 0), (0xA00, 64 + 1000 * 2 ^ 10), (0xA04, 0), (0x2008, 6 + 2 ^ 12), (0x2408, 7 + 2 ^ 6)],
    s.regValue (0xC00000 + 0x80000 * r.val + x.1) = x.2) ∧
  (∀ r : RaceId, ∀ k : Fin 24, s.regValue (0xC00340 + 0x80000 * r.val + 4 * k.val) = k.val) ∧
  (∀ u : TenantId, s.tenants[u].state = .free) ∧ (∀ k : Fin 64, s.rounds[k] = none) ∧ s.pending = [] ∧ s.mem = []

/-- A memory in canonical form lists rising addresses and no byte that an unlisted address reads as: reset has that form. -/
def Obligations.ResetMemoryIsCanonical : Prop := memWf State.reset.mem = true

/-- Every step keeps the memory of the block in its canonical form, from any state that has it. -/
def Obligations.StepsKeepMemoryCanonical : Prop :=
  ∀ s t : State, memWf s.mem = true → step s = .next t → memWf t.mem = true

/-- Every step answers a next state: no command stops the block. -/
def Obligations.StepsNeverStop : Prop := ∀ s : State, ∃ t, step s = .next t
end

