-- ==== Sys2Proof/Laws/Memory.lean ====
section
/-! SUPPORT. The addressed memory: every operation keeps the canonical form, a read after a write gives what was
written, and a write leaves every other address alone. -/

namespace Sys2Proof.Machine

/-- The canonical form of a list with a first cell. -/
theorem memWf_cons (a : Nat) (b : Byte) (rest : List Host.Cell) :
    memWf ((a, b) :: rest) = true ↔ b ≠ 0 ∧ (∀ c ∈ rest, a < c.1) ∧ memWf rest = true := by
  induction rest generalizing a b with
  | nil => simp [memWf]
  | cons c rest ih =>
    obtain ⟨a', b'⟩ := c
    have h := ih a' b'
    simp only [memWf, Bool.and_eq_true, bne_iff_ne, ne_eq, decide_eq_true_eq, List.mem_cons, forall_eq_or_imp]
    constructor
    · rintro ⟨⟨hb, hlt⟩, hw⟩
      refine ⟨hb, ⟨hlt, fun c hc => ?_⟩, hw⟩
      exact Nat.lt_trans hlt ((h.1 hw).2.1 c hc)
    · rintro ⟨hb, ⟨hlt, -⟩, hw⟩
      exact ⟨⟨hb, hlt⟩, hw⟩

/-- An address below every listed one reads 0. -/
theorem memGet_below (m : List Host.Cell) (k : Nat) (h : ∀ c ∈ m, k < c.1) : memGet m k = 0 := by
  cases m with
  | nil => rfl
  | cons c rest =>
    obtain ⟨a, b⟩ := c
    have : k < a := h (a, b) (by simp)
    simp [memGet, Nat.ne_of_gt this, this]

theorem mem_memPut (m : List Host.Cell) (k : Nat) (v : Byte) (c : Host.Cell) (h : c ∈ memPut m k v) :
    c.1 = k ∨ c ∈ m := by
  induction m with
  | nil =>
    simp only [memPut] at h
    split at h
    · simp at h
    · simp only [List.mem_singleton] at h; exact .inl (by rw [h])
  | cons d rest ih =>
    obtain ⟨a, b⟩ := d
    simp only [memPut] at h
    split at h
    · split at h
      · exact .inr h
      · rcases List.mem_cons.1 h with h | h
        · exact .inl (by rw [h])
        · exact .inr h
    · split at h
      · split at h
        · exact .inr (List.mem_cons_of_mem _ h)
        · rcases List.mem_cons.1 h with h | h
          · exact .inl (by rw [h])
          · exact .inr (List.mem_cons_of_mem _ h)
      · rcases List.mem_cons.1 h with h | h
        · exact .inr (by rw [h]; simp)
        · rcases ih h with h | h
          · exact .inl h
          · exact .inr (List.mem_cons_of_mem _ h)

/-- A byte written keeps the canonical form. -/
theorem memPut_wf (m : List Host.Cell) (k : Nat) (v : Byte) (h : memWf m = true) : memWf (memPut m k v) = true := by
  induction m with
  | nil =>
    simp only [memPut]
    split <;> simp_all [memWf]
  | cons d rest ih =>
    obtain ⟨a, b⟩ := d
    have hc := (memWf_cons a b rest).1 h
    simp only [memPut]
    split
    · rename_i hk
      split
      · exact h
      · rename_i hv
        refine (memWf_cons k v _).2 ⟨hv, fun c hm => ?_, h⟩
        rcases List.mem_cons.1 hm with rfl | hm
        · exact hk
        · exact Nat.lt_trans hk (hc.2.1 c hm)
    · split
      · rename_i hk
        split
        · exact hc.2.2
        · rename_i hv
          exact (memWf_cons k v _).2 ⟨hv, fun c hm => by rw [hk]; exact hc.2.1 c hm, hc.2.2⟩
      · refine (memWf_cons a b _).2 ⟨hc.1, fun c hm => ?_, ih hc.2.2⟩
        rcases mem_memPut rest k v c hm with h' | h'
        · omega
        · exact hc.2.1 c h'

/-- Reading after a byte was written: the byte at its address, and everywhere else what stood there before. -/
theorem memGet_memPut (m : List Host.Cell) (k : Nat) (v : Byte) (j : Nat) (h : memWf m = true) :
    memGet (memPut m k v) j = if j = k then v else memGet m j := by
  induction m with
  | nil =>
    simp only [memPut]
    split
    · rename_i hv; simp [memGet, hv]
    · simp only [memGet]
      split
      · rename_i hk; simp [hk]
      · rename_i hk; simp [Ne.symm hk]
  | cons d rest ih =>
    obtain ⟨a, b⟩ := d
    have hc := (memWf_cons a b rest).1 h
    simp only [memPut]
    split
    · rename_i hk
      split
      · rename_i hv
        split
        · rename_i hj; simp [memGet, hj, hv, Nat.ne_of_gt hk, hk]
        · rfl
      · simp only [memGet]
        split
        · rename_i hj; simp [hj]
        · rename_i hj
          rw [if_neg (Ne.symm hj)]
          split
          · rename_i hl
            have : a ≠ j := by omega
            have h2 : j < a := by omega
            simp [this, h2]
          · rfl
    · split
      · rename_i hk
        subst hk
        split
        · rename_i hv
          split
          · rename_i hj; rw [hj, hv]; exact memGet_below rest k hc.2.1
          · rename_i hj
            simp only [memGet, if_neg (Ne.symm hj)]
            split
            · rename_i hl
              exact memGet_below rest j (fun c hm => Nat.lt_trans hl (hc.2.1 c hm))
            · rfl
        · simp only [memGet]
          split
          · rename_i hj; simp [hj]
          · rename_i hj; simp [Ne.symm hj]
      · rename_i h1 h2
        simp only [memGet, ih hc.2.2]
        split
        · rename_i hj; subst hj; rw [if_neg (by omega)]
        · split
          · rename_i hl; rw [if_neg (by omega)]
          · rfl

/-- Bytes written keep the canonical form. -/
theorem memPuts_wf (m : List Host.Cell) (a : Nat) (bs : List Byte) (h : memWf m = true) :
    memWf (memPuts m a bs) = true := by
  induction bs generalizing m a with
  | nil => exact h
  | cons b bs ih => exact ih _ _ (memPut_wf m a b h)

/-- Reading after bytes were written from `a`: those bytes, and everywhere else what stood there before. -/
theorem memGet_memPuts (m : List Host.Cell) (a : Nat) (bs : List Byte) (j : Nat) (h : memWf m = true) :
    memGet (memPuts m a bs) j =
      if a ≤ j ∧ j < a + bs.length then bs.getD (j - a) 0 else memGet m j := by
  induction bs generalizing m a with
  | nil => simp only [memPuts, List.length_nil]; rw [if_neg (by omega)]
  | cons b bs ih =>
    simp only [memPuts, ih _ _ (memPut_wf m a b h), memGet_memPut m a b j h, List.length_cons]
    by_cases h1 : j = a
    · subst h1
      rw [if_neg (by omega), if_pos rfl, if_pos (by omega)]; simp
    · by_cases h2 : a + 1 ≤ j ∧ j < a + 1 + bs.length
      · rw [if_pos h2, if_pos (by omega)]
        have : j - a = (j - (a + 1)) + 1 := by omega
        rw [this]; simp
      · rw [if_neg h2, if_neg h1, if_neg (by omega)]

/-- Bytes written leave every address outside them alone. -/
theorem memGet_memPuts_of_out (m : List Host.Cell) (a : Nat) (bs : List Byte) (j : Nat) (h : memWf m = true)
    (hj : j < a ∨ a + bs.length ≤ j) : memGet (memPuts m a bs) j = memGet m j := by
  rw [memGet_memPuts m a bs j h, if_neg (by omega)]

/-- Reading back the bytes that were written. -/
theorem memBytes_memPuts (m : List Host.Cell) (a : Nat) (bs : List Byte) (h : memWf m = true) :
    memBytes (memPuts m a bs) a bs.length = bs := by
  apply List.ext_getElem
  · simp [memBytes]
  · intro i h1 h2
    simp only [memBytes, List.getElem_map, List.getElem_range, memGet_memPuts m a bs _ h]
    rw [if_pos (by omega)]
    simp [h2]

/-- A zero-fill keeps the canonical form. -/
theorem memZero_wf (m : List Host.Cell) (a n : Nat) (h : memWf m = true) : memWf (memZero m a n) = true := by
  induction m with
  | nil => rfl
  | cons d rest ih =>
    obtain ⟨k, b⟩ := d
    have hc := (memWf_cons k b rest).1 h
    simp only [memZero, List.filter_cons]
    split
    · refine (memWf_cons k b _).2 ⟨hc.1, fun c hm => hc.2.1 c (List.mem_of_mem_filter hm), ih hc.2.2⟩
    · exact ih hc.2.2

/-- Reading after a zero-fill: 0 within it, and everywhere else what stood there before. -/
theorem memGet_memZero (m : List Host.Cell) (a n j : Nat) (h : memWf m = true) :
    memGet (memZero m a n) j = if a ≤ j ∧ j < a + n then 0 else memGet m j := by
  induction m with
  | nil => simp [memZero, memGet]
  | cons d rest ih =>
    obtain ⟨k, b⟩ := d
    have hc := (memWf_cons k b rest).1 h
    have ih' := ih hc.2.2
    have low : ∀ j, j < k → memGet (memZero rest a n) j = 0 := fun j hj =>
      memGet_below _ j (fun c hm => Nat.lt_trans hj (hc.2.1 c (List.mem_of_mem_filter hm)))
    have low' : memGet (memZero rest a n) k = 0 :=
      memGet_below _ k (fun c hm => hc.2.1 c (List.mem_of_mem_filter hm))
    by_cases hin : a ≤ k ∧ k < a + n
    · have hz : memZero ((k, b) :: rest) a n = memZero rest a n := by
        simp [memZero, hin.1, hin.2]
      rw [hz]
      by_cases hj : j = k
      · subst hj; rw [low', if_pos hin]
      · simp only [memGet, if_neg (Ne.symm hj)]
        split
        · rename_i hl; rw [ih', if_pos hl]
        · rename_i hl
          by_cases hlt : j < k
          · rw [low j hlt]; simp [hlt]
          · rw [ih', if_neg hl]; simp [hlt]
    · have hz : memZero ((k, b) :: rest) a n = (k, b) :: memZero rest a n := by
        unfold memZero
        rw [List.filter_cons, if_pos]
        simp only [Bool.not_eq_true', Bool.and_eq_false_iff, decide_eq_false_iff_not]
        omega
      rw [hz]
      simp only [memGet]
      by_cases hj : k = j
      · subst hj; simp [hin]
      · simp only [if_neg hj]
        by_cases hlt : j < k
        · simp [hlt]
        · simp only [if_neg hlt]; exact ih'

/-- The memory that reset leaves, with nothing listed, is in canonical form. -/
theorem reset_mem_wf : memWf State.reset.mem = true := rfl

end Sys2Proof.Machine
end

