-- ==== Sys2Proof/Laws/State.lean ====
section
/-! SUPPORT. What each update of one part of the state does to every field: one equation for each field and update. -/

namespace Sys2Proof.Machine

variable (s : State)

-- ## modRace

@[simp] theorem State.modRace_pending (r : RaceId) (f : Race → Race) : (s.modRace r f).pending = s.pending := rfl
@[simp] theorem State.modRace_tick (r : RaceId) (f : Race → Race) : (s.modRace r f).tick = s.tick := rfl
@[simp] theorem State.modRace_races (r : RaceId) (f : Race → Race) :
    (s.modRace r f).races = s.races.set r (f s.races[r]) := rfl
@[simp] theorem State.modRace_tenants (r : RaceId) (f : Race → Race) : (s.modRace r f).tenants = s.tenants := rfl
@[simp] theorem State.modRace_rounds (r : RaceId) (f : Race → Race) : (s.modRace r f).rounds = s.rounds := rfl
@[simp] theorem State.modRace_ctxs (r : RaceId) (f : Race → Race) : (s.modRace r f).ctxs = s.ctxs := rfl
@[simp] theorem State.modRace_hops (r : RaceId) (f : Race → Race) : (s.modRace r f).hops = s.hops := rfl
@[simp] theorem State.modRace_link (r : RaceId) (f : Race → Race) : (s.modRace r f).link = s.link := rfl
@[simp] theorem State.modRace_net (r : RaceId) (f : Race → Race) : (s.modRace r f).net = s.net := rfl
@[simp] theorem State.modRace_sec (r : RaceId) (f : Race → Race) : (s.modRace r f).sec = s.sec := rfl
@[simp] theorem State.modRace_rng (r : RaceId) (f : Race → Race) : (s.modRace r f).rng = s.rng := rfl
@[simp] theorem State.modRace_pwr (r : RaceId) (f : Race → Race) : (s.modRace r f).pwr = s.pwr := rfl
@[simp] theorem State.modRace_mgmt (r : RaceId) (f : Race → Race) : (s.modRace r f).mgmt = s.mgmt := rfl
@[simp] theorem State.modRace_start (r : RaceId) (f : Race → Race) : (s.modRace r f).start = s.start := rfl
@[simp] theorem State.modRace_recovering (r : RaceId) (f : Race → Race) :
    (s.modRace r f).recovering = s.recovering := rfl
@[simp] theorem State.modRace_warmDone (r : RaceId) (f : Race → Race) : (s.modRace r f).warmDone = s.warmDone := rfl
@[simp] theorem State.modRace_recoverErr (r : RaceId) (f : Race → Race) :
    (s.modRace r f).recoverErr = s.recoverErr := rfl
@[simp] theorem State.modRace_mem (r : RaceId) (f : Race → Race) : (s.modRace r f).mem = s.mem := rfl

-- ## modTenant

@[simp] theorem State.modTenant_pending (t : TenantId) (f : Tenant → Tenant) :
    (s.modTenant t f).pending = s.pending := rfl
@[simp] theorem State.modTenant_tick (t : TenantId) (f : Tenant → Tenant) : (s.modTenant t f).tick = s.tick := rfl
@[simp] theorem State.modTenant_races (t : TenantId) (f : Tenant → Tenant) : (s.modTenant t f).races = s.races := rfl
@[simp] theorem State.modTenant_tenants (t : TenantId) (f : Tenant → Tenant) :
    (s.modTenant t f).tenants = s.tenants.set t (f s.tenants[t]) := rfl
@[simp] theorem State.modTenant_rounds (t : TenantId) (f : Tenant → Tenant) :
    (s.modTenant t f).rounds = s.rounds := rfl
@[simp] theorem State.modTenant_ctxs (t : TenantId) (f : Tenant → Tenant) : (s.modTenant t f).ctxs = s.ctxs := rfl
@[simp] theorem State.modTenant_hops (t : TenantId) (f : Tenant → Tenant) : (s.modTenant t f).hops = s.hops := rfl
@[simp] theorem State.modTenant_link (t : TenantId) (f : Tenant → Tenant) : (s.modTenant t f).link = s.link := rfl
@[simp] theorem State.modTenant_net (t : TenantId) (f : Tenant → Tenant) : (s.modTenant t f).net = s.net := rfl
@[simp] theorem State.modTenant_sec (t : TenantId) (f : Tenant → Tenant) : (s.modTenant t f).sec = s.sec := rfl
@[simp] theorem State.modTenant_rng (t : TenantId) (f : Tenant → Tenant) : (s.modTenant t f).rng = s.rng := rfl
@[simp] theorem State.modTenant_pwr (t : TenantId) (f : Tenant → Tenant) : (s.modTenant t f).pwr = s.pwr := rfl
@[simp] theorem State.modTenant_mgmt (t : TenantId) (f : Tenant → Tenant) : (s.modTenant t f).mgmt = s.mgmt := rfl
@[simp] theorem State.modTenant_start (t : TenantId) (f : Tenant → Tenant) : (s.modTenant t f).start = s.start := rfl
@[simp] theorem State.modTenant_recovering (t : TenantId) (f : Tenant → Tenant) :
    (s.modTenant t f).recovering = s.recovering := rfl
@[simp] theorem State.modTenant_warmDone (t : TenantId) (f : Tenant → Tenant) :
    (s.modTenant t f).warmDone = s.warmDone := rfl
@[simp] theorem State.modTenant_recoverErr (t : TenantId) (f : Tenant → Tenant) :
    (s.modTenant t f).recoverErr = s.recoverErr := rfl
@[simp] theorem State.modTenant_mem (t : TenantId) (f : Tenant → Tenant) : (s.modTenant t f).mem = s.mem := rfl

-- ## modMem

@[simp] theorem State.modMem_pending (r : RaceId) (f : RaceMem → RaceMem) : (s.modMem r f).pending = s.pending := rfl
@[simp] theorem State.modMem_tick (r : RaceId) (f : RaceMem → RaceMem) : (s.modMem r f).tick = s.tick := rfl
@[simp] theorem State.modMem_races (r : RaceId) (f : RaceMem → RaceMem) :
    (s.modMem r f).races = s.races.set r { s.races[r] with mem := f s.races[r].mem } := rfl
@[simp] theorem State.modMem_tenants (r : RaceId) (f : RaceMem → RaceMem) : (s.modMem r f).tenants = s.tenants := rfl
@[simp] theorem State.modMem_rounds (r : RaceId) (f : RaceMem → RaceMem) : (s.modMem r f).rounds = s.rounds := rfl
@[simp] theorem State.modMem_ctxs (r : RaceId) (f : RaceMem → RaceMem) : (s.modMem r f).ctxs = s.ctxs := rfl
@[simp] theorem State.modMem_hops (r : RaceId) (f : RaceMem → RaceMem) : (s.modMem r f).hops = s.hops := rfl
@[simp] theorem State.modMem_link (r : RaceId) (f : RaceMem → RaceMem) : (s.modMem r f).link = s.link := rfl
@[simp] theorem State.modMem_net (r : RaceId) (f : RaceMem → RaceMem) : (s.modMem r f).net = s.net := rfl
@[simp] theorem State.modMem_sec (r : RaceId) (f : RaceMem → RaceMem) : (s.modMem r f).sec = s.sec := rfl
@[simp] theorem State.modMem_rng (r : RaceId) (f : RaceMem → RaceMem) : (s.modMem r f).rng = s.rng := rfl
@[simp] theorem State.modMem_pwr (r : RaceId) (f : RaceMem → RaceMem) : (s.modMem r f).pwr = s.pwr := rfl
@[simp] theorem State.modMem_mgmt (r : RaceId) (f : RaceMem → RaceMem) : (s.modMem r f).mgmt = s.mgmt := rfl
@[simp] theorem State.modMem_start (r : RaceId) (f : RaceMem → RaceMem) : (s.modMem r f).start = s.start := rfl
@[simp] theorem State.modMem_recovering (r : RaceId) (f : RaceMem → RaceMem) :
    (s.modMem r f).recovering = s.recovering := rfl
@[simp] theorem State.modMem_warmDone (r : RaceId) (f : RaceMem → RaceMem) :
    (s.modMem r f).warmDone = s.warmDone := rfl
@[simp] theorem State.modMem_recoverErr (r : RaceId) (f : RaceMem → RaceMem) :
    (s.modMem r f).recoverErr = s.recoverErr := rfl
@[simp] theorem State.modMem_mem (r : RaceId) (f : RaceMem → RaceMem) : (s.modMem r f).mem = s.mem := rfl

-- ## modChan

@[simp] theorem State.modChan_pending (r : RaceId) (ch : Fin 46) (f : Chan → Chan) :
    (s.modChan r ch f).pending = s.pending := rfl
@[simp] theorem State.modChan_tick (r : RaceId) (ch : Fin 46) (f : Chan → Chan) :
    (s.modChan r ch f).tick = s.tick := rfl
@[simp] theorem State.modChan_races (r : RaceId) (ch : Fin 46) (f : Chan → Chan) :
    (s.modChan r ch f).races = s.races.set r { s.races[r] with mem := { s.races[r].mem with chans := s.races[r].mem.chans.set ch (f s.races[r].mem.chans[ch]) } } := rfl
@[simp] theorem State.modChan_tenants (r : RaceId) (ch : Fin 46) (f : Chan → Chan) :
    (s.modChan r ch f).tenants = s.tenants := rfl
@[simp] theorem State.modChan_rounds (r : RaceId) (ch : Fin 46) (f : Chan → Chan) :
    (s.modChan r ch f).rounds = s.rounds := rfl
@[simp] theorem State.modChan_ctxs (r : RaceId) (ch : Fin 46) (f : Chan → Chan) :
    (s.modChan r ch f).ctxs = s.ctxs := rfl
@[simp] theorem State.modChan_hops (r : RaceId) (ch : Fin 46) (f : Chan → Chan) :
    (s.modChan r ch f).hops = s.hops := rfl
@[simp] theorem State.modChan_link (r : RaceId) (ch : Fin 46) (f : Chan → Chan) :
    (s.modChan r ch f).link = s.link := rfl
@[simp] theorem State.modChan_net (r : RaceId) (ch : Fin 46) (f : Chan → Chan) : (s.modChan r ch f).net = s.net := rfl
@[simp] theorem State.modChan_sec (r : RaceId) (ch : Fin 46) (f : Chan → Chan) : (s.modChan r ch f).sec = s.sec := rfl
@[simp] theorem State.modChan_rng (r : RaceId) (ch : Fin 46) (f : Chan → Chan) : (s.modChan r ch f).rng = s.rng := rfl
@[simp] theorem State.modChan_pwr (r : RaceId) (ch : Fin 46) (f : Chan → Chan) : (s.modChan r ch f).pwr = s.pwr := rfl
@[simp] theorem State.modChan_mgmt (r : RaceId) (ch : Fin 46) (f : Chan → Chan) :
    (s.modChan r ch f).mgmt = s.mgmt := rfl
@[simp] theorem State.modChan_start (r : RaceId) (ch : Fin 46) (f : Chan → Chan) :
    (s.modChan r ch f).start = s.start := rfl
@[simp] theorem State.modChan_recovering (r : RaceId) (ch : Fin 46) (f : Chan → Chan) :
    (s.modChan r ch f).recovering = s.recovering := rfl
@[simp] theorem State.modChan_warmDone (r : RaceId) (ch : Fin 46) (f : Chan → Chan) :
    (s.modChan r ch f).warmDone = s.warmDone := rfl
@[simp] theorem State.modChan_recoverErr (r : RaceId) (ch : Fin 46) (f : Chan → Chan) :
    (s.modChan r ch f).recoverErr = s.recoverErr := rfl
@[simp] theorem State.modChan_mem (r : RaceId) (ch : Fin 46) (f : Chan → Chan) : (s.modChan r ch f).mem = s.mem := rfl

-- ## modMill

@[simp] theorem State.modMill_pending (m : MillName) (f : Mill → Mill) : (s.modMill m f).pending = s.pending := rfl
@[simp] theorem State.modMill_tick (m : MillName) (f : Mill → Mill) : (s.modMill m f).tick = s.tick := rfl
@[simp] theorem State.modMill_races (m : MillName) (f : Mill → Mill) :
    (s.modMill m f).races = s.races.set m.race { s.races[m.race] with mills := s.races[m.race].mills.set m.mill (f s.races[m.race].mills[m.mill]) } := rfl
@[simp] theorem State.modMill_tenants (m : MillName) (f : Mill → Mill) : (s.modMill m f).tenants = s.tenants := rfl
@[simp] theorem State.modMill_rounds (m : MillName) (f : Mill → Mill) : (s.modMill m f).rounds = s.rounds := rfl
@[simp] theorem State.modMill_ctxs (m : MillName) (f : Mill → Mill) : (s.modMill m f).ctxs = s.ctxs := rfl
@[simp] theorem State.modMill_hops (m : MillName) (f : Mill → Mill) : (s.modMill m f).hops = s.hops := rfl
@[simp] theorem State.modMill_link (m : MillName) (f : Mill → Mill) : (s.modMill m f).link = s.link := rfl
@[simp] theorem State.modMill_net (m : MillName) (f : Mill → Mill) : (s.modMill m f).net = s.net := rfl
@[simp] theorem State.modMill_sec (m : MillName) (f : Mill → Mill) : (s.modMill m f).sec = s.sec := rfl
@[simp] theorem State.modMill_rng (m : MillName) (f : Mill → Mill) : (s.modMill m f).rng = s.rng := rfl
@[simp] theorem State.modMill_pwr (m : MillName) (f : Mill → Mill) : (s.modMill m f).pwr = s.pwr := rfl
@[simp] theorem State.modMill_mgmt (m : MillName) (f : Mill → Mill) : (s.modMill m f).mgmt = s.mgmt := rfl
@[simp] theorem State.modMill_start (m : MillName) (f : Mill → Mill) : (s.modMill m f).start = s.start := rfl
@[simp] theorem State.modMill_recovering (m : MillName) (f : Mill → Mill) :
    (s.modMill m f).recovering = s.recovering := rfl
@[simp] theorem State.modMill_warmDone (m : MillName) (f : Mill → Mill) : (s.modMill m f).warmDone = s.warmDone := rfl
@[simp] theorem State.modMill_recoverErr (m : MillName) (f : Mill → Mill) :
    (s.modMill m f).recoverErr = s.recoverErr := rfl
@[simp] theorem State.modMill_mem (m : MillName) (f : Mill → Mill) : (s.modMill m f).mem = s.mem := rfl

-- ## modWring

@[simp] theorem State.modWring_pending (r : RaceId) (w : Fin 64) (f : WorkRing → WorkRing) :
    (s.modWring r w f).pending = s.pending := rfl
@[simp] theorem State.modWring_tick (r : RaceId) (w : Fin 64) (f : WorkRing → WorkRing) :
    (s.modWring r w f).tick = s.tick := rfl
@[simp] theorem State.modWring_races (r : RaceId) (w : Fin 64) (f : WorkRing → WorkRing) :
    (s.modWring r w f).races = s.races.set r { s.races[r] with wrings := s.races[r].wrings.set w (f s.races[r].wrings[w]) } := rfl
@[simp] theorem State.modWring_tenants (r : RaceId) (w : Fin 64) (f : WorkRing → WorkRing) :
    (s.modWring r w f).tenants = s.tenants := rfl
@[simp] theorem State.modWring_rounds (r : RaceId) (w : Fin 64) (f : WorkRing → WorkRing) :
    (s.modWring r w f).rounds = s.rounds := rfl
@[simp] theorem State.modWring_ctxs (r : RaceId) (w : Fin 64) (f : WorkRing → WorkRing) :
    (s.modWring r w f).ctxs = s.ctxs := rfl
@[simp] theorem State.modWring_hops (r : RaceId) (w : Fin 64) (f : WorkRing → WorkRing) :
    (s.modWring r w f).hops = s.hops := rfl
@[simp] theorem State.modWring_link (r : RaceId) (w : Fin 64) (f : WorkRing → WorkRing) :
    (s.modWring r w f).link = s.link := rfl
@[simp] theorem State.modWring_net (r : RaceId) (w : Fin 64) (f : WorkRing → WorkRing) :
    (s.modWring r w f).net = s.net := rfl
@[simp] theorem State.modWring_sec (r : RaceId) (w : Fin 64) (f : WorkRing → WorkRing) :
    (s.modWring r w f).sec = s.sec := rfl
@[simp] theorem State.modWring_rng (r : RaceId) (w : Fin 64) (f : WorkRing → WorkRing) :
    (s.modWring r w f).rng = s.rng := rfl
@[simp] theorem State.modWring_pwr (r : RaceId) (w : Fin 64) (f : WorkRing → WorkRing) :
    (s.modWring r w f).pwr = s.pwr := rfl
@[simp] theorem State.modWring_mgmt (r : RaceId) (w : Fin 64) (f : WorkRing → WorkRing) :
    (s.modWring r w f).mgmt = s.mgmt := rfl
@[simp] theorem State.modWring_start (r : RaceId) (w : Fin 64) (f : WorkRing → WorkRing) :
    (s.modWring r w f).start = s.start := rfl
@[simp] theorem State.modWring_recovering (r : RaceId) (w : Fin 64) (f : WorkRing → WorkRing) :
    (s.modWring r w f).recovering = s.recovering := rfl
@[simp] theorem State.modWring_warmDone (r : RaceId) (w : Fin 64) (f : WorkRing → WorkRing) :
    (s.modWring r w f).warmDone = s.warmDone := rfl
@[simp] theorem State.modWring_recoverErr (r : RaceId) (w : Fin 64) (f : WorkRing → WorkRing) :
    (s.modWring r w f).recoverErr = s.recoverErr := rfl
@[simp] theorem State.modWring_mem (r : RaceId) (w : Fin 64) (f : WorkRing → WorkRing) :
    (s.modWring r w f).mem = s.mem := rfl

-- ## modCring

@[simp] theorem State.modCring_pending (r : RaceId) (c : Fin 16) (f : CompRing → CompRing) :
    (s.modCring r c f).pending = s.pending := rfl
@[simp] theorem State.modCring_tick (r : RaceId) (c : Fin 16) (f : CompRing → CompRing) :
    (s.modCring r c f).tick = s.tick := rfl
@[simp] theorem State.modCring_races (r : RaceId) (c : Fin 16) (f : CompRing → CompRing) :
    (s.modCring r c f).races = s.races.set r { s.races[r] with crings := s.races[r].crings.set c (f s.races[r].crings[c]) } := rfl
@[simp] theorem State.modCring_tenants (r : RaceId) (c : Fin 16) (f : CompRing → CompRing) :
    (s.modCring r c f).tenants = s.tenants := rfl
@[simp] theorem State.modCring_rounds (r : RaceId) (c : Fin 16) (f : CompRing → CompRing) :
    (s.modCring r c f).rounds = s.rounds := rfl
@[simp] theorem State.modCring_ctxs (r : RaceId) (c : Fin 16) (f : CompRing → CompRing) :
    (s.modCring r c f).ctxs = s.ctxs := rfl
@[simp] theorem State.modCring_hops (r : RaceId) (c : Fin 16) (f : CompRing → CompRing) :
    (s.modCring r c f).hops = s.hops := rfl
@[simp] theorem State.modCring_link (r : RaceId) (c : Fin 16) (f : CompRing → CompRing) :
    (s.modCring r c f).link = s.link := rfl
@[simp] theorem State.modCring_net (r : RaceId) (c : Fin 16) (f : CompRing → CompRing) :
    (s.modCring r c f).net = s.net := rfl
@[simp] theorem State.modCring_sec (r : RaceId) (c : Fin 16) (f : CompRing → CompRing) :
    (s.modCring r c f).sec = s.sec := rfl
@[simp] theorem State.modCring_rng (r : RaceId) (c : Fin 16) (f : CompRing → CompRing) :
    (s.modCring r c f).rng = s.rng := rfl
@[simp] theorem State.modCring_pwr (r : RaceId) (c : Fin 16) (f : CompRing → CompRing) :
    (s.modCring r c f).pwr = s.pwr := rfl
@[simp] theorem State.modCring_mgmt (r : RaceId) (c : Fin 16) (f : CompRing → CompRing) :
    (s.modCring r c f).mgmt = s.mgmt := rfl
@[simp] theorem State.modCring_start (r : RaceId) (c : Fin 16) (f : CompRing → CompRing) :
    (s.modCring r c f).start = s.start := rfl
@[simp] theorem State.modCring_recovering (r : RaceId) (c : Fin 16) (f : CompRing → CompRing) :
    (s.modCring r c f).recovering = s.recovering := rfl
@[simp] theorem State.modCring_warmDone (r : RaceId) (c : Fin 16) (f : CompRing → CompRing) :
    (s.modCring r c f).warmDone = s.warmDone := rfl
@[simp] theorem State.modCring_recoverErr (r : RaceId) (c : Fin 16) (f : CompRing → CompRing) :
    (s.modCring r c f).recoverErr = s.recoverErr := rfl
@[simp] theorem State.modCring_mem (r : RaceId) (c : Fin 16) (f : CompRing → CompRing) :
    (s.modCring r c f).mem = s.mem := rfl

-- ## modTick

@[simp] theorem State.modTick_pending (f : Tick → Tick) : (s.modTick f).pending = s.pending := rfl
@[simp] theorem State.modTick_tick (f : Tick → Tick) : (s.modTick f).tick = f s.tick := rfl
@[simp] theorem State.modTick_races (f : Tick → Tick) : (s.modTick f).races = s.races := rfl
@[simp] theorem State.modTick_tenants (f : Tick → Tick) : (s.modTick f).tenants = s.tenants := rfl
@[simp] theorem State.modTick_rounds (f : Tick → Tick) : (s.modTick f).rounds = s.rounds := rfl
@[simp] theorem State.modTick_ctxs (f : Tick → Tick) : (s.modTick f).ctxs = s.ctxs := rfl
@[simp] theorem State.modTick_hops (f : Tick → Tick) : (s.modTick f).hops = s.hops := rfl
@[simp] theorem State.modTick_link (f : Tick → Tick) : (s.modTick f).link = s.link := rfl
@[simp] theorem State.modTick_net (f : Tick → Tick) : (s.modTick f).net = s.net := rfl
@[simp] theorem State.modTick_sec (f : Tick → Tick) : (s.modTick f).sec = s.sec := rfl
@[simp] theorem State.modTick_rng (f : Tick → Tick) : (s.modTick f).rng = s.rng := rfl
@[simp] theorem State.modTick_pwr (f : Tick → Tick) : (s.modTick f).pwr = s.pwr := rfl
@[simp] theorem State.modTick_mgmt (f : Tick → Tick) : (s.modTick f).mgmt = s.mgmt := rfl
@[simp] theorem State.modTick_start (f : Tick → Tick) : (s.modTick f).start = s.start := rfl
@[simp] theorem State.modTick_recovering (f : Tick → Tick) : (s.modTick f).recovering = s.recovering := rfl
@[simp] theorem State.modTick_warmDone (f : Tick → Tick) : (s.modTick f).warmDone = s.warmDone := rfl
@[simp] theorem State.modTick_recoverErr (f : Tick → Tick) : (s.modTick f).recoverErr = s.recoverErr := rfl
@[simp] theorem State.modTick_mem (f : Tick → Tick) : (s.modTick f).mem = s.mem := rfl

-- ## modLink

@[simp] theorem State.modLink_pending (f : Link → Link) : (s.modLink f).pending = s.pending := rfl
@[simp] theorem State.modLink_tick (f : Link → Link) : (s.modLink f).tick = s.tick := rfl
@[simp] theorem State.modLink_races (f : Link → Link) : (s.modLink f).races = s.races := rfl
@[simp] theorem State.modLink_tenants (f : Link → Link) : (s.modLink f).tenants = s.tenants := rfl
@[simp] theorem State.modLink_rounds (f : Link → Link) : (s.modLink f).rounds = s.rounds := rfl
@[simp] theorem State.modLink_ctxs (f : Link → Link) : (s.modLink f).ctxs = s.ctxs := rfl
@[simp] theorem State.modLink_hops (f : Link → Link) : (s.modLink f).hops = s.hops := rfl
@[simp] theorem State.modLink_link (f : Link → Link) : (s.modLink f).link = f s.link := rfl
@[simp] theorem State.modLink_net (f : Link → Link) : (s.modLink f).net = s.net := rfl
@[simp] theorem State.modLink_sec (f : Link → Link) : (s.modLink f).sec = s.sec := rfl
@[simp] theorem State.modLink_rng (f : Link → Link) : (s.modLink f).rng = s.rng := rfl
@[simp] theorem State.modLink_pwr (f : Link → Link) : (s.modLink f).pwr = s.pwr := rfl
@[simp] theorem State.modLink_mgmt (f : Link → Link) : (s.modLink f).mgmt = s.mgmt := rfl
@[simp] theorem State.modLink_start (f : Link → Link) : (s.modLink f).start = s.start := rfl
@[simp] theorem State.modLink_recovering (f : Link → Link) : (s.modLink f).recovering = s.recovering := rfl
@[simp] theorem State.modLink_warmDone (f : Link → Link) : (s.modLink f).warmDone = s.warmDone := rfl
@[simp] theorem State.modLink_recoverErr (f : Link → Link) : (s.modLink f).recoverErr = s.recoverErr := rfl
@[simp] theorem State.modLink_mem (f : Link → Link) : (s.modLink f).mem = s.mem := rfl

-- ## modNet

@[simp] theorem State.modNet_pending (f : Net → Net) : (s.modNet f).pending = s.pending := rfl
@[simp] theorem State.modNet_tick (f : Net → Net) : (s.modNet f).tick = s.tick := rfl
@[simp] theorem State.modNet_races (f : Net → Net) : (s.modNet f).races = s.races := rfl
@[simp] theorem State.modNet_tenants (f : Net → Net) : (s.modNet f).tenants = s.tenants := rfl
@[simp] theorem State.modNet_rounds (f : Net → Net) : (s.modNet f).rounds = s.rounds := rfl
@[simp] theorem State.modNet_ctxs (f : Net → Net) : (s.modNet f).ctxs = s.ctxs := rfl
@[simp] theorem State.modNet_hops (f : Net → Net) : (s.modNet f).hops = s.hops := rfl
@[simp] theorem State.modNet_link (f : Net → Net) : (s.modNet f).link = s.link := rfl
@[simp] theorem State.modNet_net (f : Net → Net) : (s.modNet f).net = f s.net := rfl
@[simp] theorem State.modNet_sec (f : Net → Net) : (s.modNet f).sec = s.sec := rfl
@[simp] theorem State.modNet_rng (f : Net → Net) : (s.modNet f).rng = s.rng := rfl
@[simp] theorem State.modNet_pwr (f : Net → Net) : (s.modNet f).pwr = s.pwr := rfl
@[simp] theorem State.modNet_mgmt (f : Net → Net) : (s.modNet f).mgmt = s.mgmt := rfl
@[simp] theorem State.modNet_start (f : Net → Net) : (s.modNet f).start = s.start := rfl
@[simp] theorem State.modNet_recovering (f : Net → Net) : (s.modNet f).recovering = s.recovering := rfl
@[simp] theorem State.modNet_warmDone (f : Net → Net) : (s.modNet f).warmDone = s.warmDone := rfl
@[simp] theorem State.modNet_recoverErr (f : Net → Net) : (s.modNet f).recoverErr = s.recoverErr := rfl
@[simp] theorem State.modNet_mem (f : Net → Net) : (s.modNet f).mem = s.mem := rfl

-- ## modSec

@[simp] theorem State.modSec_pending (f : Sec → Sec) : (s.modSec f).pending = s.pending := rfl
@[simp] theorem State.modSec_tick (f : Sec → Sec) : (s.modSec f).tick = s.tick := rfl
@[simp] theorem State.modSec_races (f : Sec → Sec) : (s.modSec f).races = s.races := rfl
@[simp] theorem State.modSec_tenants (f : Sec → Sec) : (s.modSec f).tenants = s.tenants := rfl
@[simp] theorem State.modSec_rounds (f : Sec → Sec) : (s.modSec f).rounds = s.rounds := rfl
@[simp] theorem State.modSec_ctxs (f : Sec → Sec) : (s.modSec f).ctxs = s.ctxs := rfl
@[simp] theorem State.modSec_hops (f : Sec → Sec) : (s.modSec f).hops = s.hops := rfl
@[simp] theorem State.modSec_link (f : Sec → Sec) : (s.modSec f).link = s.link := rfl
@[simp] theorem State.modSec_net (f : Sec → Sec) : (s.modSec f).net = s.net := rfl
@[simp] theorem State.modSec_sec (f : Sec → Sec) : (s.modSec f).sec = f s.sec := rfl
@[simp] theorem State.modSec_rng (f : Sec → Sec) : (s.modSec f).rng = s.rng := rfl
@[simp] theorem State.modSec_pwr (f : Sec → Sec) : (s.modSec f).pwr = s.pwr := rfl
@[simp] theorem State.modSec_mgmt (f : Sec → Sec) : (s.modSec f).mgmt = s.mgmt := rfl
@[simp] theorem State.modSec_start (f : Sec → Sec) : (s.modSec f).start = s.start := rfl
@[simp] theorem State.modSec_recovering (f : Sec → Sec) : (s.modSec f).recovering = s.recovering := rfl
@[simp] theorem State.modSec_warmDone (f : Sec → Sec) : (s.modSec f).warmDone = s.warmDone := rfl
@[simp] theorem State.modSec_recoverErr (f : Sec → Sec) : (s.modSec f).recoverErr = s.recoverErr := rfl
@[simp] theorem State.modSec_mem (f : Sec → Sec) : (s.modSec f).mem = s.mem := rfl

-- ## modRng

@[simp] theorem State.modRng_pending (f : Rng → Rng) : (s.modRng f).pending = s.pending := rfl
@[simp] theorem State.modRng_tick (f : Rng → Rng) : (s.modRng f).tick = s.tick := rfl
@[simp] theorem State.modRng_races (f : Rng → Rng) : (s.modRng f).races = s.races := rfl
@[simp] theorem State.modRng_tenants (f : Rng → Rng) : (s.modRng f).tenants = s.tenants := rfl
@[simp] theorem State.modRng_rounds (f : Rng → Rng) : (s.modRng f).rounds = s.rounds := rfl
@[simp] theorem State.modRng_ctxs (f : Rng → Rng) : (s.modRng f).ctxs = s.ctxs := rfl
@[simp] theorem State.modRng_hops (f : Rng → Rng) : (s.modRng f).hops = s.hops := rfl
@[simp] theorem State.modRng_link (f : Rng → Rng) : (s.modRng f).link = s.link := rfl
@[simp] theorem State.modRng_net (f : Rng → Rng) : (s.modRng f).net = s.net := rfl
@[simp] theorem State.modRng_sec (f : Rng → Rng) : (s.modRng f).sec = s.sec := rfl
@[simp] theorem State.modRng_rng (f : Rng → Rng) : (s.modRng f).rng = f s.rng := rfl
@[simp] theorem State.modRng_pwr (f : Rng → Rng) : (s.modRng f).pwr = s.pwr := rfl
@[simp] theorem State.modRng_mgmt (f : Rng → Rng) : (s.modRng f).mgmt = s.mgmt := rfl
@[simp] theorem State.modRng_start (f : Rng → Rng) : (s.modRng f).start = s.start := rfl
@[simp] theorem State.modRng_recovering (f : Rng → Rng) : (s.modRng f).recovering = s.recovering := rfl
@[simp] theorem State.modRng_warmDone (f : Rng → Rng) : (s.modRng f).warmDone = s.warmDone := rfl
@[simp] theorem State.modRng_recoverErr (f : Rng → Rng) : (s.modRng f).recoverErr = s.recoverErr := rfl
@[simp] theorem State.modRng_mem (f : Rng → Rng) : (s.modRng f).mem = s.mem := rfl

-- ## modPwr

@[simp] theorem State.modPwr_pending (f : Pwr → Pwr) : (s.modPwr f).pending = s.pending := rfl
@[simp] theorem State.modPwr_tick (f : Pwr → Pwr) : (s.modPwr f).tick = s.tick := rfl
@[simp] theorem State.modPwr_races (f : Pwr → Pwr) : (s.modPwr f).races = s.races := rfl
@[simp] theorem State.modPwr_tenants (f : Pwr → Pwr) : (s.modPwr f).tenants = s.tenants := rfl
@[simp] theorem State.modPwr_rounds (f : Pwr → Pwr) : (s.modPwr f).rounds = s.rounds := rfl
@[simp] theorem State.modPwr_ctxs (f : Pwr → Pwr) : (s.modPwr f).ctxs = s.ctxs := rfl
@[simp] theorem State.modPwr_hops (f : Pwr → Pwr) : (s.modPwr f).hops = s.hops := rfl
@[simp] theorem State.modPwr_link (f : Pwr → Pwr) : (s.modPwr f).link = s.link := rfl
@[simp] theorem State.modPwr_net (f : Pwr → Pwr) : (s.modPwr f).net = s.net := rfl
@[simp] theorem State.modPwr_sec (f : Pwr → Pwr) : (s.modPwr f).sec = s.sec := rfl
@[simp] theorem State.modPwr_rng (f : Pwr → Pwr) : (s.modPwr f).rng = s.rng := rfl
@[simp] theorem State.modPwr_pwr (f : Pwr → Pwr) : (s.modPwr f).pwr = f s.pwr := rfl
@[simp] theorem State.modPwr_mgmt (f : Pwr → Pwr) : (s.modPwr f).mgmt = s.mgmt := rfl
@[simp] theorem State.modPwr_start (f : Pwr → Pwr) : (s.modPwr f).start = s.start := rfl
@[simp] theorem State.modPwr_recovering (f : Pwr → Pwr) : (s.modPwr f).recovering = s.recovering := rfl
@[simp] theorem State.modPwr_warmDone (f : Pwr → Pwr) : (s.modPwr f).warmDone = s.warmDone := rfl
@[simp] theorem State.modPwr_recoverErr (f : Pwr → Pwr) : (s.modPwr f).recoverErr = s.recoverErr := rfl
@[simp] theorem State.modPwr_mem (f : Pwr → Pwr) : (s.modPwr f).mem = s.mem := rfl

-- ## modMgmt

@[simp] theorem State.modMgmt_pending (f : Mgmt → Mgmt) : (s.modMgmt f).pending = s.pending := rfl
@[simp] theorem State.modMgmt_tick (f : Mgmt → Mgmt) : (s.modMgmt f).tick = s.tick := rfl
@[simp] theorem State.modMgmt_races (f : Mgmt → Mgmt) : (s.modMgmt f).races = s.races := rfl
@[simp] theorem State.modMgmt_tenants (f : Mgmt → Mgmt) : (s.modMgmt f).tenants = s.tenants := rfl
@[simp] theorem State.modMgmt_rounds (f : Mgmt → Mgmt) : (s.modMgmt f).rounds = s.rounds := rfl
@[simp] theorem State.modMgmt_ctxs (f : Mgmt → Mgmt) : (s.modMgmt f).ctxs = s.ctxs := rfl
@[simp] theorem State.modMgmt_hops (f : Mgmt → Mgmt) : (s.modMgmt f).hops = s.hops := rfl
@[simp] theorem State.modMgmt_link (f : Mgmt → Mgmt) : (s.modMgmt f).link = s.link := rfl
@[simp] theorem State.modMgmt_net (f : Mgmt → Mgmt) : (s.modMgmt f).net = s.net := rfl
@[simp] theorem State.modMgmt_sec (f : Mgmt → Mgmt) : (s.modMgmt f).sec = s.sec := rfl
@[simp] theorem State.modMgmt_rng (f : Mgmt → Mgmt) : (s.modMgmt f).rng = s.rng := rfl
@[simp] theorem State.modMgmt_pwr (f : Mgmt → Mgmt) : (s.modMgmt f).pwr = s.pwr := rfl
@[simp] theorem State.modMgmt_mgmt (f : Mgmt → Mgmt) : (s.modMgmt f).mgmt = f s.mgmt := rfl
@[simp] theorem State.modMgmt_start (f : Mgmt → Mgmt) : (s.modMgmt f).start = s.start := rfl
@[simp] theorem State.modMgmt_recovering (f : Mgmt → Mgmt) : (s.modMgmt f).recovering = s.recovering := rfl
@[simp] theorem State.modMgmt_warmDone (f : Mgmt → Mgmt) : (s.modMgmt f).warmDone = s.warmDone := rfl
@[simp] theorem State.modMgmt_recoverErr (f : Mgmt → Mgmt) : (s.modMgmt f).recoverErr = s.recoverErr := rfl
@[simp] theorem State.modMgmt_mem (f : Mgmt → Mgmt) : (s.modMgmt f).mem = s.mem := rfl

-- ## modStart

@[simp] theorem State.modStart_pending (f : Start → Start) : (s.modStart f).pending = s.pending := rfl
@[simp] theorem State.modStart_tick (f : Start → Start) : (s.modStart f).tick = s.tick := rfl
@[simp] theorem State.modStart_races (f : Start → Start) : (s.modStart f).races = s.races := rfl
@[simp] theorem State.modStart_tenants (f : Start → Start) : (s.modStart f).tenants = s.tenants := rfl
@[simp] theorem State.modStart_rounds (f : Start → Start) : (s.modStart f).rounds = s.rounds := rfl
@[simp] theorem State.modStart_ctxs (f : Start → Start) : (s.modStart f).ctxs = s.ctxs := rfl
@[simp] theorem State.modStart_hops (f : Start → Start) : (s.modStart f).hops = s.hops := rfl
@[simp] theorem State.modStart_link (f : Start → Start) : (s.modStart f).link = s.link := rfl
@[simp] theorem State.modStart_net (f : Start → Start) : (s.modStart f).net = s.net := rfl
@[simp] theorem State.modStart_sec (f : Start → Start) : (s.modStart f).sec = s.sec := rfl
@[simp] theorem State.modStart_rng (f : Start → Start) : (s.modStart f).rng = s.rng := rfl
@[simp] theorem State.modStart_pwr (f : Start → Start) : (s.modStart f).pwr = s.pwr := rfl
@[simp] theorem State.modStart_mgmt (f : Start → Start) : (s.modStart f).mgmt = s.mgmt := rfl
@[simp] theorem State.modStart_start (f : Start → Start) : (s.modStart f).start = f s.start := rfl
@[simp] theorem State.modStart_recovering (f : Start → Start) : (s.modStart f).recovering = s.recovering := rfl
@[simp] theorem State.modStart_warmDone (f : Start → Start) : (s.modStart f).warmDone = s.warmDone := rfl
@[simp] theorem State.modStart_recoverErr (f : Start → Start) : (s.modStart f).recoverErr = s.recoverErr := rfl
@[simp] theorem State.modStart_mem (f : Start → Start) : (s.modStart f).mem = s.mem := rfl

-- ## modJnl

@[simp] theorem State.modJnl_pending (t : TenantId) (f : Jnl → Jnl) : (s.modJnl t f).pending = s.pending := rfl
@[simp] theorem State.modJnl_tick (t : TenantId) (f : Jnl → Jnl) : (s.modJnl t f).tick = s.tick := rfl
@[simp] theorem State.modJnl_races (t : TenantId) (f : Jnl → Jnl) : (s.modJnl t f).races = s.races := rfl
@[simp] theorem State.modJnl_tenants (t : TenantId) (f : Jnl → Jnl) :
    (s.modJnl t f).tenants = s.tenants.set t { s.tenants[t] with jnl := f s.tenants[t].jnl } := rfl
@[simp] theorem State.modJnl_rounds (t : TenantId) (f : Jnl → Jnl) : (s.modJnl t f).rounds = s.rounds := rfl
@[simp] theorem State.modJnl_ctxs (t : TenantId) (f : Jnl → Jnl) : (s.modJnl t f).ctxs = s.ctxs := rfl
@[simp] theorem State.modJnl_hops (t : TenantId) (f : Jnl → Jnl) : (s.modJnl t f).hops = s.hops := rfl
@[simp] theorem State.modJnl_link (t : TenantId) (f : Jnl → Jnl) : (s.modJnl t f).link = s.link := rfl
@[simp] theorem State.modJnl_net (t : TenantId) (f : Jnl → Jnl) : (s.modJnl t f).net = s.net := rfl
@[simp] theorem State.modJnl_sec (t : TenantId) (f : Jnl → Jnl) : (s.modJnl t f).sec = s.sec := rfl
@[simp] theorem State.modJnl_rng (t : TenantId) (f : Jnl → Jnl) : (s.modJnl t f).rng = s.rng := rfl
@[simp] theorem State.modJnl_pwr (t : TenantId) (f : Jnl → Jnl) : (s.modJnl t f).pwr = s.pwr := rfl
@[simp] theorem State.modJnl_mgmt (t : TenantId) (f : Jnl → Jnl) : (s.modJnl t f).mgmt = s.mgmt := rfl
@[simp] theorem State.modJnl_start (t : TenantId) (f : Jnl → Jnl) : (s.modJnl t f).start = s.start := rfl
@[simp] theorem State.modJnl_recovering (t : TenantId) (f : Jnl → Jnl) :
    (s.modJnl t f).recovering = s.recovering := rfl
@[simp] theorem State.modJnl_warmDone (t : TenantId) (f : Jnl → Jnl) : (s.modJnl t f).warmDone = s.warmDone := rfl
@[simp] theorem State.modJnl_recoverErr (t : TenantId) (f : Jnl → Jnl) :
    (s.modJnl t f).recoverErr = s.recoverErr := rfl
@[simp] theorem State.modJnl_mem (t : TenantId) (f : Jnl → Jnl) : (s.modJnl t f).mem = s.mem := rfl

-- ## modWeir

@[simp] theorem State.modWeir_pending (t : TenantId) (f : WeirT → WeirT) : (s.modWeir t f).pending = s.pending := rfl
@[simp] theorem State.modWeir_tick (t : TenantId) (f : WeirT → WeirT) : (s.modWeir t f).tick = s.tick := rfl
@[simp] theorem State.modWeir_races (t : TenantId) (f : WeirT → WeirT) : (s.modWeir t f).races = s.races := rfl
@[simp] theorem State.modWeir_tenants (t : TenantId) (f : WeirT → WeirT) :
    (s.modWeir t f).tenants = s.tenants.set t { s.tenants[t] with weir := f s.tenants[t].weir } := rfl
@[simp] theorem State.modWeir_rounds (t : TenantId) (f : WeirT → WeirT) : (s.modWeir t f).rounds = s.rounds := rfl
@[simp] theorem State.modWeir_ctxs (t : TenantId) (f : WeirT → WeirT) : (s.modWeir t f).ctxs = s.ctxs := rfl
@[simp] theorem State.modWeir_hops (t : TenantId) (f : WeirT → WeirT) : (s.modWeir t f).hops = s.hops := rfl
@[simp] theorem State.modWeir_link (t : TenantId) (f : WeirT → WeirT) : (s.modWeir t f).link = s.link := rfl
@[simp] theorem State.modWeir_net (t : TenantId) (f : WeirT → WeirT) : (s.modWeir t f).net = s.net := rfl
@[simp] theorem State.modWeir_sec (t : TenantId) (f : WeirT → WeirT) : (s.modWeir t f).sec = s.sec := rfl
@[simp] theorem State.modWeir_rng (t : TenantId) (f : WeirT → WeirT) : (s.modWeir t f).rng = s.rng := rfl
@[simp] theorem State.modWeir_pwr (t : TenantId) (f : WeirT → WeirT) : (s.modWeir t f).pwr = s.pwr := rfl
@[simp] theorem State.modWeir_mgmt (t : TenantId) (f : WeirT → WeirT) : (s.modWeir t f).mgmt = s.mgmt := rfl
@[simp] theorem State.modWeir_start (t : TenantId) (f : WeirT → WeirT) : (s.modWeir t f).start = s.start := rfl
@[simp] theorem State.modWeir_recovering (t : TenantId) (f : WeirT → WeirT) :
    (s.modWeir t f).recovering = s.recovering := rfl
@[simp] theorem State.modWeir_warmDone (t : TenantId) (f : WeirT → WeirT) :
    (s.modWeir t f).warmDone = s.warmDone := rfl
@[simp] theorem State.modWeir_recoverErr (t : TenantId) (f : WeirT → WeirT) :
    (s.modWeir t f).recoverErr = s.recoverErr := rfl
@[simp] theorem State.modWeir_mem (t : TenantId) (f : WeirT → WeirT) : (s.modWeir t f).mem = s.mem := rfl

-- ## setRound

@[simp] theorem State.setRound_pending (i : Fin 64) (r : Option Round) : (s.setRound i r).pending = s.pending := rfl
@[simp] theorem State.setRound_tick (i : Fin 64) (r : Option Round) : (s.setRound i r).tick = s.tick := rfl
@[simp] theorem State.setRound_races (i : Fin 64) (r : Option Round) : (s.setRound i r).races = s.races := rfl
@[simp] theorem State.setRound_tenants (i : Fin 64) (r : Option Round) : (s.setRound i r).tenants = s.tenants := rfl
@[simp] theorem State.setRound_rounds (i : Fin 64) (r : Option Round) :
    (s.setRound i r).rounds = s.rounds.set i r := rfl
@[simp] theorem State.setRound_ctxs (i : Fin 64) (r : Option Round) : (s.setRound i r).ctxs = s.ctxs := rfl
@[simp] theorem State.setRound_hops (i : Fin 64) (r : Option Round) : (s.setRound i r).hops = s.hops := rfl
@[simp] theorem State.setRound_link (i : Fin 64) (r : Option Round) : (s.setRound i r).link = s.link := rfl
@[simp] theorem State.setRound_net (i : Fin 64) (r : Option Round) : (s.setRound i r).net = s.net := rfl
@[simp] theorem State.setRound_sec (i : Fin 64) (r : Option Round) : (s.setRound i r).sec = s.sec := rfl
@[simp] theorem State.setRound_rng (i : Fin 64) (r : Option Round) : (s.setRound i r).rng = s.rng := rfl
@[simp] theorem State.setRound_pwr (i : Fin 64) (r : Option Round) : (s.setRound i r).pwr = s.pwr := rfl
@[simp] theorem State.setRound_mgmt (i : Fin 64) (r : Option Round) : (s.setRound i r).mgmt = s.mgmt := rfl
@[simp] theorem State.setRound_start (i : Fin 64) (r : Option Round) : (s.setRound i r).start = s.start := rfl
@[simp] theorem State.setRound_recovering (i : Fin 64) (r : Option Round) :
    (s.setRound i r).recovering = s.recovering := rfl
@[simp] theorem State.setRound_warmDone (i : Fin 64) (r : Option Round) :
    (s.setRound i r).warmDone = s.warmDone := rfl
@[simp] theorem State.setRound_recoverErr (i : Fin 64) (r : Option Round) :
    (s.setRound i r).recoverErr = s.recoverErr := rfl
@[simp] theorem State.setRound_mem (i : Fin 64) (r : Option Round) : (s.setRound i r).mem = s.mem := rfl

-- ## modRound

@[simp] theorem State.modRound_pending (i : Fin 64) (f : Round → Round) : (s.modRound i f).pending = s.pending := rfl
@[simp] theorem State.modRound_tick (i : Fin 64) (f : Round → Round) : (s.modRound i f).tick = s.tick := rfl
@[simp] theorem State.modRound_races (i : Fin 64) (f : Round → Round) : (s.modRound i f).races = s.races := rfl
@[simp] theorem State.modRound_tenants (i : Fin 64) (f : Round → Round) : (s.modRound i f).tenants = s.tenants := rfl
@[simp] theorem State.modRound_rounds (i : Fin 64) (f : Round → Round) :
    (s.modRound i f).rounds = s.rounds.set i (s.rounds[i].map f) := rfl
@[simp] theorem State.modRound_ctxs (i : Fin 64) (f : Round → Round) : (s.modRound i f).ctxs = s.ctxs := rfl
@[simp] theorem State.modRound_hops (i : Fin 64) (f : Round → Round) : (s.modRound i f).hops = s.hops := rfl
@[simp] theorem State.modRound_link (i : Fin 64) (f : Round → Round) : (s.modRound i f).link = s.link := rfl
@[simp] theorem State.modRound_net (i : Fin 64) (f : Round → Round) : (s.modRound i f).net = s.net := rfl
@[simp] theorem State.modRound_sec (i : Fin 64) (f : Round → Round) : (s.modRound i f).sec = s.sec := rfl
@[simp] theorem State.modRound_rng (i : Fin 64) (f : Round → Round) : (s.modRound i f).rng = s.rng := rfl
@[simp] theorem State.modRound_pwr (i : Fin 64) (f : Round → Round) : (s.modRound i f).pwr = s.pwr := rfl
@[simp] theorem State.modRound_mgmt (i : Fin 64) (f : Round → Round) : (s.modRound i f).mgmt = s.mgmt := rfl
@[simp] theorem State.modRound_start (i : Fin 64) (f : Round → Round) : (s.modRound i f).start = s.start := rfl
@[simp] theorem State.modRound_recovering (i : Fin 64) (f : Round → Round) :
    (s.modRound i f).recovering = s.recovering := rfl
@[simp] theorem State.modRound_warmDone (i : Fin 64) (f : Round → Round) :
    (s.modRound i f).warmDone = s.warmDone := rfl
@[simp] theorem State.modRound_recoverErr (i : Fin 64) (f : Round → Round) :
    (s.modRound i f).recoverErr = s.recoverErr := rfl
@[simp] theorem State.modRound_mem (i : Fin 64) (f : Round → Round) : (s.modRound i f).mem = s.mem := rfl

-- ## modHop

@[simp] theorem State.modHop_pending (p : Fin 17) (f : HopPart → HopPart) : (s.modHop p f).pending = s.pending := rfl
@[simp] theorem State.modHop_tick (p : Fin 17) (f : HopPart → HopPart) : (s.modHop p f).tick = s.tick := rfl
@[simp] theorem State.modHop_races (p : Fin 17) (f : HopPart → HopPart) : (s.modHop p f).races = s.races := rfl
@[simp] theorem State.modHop_tenants (p : Fin 17) (f : HopPart → HopPart) : (s.modHop p f).tenants = s.tenants := rfl
@[simp] theorem State.modHop_rounds (p : Fin 17) (f : HopPart → HopPart) : (s.modHop p f).rounds = s.rounds := rfl
@[simp] theorem State.modHop_ctxs (p : Fin 17) (f : HopPart → HopPart) : (s.modHop p f).ctxs = s.ctxs := rfl
@[simp] theorem State.modHop_hops (p : Fin 17) (f : HopPart → HopPart) :
    (s.modHop p f).hops = s.hops.set p (f s.hops[p]) := rfl
@[simp] theorem State.modHop_link (p : Fin 17) (f : HopPart → HopPart) : (s.modHop p f).link = s.link := rfl
@[simp] theorem State.modHop_net (p : Fin 17) (f : HopPart → HopPart) : (s.modHop p f).net = s.net := rfl
@[simp] theorem State.modHop_sec (p : Fin 17) (f : HopPart → HopPart) : (s.modHop p f).sec = s.sec := rfl
@[simp] theorem State.modHop_rng (p : Fin 17) (f : HopPart → HopPart) : (s.modHop p f).rng = s.rng := rfl
@[simp] theorem State.modHop_pwr (p : Fin 17) (f : HopPart → HopPart) : (s.modHop p f).pwr = s.pwr := rfl
@[simp] theorem State.modHop_mgmt (p : Fin 17) (f : HopPart → HopPart) : (s.modHop p f).mgmt = s.mgmt := rfl
@[simp] theorem State.modHop_start (p : Fin 17) (f : HopPart → HopPart) : (s.modHop p f).start = s.start := rfl
@[simp] theorem State.modHop_recovering (p : Fin 17) (f : HopPart → HopPart) :
    (s.modHop p f).recovering = s.recovering := rfl
@[simp] theorem State.modHop_warmDone (p : Fin 17) (f : HopPart → HopPart) :
    (s.modHop p f).warmDone = s.warmDone := rfl
@[simp] theorem State.modHop_recoverErr (p : Fin 17) (f : HopPart → HopPart) :
    (s.modHop p f).recoverErr = s.recoverErr := rfl
@[simp] theorem State.modHop_mem (p : Fin 17) (f : HopPart → HopPart) : (s.modHop p f).mem = s.mem := rfl

-- ## spadWrite

@[simp] theorem State.spadWrite_pending (m : MillName) (off : Nat) (bs : List Byte) :
    (s.spadWrite m off bs).pending = s.pending := rfl
@[simp] theorem State.spadWrite_tick (m : MillName) (off : Nat) (bs : List Byte) :
    (s.spadWrite m off bs).tick = s.tick := rfl
@[simp] theorem State.spadWrite_races (m : MillName) (off : Nat) (bs : List Byte) :
    (s.spadWrite m off bs).races = s.races := rfl
@[simp] theorem State.spadWrite_tenants (m : MillName) (off : Nat) (bs : List Byte) :
    (s.spadWrite m off bs).tenants = s.tenants := rfl
@[simp] theorem State.spadWrite_rounds (m : MillName) (off : Nat) (bs : List Byte) :
    (s.spadWrite m off bs).rounds = s.rounds := rfl
@[simp] theorem State.spadWrite_ctxs (m : MillName) (off : Nat) (bs : List Byte) :
    (s.spadWrite m off bs).ctxs = s.ctxs := rfl
@[simp] theorem State.spadWrite_hops (m : MillName) (off : Nat) (bs : List Byte) :
    (s.spadWrite m off bs).hops = s.hops := rfl
@[simp] theorem State.spadWrite_link (m : MillName) (off : Nat) (bs : List Byte) :
    (s.spadWrite m off bs).link = s.link := rfl
@[simp] theorem State.spadWrite_net (m : MillName) (off : Nat) (bs : List Byte) :
    (s.spadWrite m off bs).net = s.net := rfl
@[simp] theorem State.spadWrite_sec (m : MillName) (off : Nat) (bs : List Byte) :
    (s.spadWrite m off bs).sec = s.sec := rfl
@[simp] theorem State.spadWrite_rng (m : MillName) (off : Nat) (bs : List Byte) :
    (s.spadWrite m off bs).rng = s.rng := rfl
@[simp] theorem State.spadWrite_pwr (m : MillName) (off : Nat) (bs : List Byte) :
    (s.spadWrite m off bs).pwr = s.pwr := rfl
@[simp] theorem State.spadWrite_mgmt (m : MillName) (off : Nat) (bs : List Byte) :
    (s.spadWrite m off bs).mgmt = s.mgmt := rfl
@[simp] theorem State.spadWrite_start (m : MillName) (off : Nat) (bs : List Byte) :
    (s.spadWrite m off bs).start = s.start := rfl
@[simp] theorem State.spadWrite_recovering (m : MillName) (off : Nat) (bs : List Byte) :
    (s.spadWrite m off bs).recovering = s.recovering := rfl
@[simp] theorem State.spadWrite_warmDone (m : MillName) (off : Nat) (bs : List Byte) :
    (s.spadWrite m off bs).warmDone = s.warmDone := rfl
@[simp] theorem State.spadWrite_recoverErr (m : MillName) (off : Nat) (bs : List Byte) :
    (s.spadWrite m off bs).recoverErr = s.recoverErr := rfl
@[simp] theorem State.spadWrite_mem (m : MillName) (off : Nat) (bs : List Byte) :
    (s.spadWrite m off bs).mem = memPuts s.mem (s.spad m off) bs := rfl

-- ## modDescs

@[simp] theorem State.modDescs_pending (t : TenantId) (p : Desc → Bool) (f : Desc → Desc) :
    (s.modDescs t p f).pending = s.pending := rfl
@[simp] theorem State.modDescs_tick (t : TenantId) (p : Desc → Bool) (f : Desc → Desc) :
    (s.modDescs t p f).tick = s.tick := rfl
@[simp] theorem State.modDescs_races (t : TenantId) (p : Desc → Bool) (f : Desc → Desc) :
    (s.modDescs t p f).races = s.races := rfl
@[simp] theorem State.modDescs_tenants (t : TenantId) (p : Desc → Bool) (f : Desc → Desc) :
    (s.modDescs t p f).tenants = s.tenants.set t { s.tenants[t] with descs := s.tenants[t].descs.map (fun d => if p d then f d else d) } := rfl
@[simp] theorem State.modDescs_rounds (t : TenantId) (p : Desc → Bool) (f : Desc → Desc) :
    (s.modDescs t p f).rounds = s.rounds := rfl
@[simp] theorem State.modDescs_ctxs (t : TenantId) (p : Desc → Bool) (f : Desc → Desc) :
    (s.modDescs t p f).ctxs = s.ctxs := rfl
@[simp] theorem State.modDescs_hops (t : TenantId) (p : Desc → Bool) (f : Desc → Desc) :
    (s.modDescs t p f).hops = s.hops := rfl
@[simp] theorem State.modDescs_link (t : TenantId) (p : Desc → Bool) (f : Desc → Desc) :
    (s.modDescs t p f).link = s.link := rfl
@[simp] theorem State.modDescs_net (t : TenantId) (p : Desc → Bool) (f : Desc → Desc) :
    (s.modDescs t p f).net = s.net := rfl
@[simp] theorem State.modDescs_sec (t : TenantId) (p : Desc → Bool) (f : Desc → Desc) :
    (s.modDescs t p f).sec = s.sec := rfl
@[simp] theorem State.modDescs_rng (t : TenantId) (p : Desc → Bool) (f : Desc → Desc) :
    (s.modDescs t p f).rng = s.rng := rfl
@[simp] theorem State.modDescs_pwr (t : TenantId) (p : Desc → Bool) (f : Desc → Desc) :
    (s.modDescs t p f).pwr = s.pwr := rfl
@[simp] theorem State.modDescs_mgmt (t : TenantId) (p : Desc → Bool) (f : Desc → Desc) :
    (s.modDescs t p f).mgmt = s.mgmt := rfl
@[simp] theorem State.modDescs_start (t : TenantId) (p : Desc → Bool) (f : Desc → Desc) :
    (s.modDescs t p f).start = s.start := rfl
@[simp] theorem State.modDescs_recovering (t : TenantId) (p : Desc → Bool) (f : Desc → Desc) :
    (s.modDescs t p f).recovering = s.recovering := rfl
@[simp] theorem State.modDescs_warmDone (t : TenantId) (p : Desc → Bool) (f : Desc → Desc) :
    (s.modDescs t p f).warmDone = s.warmDone := rfl
@[simp] theorem State.modDescs_recoverErr (t : TenantId) (p : Desc → Bool) (f : Desc → Desc) :
    (s.modDescs t p f).recoverErr = s.recoverErr := rfl
@[simp] theorem State.modDescs_mem (t : TenantId) (p : Desc → Bool) (f : Desc → Desc) :
    (s.modDescs t p f).mem = s.mem := rfl

-- ## modItem

@[simp] theorem State.modItem_pending (id : Nat) (f : Item → Item) : (s.modItem id f).pending = s.pending := rfl
@[simp] theorem State.modItem_tick (id : Nat) (f : Item → Item) :
    (s.modItem id f).tick = { s.tick with items := s.tick.items.map (fun i => if i.id = id then f i else i) } := rfl
@[simp] theorem State.modItem_races (id : Nat) (f : Item → Item) : (s.modItem id f).races = s.races := rfl
@[simp] theorem State.modItem_tenants (id : Nat) (f : Item → Item) : (s.modItem id f).tenants = s.tenants := rfl
@[simp] theorem State.modItem_rounds (id : Nat) (f : Item → Item) : (s.modItem id f).rounds = s.rounds := rfl
@[simp] theorem State.modItem_ctxs (id : Nat) (f : Item → Item) : (s.modItem id f).ctxs = s.ctxs := rfl
@[simp] theorem State.modItem_hops (id : Nat) (f : Item → Item) : (s.modItem id f).hops = s.hops := rfl
@[simp] theorem State.modItem_link (id : Nat) (f : Item → Item) : (s.modItem id f).link = s.link := rfl
@[simp] theorem State.modItem_net (id : Nat) (f : Item → Item) : (s.modItem id f).net = s.net := rfl
@[simp] theorem State.modItem_sec (id : Nat) (f : Item → Item) : (s.modItem id f).sec = s.sec := rfl
@[simp] theorem State.modItem_rng (id : Nat) (f : Item → Item) : (s.modItem id f).rng = s.rng := rfl
@[simp] theorem State.modItem_pwr (id : Nat) (f : Item → Item) : (s.modItem id f).pwr = s.pwr := rfl
@[simp] theorem State.modItem_mgmt (id : Nat) (f : Item → Item) : (s.modItem id f).mgmt = s.mgmt := rfl
@[simp] theorem State.modItem_start (id : Nat) (f : Item → Item) : (s.modItem id f).start = s.start := rfl
@[simp] theorem State.modItem_recovering (id : Nat) (f : Item → Item) :
    (s.modItem id f).recovering = s.recovering := rfl
@[simp] theorem State.modItem_warmDone (id : Nat) (f : Item → Item) : (s.modItem id f).warmDone = s.warmDone := rfl
@[simp] theorem State.modItem_recoverErr (id : Nat) (f : Item → Item) :
    (s.modItem id f).recoverErr = s.recoverErr := rfl
@[simp] theorem State.modItem_mem (id : Nat) (f : Item → Item) : (s.modItem id f).mem = s.mem := rfl

-- ## freeMills

@[simp] theorem State.freeMills_pending (id : Nat) : (s.freeMills id).pending = s.pending := rfl
@[simp] theorem State.freeMills_tick (id : Nat) : (s.freeMills id).tick = s.tick := rfl
@[simp] theorem State.freeMills_races (id : Nat) :
    (s.freeMills id).races = s.races.map (fun r => { r with mills := r.mills.map (fun m => if m.item = some id then { m with item := none, bar := none, tags := Vector.replicate 16 none } else m) }) := rfl
@[simp] theorem State.freeMills_tenants (id : Nat) : (s.freeMills id).tenants = s.tenants := rfl
@[simp] theorem State.freeMills_rounds (id : Nat) : (s.freeMills id).rounds = s.rounds := rfl
@[simp] theorem State.freeMills_ctxs (id : Nat) : (s.freeMills id).ctxs = s.ctxs := rfl
@[simp] theorem State.freeMills_hops (id : Nat) : (s.freeMills id).hops = s.hops := rfl
@[simp] theorem State.freeMills_link (id : Nat) : (s.freeMills id).link = s.link := rfl
@[simp] theorem State.freeMills_net (id : Nat) : (s.freeMills id).net = s.net := rfl
@[simp] theorem State.freeMills_sec (id : Nat) : (s.freeMills id).sec = s.sec := rfl
@[simp] theorem State.freeMills_rng (id : Nat) : (s.freeMills id).rng = s.rng := rfl
@[simp] theorem State.freeMills_pwr (id : Nat) : (s.freeMills id).pwr = s.pwr := rfl
@[simp] theorem State.freeMills_mgmt (id : Nat) : (s.freeMills id).mgmt = s.mgmt := rfl
@[simp] theorem State.freeMills_start (id : Nat) : (s.freeMills id).start = s.start := rfl
@[simp] theorem State.freeMills_recovering (id : Nat) : (s.freeMills id).recovering = s.recovering := rfl
@[simp] theorem State.freeMills_warmDone (id : Nat) : (s.freeMills id).warmDone = s.warmDone := rfl
@[simp] theorem State.freeMills_recoverErr (id : Nat) : (s.freeMills id).recoverErr = s.recoverErr := rfl
@[simp] theorem State.freeMills_mem (id : Nat) : (s.freeMills id).mem = s.mem := rfl

-- ## planErr

@[simp] theorem State.planErr_pending : (s.planErr).pending = s.pending := rfl
@[simp] theorem State.planErr_tick : (s.planErr).tick = { s.tick with planErr := true } := rfl
@[simp] theorem State.planErr_races : (s.planErr).races = s.races := rfl
@[simp] theorem State.planErr_tenants : (s.planErr).tenants = s.tenants := rfl
@[simp] theorem State.planErr_rounds : (s.planErr).rounds = s.rounds := rfl
@[simp] theorem State.planErr_ctxs : (s.planErr).ctxs = s.ctxs := rfl
@[simp] theorem State.planErr_hops : (s.planErr).hops = s.hops := rfl
@[simp] theorem State.planErr_link : (s.planErr).link = s.link := rfl
@[simp] theorem State.planErr_net : (s.planErr).net = s.net := rfl
@[simp] theorem State.planErr_sec : (s.planErr).sec = s.sec := rfl
@[simp] theorem State.planErr_rng : (s.planErr).rng = s.rng := rfl
@[simp] theorem State.planErr_pwr : (s.planErr).pwr = s.pwr := rfl
@[simp] theorem State.planErr_mgmt : (s.planErr).mgmt = s.mgmt := rfl
@[simp] theorem State.planErr_start : (s.planErr).start = s.start := rfl
@[simp] theorem State.planErr_recovering : (s.planErr).recovering = s.recovering := rfl
@[simp] theorem State.planErr_warmDone : (s.planErr).warmDone = s.warmDone := rfl
@[simp] theorem State.planErr_recoverErr : (s.planErr).recoverErr = s.recoverErr := rfl
@[simp] theorem State.planErr_mem : (s.planErr).mem = s.mem := rfl

-- ## countOverrun

@[simp] theorem State.countOverrun_pending : (s.countOverrun).pending = s.pending := rfl
@[simp] theorem State.countOverrun_tick :
    (s.countOverrun).tick = { s.tick with overrun := true, overrunCnt := satInc s.tick.overrunCnt } := rfl
@[simp] theorem State.countOverrun_races : (s.countOverrun).races = s.races := rfl
@[simp] theorem State.countOverrun_tenants : (s.countOverrun).tenants = s.tenants := rfl
@[simp] theorem State.countOverrun_rounds : (s.countOverrun).rounds = s.rounds := rfl
@[simp] theorem State.countOverrun_ctxs : (s.countOverrun).ctxs = s.ctxs := rfl
@[simp] theorem State.countOverrun_hops : (s.countOverrun).hops = s.hops := rfl
@[simp] theorem State.countOverrun_link : (s.countOverrun).link = s.link := rfl
@[simp] theorem State.countOverrun_net : (s.countOverrun).net = s.net := rfl
@[simp] theorem State.countOverrun_sec : (s.countOverrun).sec = s.sec := rfl
@[simp] theorem State.countOverrun_rng : (s.countOverrun).rng = s.rng := rfl
@[simp] theorem State.countOverrun_pwr : (s.countOverrun).pwr = s.pwr := rfl
@[simp] theorem State.countOverrun_mgmt : (s.countOverrun).mgmt = s.mgmt := rfl
@[simp] theorem State.countOverrun_start : (s.countOverrun).start = s.start := rfl
@[simp] theorem State.countOverrun_recovering : (s.countOverrun).recovering = s.recovering := rfl
@[simp] theorem State.countOverrun_warmDone : (s.countOverrun).warmDone = s.warmDone := rfl
@[simp] theorem State.countOverrun_recoverErr : (s.countOverrun).recoverErr = s.recoverErr := rfl
@[simp] theorem State.countOverrun_mem : (s.countOverrun).mem = s.mem := rfl

end Sys2Proof.Machine
end

