-- ==== Sys2Proof/Laws/Ops.lean ====
section
/-! SUPPORT. What each shared operation can do, said once: the parts that an update reaches, events and the log,
responses, and the ends of items. -/

namespace Sys2Proof.Machine

variable (s : State)

/-- An operation run for each element keeps what every run of it keeps. -/
theorem forEach_keeps {α : Type} (P : State → Prop) (f : State → α → State) (xs : List α) (s : State) (h : P s)
    (hf : ∀ s x, P s → P (f s x)) : P (forEach xs s f) := by
  induction xs generalizing s with
  | nil => exact h
  | cons x xs ih => exact ih (f s x) (hf s x h)

@[simp] theorem forEach_nil {α : Type} (f : State → α → State) : forEach [] s f = s := rfl
@[simp] theorem forEach_cons {α : Type} (f : State → α → State) (x : α) (xs : List α) :
    forEach (x :: xs) s f = forEach xs (f s x) f := rfl

-- ## The parts that an update reaches

@[simp] theorem State.modRace_get (r : RaceId) (f : Race → Race) : (s.modRace r f).races[r] = f s.races[r] := by
  simp [State.modRace]

theorem State.modRace_get_ne (r q : RaceId) (f : Race → Race) (h : q ≠ r) : (s.modRace r f).races[q] = s.races[q] := by
  have : r.val ≠ q.val := fun e => h (Fin.ext e.symm)
  simp [State.modRace, Vector.getElem_set_ne, this]

@[simp] theorem State.modTenant_get (t : TenantId) (f : Tenant → Tenant) :
    (s.modTenant t f).tenants[t] = f s.tenants[t] := by
  simp [State.modTenant]

theorem State.modTenant_get_ne (t u : TenantId) (f : Tenant → Tenant) (h : u ≠ t) :
    (s.modTenant t f).tenants[u] = s.tenants[u] := by
  have : t.val ≠ u.val := fun e => h (Fin.ext e.symm)
  simp [State.modTenant, Vector.getElem_set_ne, this]

@[simp] theorem State.modHop_get (p : Fin 17) (f : HopPart → HopPart) : (s.modHop p f).hops[p] = f s.hops[p] := by
  simp [State.modHop]

theorem State.modHop_get_ne (p q : Fin 17) (f : HopPart → HopPart) (h : q ≠ p) : (s.modHop p f).hops[q] = s.hops[q] := by
  have : p.val ≠ q.val := fun e => h (Fin.ext e.symm)
  simp [State.modHop, Vector.getElem_set_ne, this]

@[simp] theorem State.setRound_get (i : Fin 64) (r : Option Round) : (s.setRound i r).rounds[i] = r := by
  simp [State.setRound]

@[simp] theorem State.mill_modMill (m : MillName) (f : Mill → Mill) : (s.modMill m f).mill m = f (s.mill m) := by
  simp [State.modMill, State.mill, State.modRace]

theorem State.mill_modMill_ne (m n : MillName) (f : Mill → Mill) (h : n ≠ m) : (s.modMill m f).mill n = s.mill n := by
  obtain ⟨r, k⟩ := m
  obtain ⟨q, j⟩ := n
  by_cases hr : q = r
  · subst hr
    have hk : j ≠ k := fun e => h (by rw [e])
    have : k.val ≠ j.val := fun e => hk (Fin.ext e.symm)
    simp [State.modMill, State.mill, State.modRace, Vector.getElem_set_ne, this]
  · have : r.val ≠ q.val := fun e => hr (Fin.ext e.symm)
    simp [State.modMill, State.mill, State.modRace, Vector.getElem_set_ne, this]

/-- Replacing a mill is the update by any function that gives the replacement. -/
theorem State.modMill_const (m : MillName) (f : Mill → Mill) : s.modMill m f = s.modMill m (fun _ => f (s.mill m)) := rfl

/-- A mill's update leaves the map from logical to physical mills, and with it the scratchpads' places. -/
@[simp] theorem State.spad_modMill (m n : MillName) (f : Mill → Mill) (off : Nat) :
    (s.modMill m f).spad n off = s.spad n off := by
  by_cases h : n.race = m.race
  · simp [State.spad, State.modMill, State.modRace, h]
  · have : m.race.val ≠ n.race.val := fun e => h (Fin.ext e.symm)
    simp [State.spad, State.modMill, State.modRace, Vector.getElem_set_ne, this]

-- ## Sparse tables

theorem sget?_sset_self {α : Type} (m : List (Nat × α)) (k : Nat) (v : α) : sget? (sset m k v) k = some v := by
  induction m with
  | nil => simp [sset, sget?]
  | cons d rest ih =>
    obtain ⟨j, w⟩ := d
    simp only [sset]
    split
    · simp [sget?]
    · split
      · simp [sget?]
      · rename_i h1 h2
        simp [sget?, Ne.symm h2, ih]

theorem sget?_sset_ne {α : Type} (m : List (Nat × α)) (k j : Nat) (v : α) (h : j ≠ k) :
    sget? (sset m k v) j = sget? m j := by
  induction m with
  | nil => simp [sset, sget?, Ne.symm h]
  | cons d rest ih =>
    obtain ⟨i, w⟩ := d
    simp only [sset]
    split
    · simp [sget?, Ne.symm h]
    · split
      · rename_i hk; subst hk; simp [sget?, Ne.symm h]
      · simp only [sget?, ih]

theorem sget?_sdel_self {α : Type} (m : List (Nat × α)) (k : Nat) : sget? (sdel m k) k = none := by
  induction m with
  | nil => rfl
  | cons d rest ih =>
    obtain ⟨i, w⟩ := d
    by_cases h : i = k
    · simpa [sdel, h] using ih
    · have : sdel ((i, w) :: rest) k = (i, w) :: sdel rest k := by simp [sdel, h]
      rw [this]; simp [sget?, h, ih]

theorem sget?_sdel_ne {α : Type} (m : List (Nat × α)) (k j : Nat) (h : j ≠ k) : sget? (sdel m k) j = sget? m j := by
  induction m with
  | nil => rfl
  | cons d rest ih =>
    obtain ⟨i, w⟩ := d
    by_cases hi : i = k
    · have : sdel ((i, w) :: rest) k = sdel rest k := by simp [sdel, hi]
      rw [this, ih]; simp [sget?, hi, Ne.symm h]
    · have : sdel ((i, w) :: rest) k = (i, w) :: sdel rest k := by simp [sdel, hi]
      rw [this]; simp [sget?, ih]

-- ## Events, the log and responses

/-- Two changes of the management block are one. -/
theorem mgmtOnly_trans {s a b : State} (h : ∃ g, a = { s with mgmt := g }) (k : ∃ g, b = { a with mgmt := g }) :
    ∃ g, b = { s with mgmt := g } := by
  obtain ⟨g, rfl⟩ := h
  obtain ⟨g', rfl⟩ := k
  exact ⟨g', rfl⟩

/-- An EVENT message to the sessions reaches the management block only. -/
theorem State.eventMsg_eq (r : LogRec) : ∃ g, s.eventMsg r = { s with mgmt := g } := by
  unfold State.eventMsg
  exact forEach_keeps (fun t => ∃ g, t = { s with mgmt := g }) _ _ s ⟨_, rfl⟩
    (fun t p ⟨g, e⟩ => by subst e; exact ⟨_, rfl⟩)

/-- A log record reaches the management block only. -/
theorem State.logEvent_eq (t : Byte) (e : Event) : ∃ g, s.logEvent t e = { s with mgmt := g } := by
  unfold State.logEvent
  exact mgmtOnly_trans ⟨_, rfl⟩ (State.eventMsg_eq _ _)

/-- An event to a tenant is queued for its journal, and may reach the log. -/
theorem State.raise_eq (t : TenantId) (e : Event) :
    ∃ g, s.raise t e = { s.modJnl t (fun j => { j with events := j.events ++ [e] }) with mgmt := g } := by
  unfold State.raise
  split
  · exact ⟨_, rfl⟩
  · exact State.logEvent_eq _ _ _

/-- A response reaches the management block only. -/
theorem State.respond_eq (q : ReqId) (op : W16) (st : Byte) (body : List Byte) :
    ∃ g, s.respond q op st body = { s with mgmt := g } := by
  unfold State.respond
  split
  · exact ⟨_, rfl⟩
  · exact ⟨_, rfl⟩

/-- A later response reaches the management block only. -/
theorem State.reply_eq (q : ReqId) (op : W16) (st : Byte) (body : List Byte) :
    ∃ g, s.reply q op st body = { s with mgmt := g } := by
  unfold State.reply
  split
  · exact ⟨_, rfl⟩
  · split
    · exact State.respond_eq s q op st body
    · exact ⟨_, rfl⟩

-- ## Items

/-- Stopping an item reaches the tick's items and the mills only. -/
theorem State.stopItem_eq (id : Nat) (st : Byte) : s.stopItem id st =
    (s.modItem id (fun i => { i with state := .stopped, status := st, effects := [], body := 0 })).freeMills id := rfl

/-- The item that an identifier names after an update of it. -/
theorem State.item?_modItem (id : Nat) (f : Item → Item) (hf : ∀ i, (f i).id = i.id) :
    (s.modItem id f).item? id = (s.item? id).map f := by
  unfold State.item?
  simp only [State.modItem_tick]
  induction s.tick.items with
  | nil => rfl
  | cons i is ih =>
    by_cases h : i.id = id
    · simp [h, hf]
    · simp [h, ih]

/-- Freeing an item's mills changes no item. -/
@[simp] theorem State.item?_freeMills (id j : Nat) : (s.freeMills id).item? j = s.item? j := rfl

/-- A stopped item holds its status and no effect. -/
theorem State.item?_stopItem (id : Nat) (st : Byte) : (s.stopItem id st).item? id =
    (s.item? id).map (fun i => { i with state := .stopped, status := st, effects := [], body := 0 }) := by
  rw [State.stopItem_eq, State.item?_freeMills, State.item?_modItem]
  intro i; rfl

end Sys2Proof.Machine
end

