-- ==== Sys2Proof/Laws/Mill.lean ====
section
/-! SUPPORT. The mill: what a control-slot instruction leaves in its mill and in the machine, and what the tile
register fields give back. -/

namespace Sys2Proof.Machine

open Sys2Proof.Safety

variable (s : State)

/-- Replacing a mill changes nothing else. -/
theorem onlyMill_modMill (m : MillName) (f : Mill → Mill) : OnlyMill m s (f (s.mill m)) (s.modMill m f) := by
  refine ⟨s.mill_modMill m f, fun n h => s.mill_modMill_ne m n f h, fun r => ?_, rfl⟩
  by_cases h : r = m.race
  · subst h; simp
  · have : m.race.val ≠ r.val := fun e => h (Fin.ext e.symm)
    simp [Vector.getElem_set_ne, this]

/-- A control-slot instruction of a mill that issues replaces that mill. -/
theorem State.control_of_issuing (m : MillName) (id : Nat) (f : Mill → Mill) (h : (s.mill m).issuing = some id) :
    s.control m f = s.modMill m (fun x => (f x).advance) := by
  simp [State.control, h]

/-- A mill that does not issue is left alone. -/
theorem State.control_of_idle (m : MillName) (f : Mill → Mill) (h : (s.mill m).issuing = none) : s.control m f = s := by
  simp [State.control, h]

/-- The flags of a bundle reach each tile register on its own. -/
theorem lateFlags_foldl (late : List (Fin 16 × Flags)) (v : Vector W64 16) (j : Fin 16) :
    (late.foldl (fun v p => v.set p.1 (tileOr v[p.1] p.2)) v)[j] = lateFlags late j v[j] := by
  induction late generalizing v with
  | nil => rfl
  | cons p late ih =>
    simp only [List.foldl_cons, ih, lateFlags]
    congr 1
    by_cases h : p.1 = j
    · subst h; simp
    · have : p.1.val ≠ j.val := fun e => h (Fin.ext e)
      simp [h, Vector.getElem_set_ne, this]

/-- The sequencer goes on: registers stay, flags settle, and the next bundle follows from the loops. -/
theorem controlEffect_advance (y z : Mill) (hl : z.late = y.late)
    (h : { z with s := y.s, t := y.t, pc := y.pc, loops := y.loops, lc := y.lc } = y) :
    ControlEffect y z.advance (fun j => z.s[j]) (fun j => z.t[j]) z.loops z.pc z.lc := by
  refine ⟨fun j => rfl, fun j => ?_, rfl, rfl, ?_⟩
  · rw [← hl]; exact lateFlags_foldl z.late z.t j
  · conv => rhs; rw [← h]
    simp [Mill.advance, Mill.settle, hl]

/-- Writing a scalar register changes that register, unless it is s0. -/
theorem Mill.setS_eq (x : Mill) (d : Fin 16) (v : W32) :
    ∃ u, x.setS d v = { x with s := u } ∧ ∀ j, j ≠ 0 → u[j] = if j = d then v else x.s[j] := by
  unfold Mill.setS
  split
  · rename_i h; exact ⟨x.s, rfl, fun j hj => by subst h; simp [hj]⟩
  · refine ⟨_, rfl, fun j _ => ?_⟩
    by_cases h : j = d
    · subst h; simp
    · have : d.val ≠ j.val := fun e => h (Fin.ext e.symm)
      simp [h, Vector.getElem_set_ne, this]

/-- The effects on a mill agree where the scalar registers other than s0 and the tile registers agree. -/
theorem controlEffect_congr {y x : Mill} {a a' : Fin 16 → W32} {b b' : Fin 16 → W64} {l : List LoopFrame} {p : Nat}
    {lc : Vector W32 4} (h : ControlEffect y x a b l p lc) (ha : ∀ j, j ≠ 0 → a j = a' j) (hb : ∀ j, b j = b' j) :
    ControlEffect y x a' b' l p lc := by
  obtain ⟨h1, h2, h3⟩ := h
  refine ⟨fun j => ?_, fun j => by rw [h2, hb], h3⟩
  rw [h1]
  by_cases hj : j = 0
  · simp [hj]
  · simp [hj, ha j hj]

-- ## Bit fields

/-- A word with a field replaced, as what lies below the field, the field, and what lies above it. -/
theorem putFld_eq (w lo len v : Nat) :
    putFld w lo len v = (w % 2 ^ lo) + 2 ^ lo * (v % 2 ^ len + 2 ^ len * (w / 2 ^ lo / 2 ^ len)) := by
  have h : w = (w % 2 ^ lo) + 2 ^ lo * (fld w lo len) + 2 ^ lo * 2 ^ len * (w / 2 ^ lo / 2 ^ len) := by
    unfold fld
    rw [Nat.shiftRight_eq_div_pow]
    calc w = 2 ^ lo * (w / 2 ^ lo) + w % 2 ^ lo := (Nat.div_add_mod w (2 ^ lo)).symm
      _ = 2 ^ lo * (2 ^ len * (w / 2 ^ lo / 2 ^ len) + w / 2 ^ lo % 2 ^ len) + w % 2 ^ lo := by
        rw [Nat.div_add_mod (w / 2 ^ lo) (2 ^ len)]
      _ = _ := by ring
  have e : w - fld w lo len * 2 ^ lo = (w % 2 ^ lo) + 2 ^ lo * 2 ^ len * (w / 2 ^ lo / 2 ^ len) := by
    conv => lhs; lhs; rw [h]
    rw [Nat.mul_comm (fld w lo len)]; omega
  unfold putFld
  rw [e]; ring

/-- A field that is written reads back. -/
theorem fld_putFld (w lo len v : Nat) : fld (putFld w lo len v) lo len = v % 2 ^ len := by
  rw [putFld_eq, fld, Nat.shiftRight_eq_div_pow, Nat.add_mul_div_left _ _ (by positivity),
    Nat.div_eq_of_lt (Nat.mod_lt _ (by positivity)), Nat.zero_add, Nat.add_mul_mod_self_left, Nat.mod_mod]

/-- Bit `i` of a word with a field replaced. -/
theorem testBit_putFld (w lo len v i : Nat) : (putFld w lo len v).testBit i =
    if lo ≤ i ∧ i < lo + len then v.testBit (i - lo) else w.testBit i := by
  rw [putFld_eq, Nat.add_comm, Nat.testBit_two_pow_mul_add _ (Nat.mod_lt _ (by positivity)), Nat.add_comm (v % 2 ^ len),
    Nat.testBit_two_pow_mul_add _ (Nat.mod_lt _ (by positivity))]
  by_cases h1 : i < lo
  · rw [if_pos h1, if_neg (by omega), Nat.testBit_mod_two_pow]; simp [h1]
  · rw [if_neg h1]
    by_cases h2 : i - lo < len
    · rw [if_pos h2, if_pos (by omega), Nat.testBit_mod_two_pow]; simp [h2]
    · rw [if_neg h2, if_neg (by omega), Nat.testBit_div_two_pow, Nat.testBit_div_two_pow]
      congr 1; omega

/-- A field apart from the one that is written stays. -/
theorem fld_putFld_ne (w lo len v lo' len' : Nat) (h : lo' + len' ≤ lo ∨ lo + len ≤ lo') :
    fld (putFld w lo len v) lo' len' = fld w lo' len' := by
  apply Nat.eq_of_testBit_eq
  intro i
  simp only [fld, Nat.testBit_mod_two_pow, Nat.testBit_shiftRight, testBit_putFld]
  by_cases hi : i < len'
  · simp only [hi, decide_true, Bool.true_and]
    rw [if_neg (by omega)]
  · simp [hi]

/-- A word with a field inside it replaced stays below the word's bound. -/
theorem putFld_lt (w lo len v n : Nat) (hw : w < 2 ^ n) (h : lo + len ≤ n) : putFld w lo len v < 2 ^ n := by
  apply Nat.lt_pow_two_of_testBit
  intro i hi
  rw [testBit_putFld, if_neg (by omega)]
  exact Nat.testBit_lt_two_pow (Nat.lt_of_lt_of_le hw (Nat.pow_le_pow_right (by omega) hi))

end Sys2Proof.Machine
end

