-- ==== Sys2Proof/Laws/Tile.lean ====
section
/-! SUPPORT. Operands and results of the units: a tile that a unit can use reads without a stop, and a row written
reaches its own bytes only. -/

namespace Sys2Proof.Machine

open Sys2Proof.Safety

theorem rowAt_mono (t : Tile) {i j : Nat} (h : i ≤ j) : t.rowAt i ≤ t.rowAt j := by
  unfold Tile.rowAt
  exact Nat.mul_le_mul_right _ (Nat.add_le_add_left (Nat.mul_le_mul_right _ h) _)

theorem covers_check {t : Tile} {rows n : Nat} (h : covers t rows n = true) : t.check = true := by
  simp only [covers, Bool.and_eq_true] at h; exact h.1.1

theorem covers_row {t : Tile} {rows n i : Nat} (h : covers t rows n = true) (hi : i < rows) :
    t.rowAt i + ceilDiv (n * fmtBits t.fmt) 8 ≤ spadBytes := by
  simp only [covers, Bool.and_eq_true, decide_eq_true_eq] at h
  have := rowAt_mono t (show i ≤ rows - 1 by omega)
  omega

theorem covers_scale {t : Tile} {rows n i : Nat} (h : covers t rows n = true) (hi : i < rows) (hm : fmtMx t.fmt = true) :
    t.scaleAt + i * (t.elems / 32) + ceilDiv n 32 ≤ spadBytes := by
  simp only [covers, Bool.and_eq_true, decide_eq_true_eq, hm, Bool.not_true, Bool.false_or] at h
  have := Nat.mul_le_mul_right (t.elems / 32) (show i ≤ rows - 1 by omega)
  omega

/-- Bytes within the scratchpad are read. -/
theorem spadGet_ok (m : List Host.Cell) (b : SpadBase) (off n : Nat) (h : off + n ≤ spadBytes) :
    spadGet m b off n = .ok (memBytes m (b + off) n) := by
  simp [spadGet, h]

theorem spadPut_ok (m : List Host.Cell) (b : SpadBase) (off : Nat) (bs : List Byte) (h : off + bs.length ≤ spadBytes) :
    spadPut m b off bs = .ok (memPuts m (b + off) bs) := by
  simp [spadPut, h]

/-- The elements of a row that a tile covers are read, as many as were asked for. -/
theorem f32s_ok (t : Tile) (m : List Host.Cell) (b : SpadBase) {rows n i : Nat} (h : covers t rows n = true) (hi : i < rows) :
    ∃ vs, t.f32s m b i n = .ok vs ∧ vs.length = n := by
  have hc : ∃ cs, t.codes m b i n = .ok cs ∧ cs.length = n := by
    refine ⟨_, by simp only [Tile.codes, spadGet_ok m b _ _ (covers_row h hi)]; rfl, by simp⟩
  have hs : ∃ es, t.scales m b i n = .ok es := by
    unfold Tile.scales
    split
    · rename_i hm; exact ⟨_, spadGet_ok m b _ _ (covers_scale h hi hm)⟩
    · exact ⟨_, rfl⟩
  obtain ⟨cs, hc, hl⟩ := hc
  obtain ⟨es, hs⟩ := hs
  refine ⟨_, by simp only [Tile.f32s, Tile.values, hc, hs]; rfl, ?_⟩
  simp [indexed, hl]

/-- Results that are all there are collected. -/
theorem collect_ok {α : Type} (xs : List (Except Byte α)) (h : ∀ x ∈ xs, ∃ v, x = .ok v) :
    ∃ vs, collect xs = .ok vs ∧ vs.length = xs.length := by
  induction xs with
  | nil => exact ⟨[], rfl, rfl⟩
  | cons x xs ih =>
    obtain ⟨v, rfl⟩ := h x (by simp)
    obtain ⟨vs, e, l⟩ := ih (fun y hy => h y (by simp [hy]))
    exact ⟨v :: vs, by simp only [collect, e], by simp [l]⟩

theorem bytesLE_length (n v : Nat) : (bytesLE n v).length = n := by
  induction n generalizing v with
  | zero => rfl
  | succ n ih => simp [bytesLE, ih]

theorem packCodes_length (bits : Nat) (cs : List Nat) : (packCodes bits cs).length = ceilDiv (cs.length * bits) 8 := by
  simp [packCodes, bytesLE_length]

theorem chunksAux_flatten {α : Type} (n : Nat) (hn : 0 < n) : ∀ (fuel : Nat) (xs : List α), xs.length ≤ fuel →
    (chunksAux n fuel xs).flatten = xs
  | 0, xs, h => by
    have : xs = [] := List.length_eq_zero_iff.1 (by omega)
    subst this; rfl
  | fuel + 1, [], _ => rfl
  | fuel + 1, x :: xs, h => by
    have := chunksAux_flatten n hn fuel ((x :: xs).drop n) (by simp at h ⊢; omega)
    simp only [chunksAux, List.flatten_cons, this, List.take_append_drop]

theorem chunks_flatten {α : Type} (n : Nat) (hn : 0 < n) (xs : List α) : (chunks n xs).flatten = xs :=
  chunksAux_flatten n hn xs.length xs (Nat.le_refl _)

theorem chunksAux_length {α : Type} (n : Nat) (hn : 0 < n) : ∀ (fuel : Nat) (xs : List α), xs.length ≤ fuel →
    (chunksAux n fuel xs).length = ceilDiv xs.length n
  | 0, xs, h => by
    have : xs = [] := List.length_eq_zero_iff.1 (by omega)
    subst this
    simp only [chunksAux, ceilDiv, List.length_nil, Nat.zero_add]
    exact (Nat.div_eq_of_lt (by omega)).symm
  | fuel + 1, [], _ => by
    simp only [chunksAux, ceilDiv, List.length_nil, Nat.zero_add]
    exact (Nat.div_eq_of_lt (by omega)).symm
  | fuel + 1, x :: xs, h => by
    have ih := chunksAux_length n hn fuel ((x :: xs).drop n) (by simp at h ⊢; omega)
    simp only [chunksAux, List.length_cons, ih, ceilDiv, List.length_drop]
    by_cases hl : n ≤ xs.length + 1
    · have : xs.length + 1 + n - 1 = (xs.length + 1 - n + n - 1) + n := by omega
      rw [this, Nat.add_div_right _ hn]
    · have h1 : (xs.length + 1 - n + n - 1) / n = 0 := Nat.div_eq_of_lt (by omega)
      have h2 : (xs.length + 1 + n - 1) / n = 1 := by
        rw [show xs.length + 1 + n - 1 = xs.length + n by omega, Nat.add_div_right _ hn, Nat.div_eq_of_lt (by omega)]
      rw [h1, h2]

theorem chunks_length {α : Type} (n : Nat) (hn : 0 < n) (xs : List α) : (chunks n xs).length = ceilDiv xs.length n :=
  chunksAux_length n hn xs.length xs (Nat.le_refl _)

theorem convBlock_length (f : Nat) (sat : Bool) (vs : List Fp) : (convBlock f sat vs).1.length = vs.length := by
  unfold convBlock
  simp only
  split <;> simp

theorem convBlocks_length (f : Nat) (sat : Bool) (bs : List (List Fp)) :
    ((bs.map (convBlock f sat)).map (·.1)).flatten.length = bs.flatten.length := by
  induction bs with
  | nil => rfl
  | cons b bs ih => simp only [List.map_cons, List.flatten_cons, List.length_append, ih, convBlock_length]

/-- Two writes of the scratchpad, one after the other, as a condition on what they leave alone. -/
theorem memGet_memPuts_twice (m : List Host.Cell) (a b : Nat) (x y : List Byte) (j : Nat) (h : memWf m = true)
    (ha : ¬ (a ≤ j ∧ j < a + x.length)) (hb : ¬ (b ≤ j ∧ j < b + y.length)) :
    memGet (memPuts (memPuts m a x) b y) j = memGet m j := by
  rw [memGet_memPuts _ _ _ _ (memPuts_wf m a x h), if_neg hb, memGet_memPuts _ _ _ _ h, if_neg ha]

/-- An address past a base, as the base and an offset. -/
theorem eq_base_add_sub (b off a : Nat) (h : b + off ≤ a) : a = b + (a - b) := by omega

/-- A row is written into a tile that covers it: the memory keeps its form, and only that row's bytes change. -/
theorem writeRow_ok (t : Tile) (m : List Host.Cell) (b : SpadBase) (sat : Bool) {rows n i : Nat} (vs : List Fp)
    (h : covers t rows n = true) (hi : i < rows) (hv : vs.length = n) :
    ∃ m' fl, t.writeRow m b sat i vs = .ok (m', fl) ∧ (memWf m = true → memWf m' = true ∧
      ∀ a, (∀ k, tileHolds t rows n k → a ≠ b + k) → memGet m' a = memGet m a) := by
  unfold Tile.writeRow
  split
  · rename_i hm
    have l1 : (packCodes (fmtBits t.fmt) ((((chunks 32 vs).map (convBlock t.fmt sat)).map (·.1)).flatten)).length =
        ceilDiv (n * fmtBits t.fmt) 8 := by
      rw [packCodes_length, convBlocks_length, chunks_flatten 32 (by omega), hv]
    have l2 : (((chunks 32 vs).map (convBlock t.fmt sat)).map (fun x => x.2.1)).length = ceilDiv n 32 := by
      rw [List.length_map, List.length_map, chunks_length 32 (by omega), hv]
    simp only
    rw [spadPut_ok m b _ _ (by rw [l1]; exact covers_row h hi)]
    simp only
    rw [spadPut_ok _ b _ _ (by rw [l2]; exact covers_scale h hi hm)]
    refine ⟨_, _, rfl, fun hw => ⟨memPuts_wf _ _ _ (memPuts_wf _ _ _ hw), fun a ha => ?_⟩⟩
    refine memGet_memPuts_twice _ _ _ _ _ _ hw ?_ ?_
    · rw [l1]
      rintro ⟨h1, h2⟩
      exact ha (a - b) ⟨i, hi, .inl ⟨by omega, by omega⟩⟩ (eq_base_add_sub b _ _ h1)
    · rw [l2]
      rintro ⟨h1, h2⟩
      exact ha (a - b) ⟨i, hi, .inr ⟨hm, by omega, by omega⟩⟩ (eq_base_add_sub b _ _ h1)
  · have l1 : (packCodes (fmtBits t.fmt) ((vs.map (convPlain t.fmt sat)).map (·.1))).length =
        ceilDiv (n * fmtBits t.fmt) 8 := by
      rw [packCodes_length, List.length_map, List.length_map, hv]
    simp only
    rw [spadPut_ok m b _ _ (by rw [l1]; exact covers_row h hi)]
    refine ⟨_, _, rfl, fun hw => ⟨memPuts_wf _ _ _ hw, fun a ha => ?_⟩⟩
    rw [memGet_memPuts _ _ _ _ hw, l1, if_neg]
    rintro ⟨h1, h2⟩
    exact ha (a - b) ⟨i, hi, .inl ⟨by omega, by omega⟩⟩ (eq_base_add_sub b _ _ h1)

/-- Rows handled one after the other: where each one succeeds, keeps the memory's form and leaves alone every byte that
`keep` names, so does the whole. -/
theorem overRows_ok (f : List Host.Cell → Nat → Except Byte (List Host.Cell × Flags)) (keep : Nat → Prop)
    (is : List Nat) (m : List Host.Cell) (fl : Flags)
    (h : ∀ m, ∀ i ∈ is, ∃ m' g, f m i = .ok (m', g) ∧
      (memWf m = true → memWf m' = true ∧ ∀ a, keep a → memGet m' a = memGet m a)) :
    ∃ m' g, overRows f is m fl = .ok (m', g) ∧
      (memWf m = true → memWf m' = true ∧ ∀ a, keep a → memGet m' a = memGet m a) := by
  induction is generalizing m fl with
  | nil => exact ⟨m, fl, rfl, fun hw => ⟨hw, fun _ _ => rfl⟩⟩
  | cons i is ih =>
    obtain ⟨m1, g1, e1, k1⟩ := h m i (by simp)
    obtain ⟨m2, g2, e2, k2⟩ := ih m1 (fl.or g1) (fun m j hj => h m j (by simp [hj]))
    refine ⟨m2, g2, by simp only [overRows, e1, e2], fun hw => ?_⟩
    obtain ⟨w1, r1⟩ := k1 hw
    obtain ⟨w2, r2⟩ := k2 w1
    exact ⟨w2, fun a ha => by rw [r2 a ha, r1 a ha]⟩

/-- An operation on the scratchpad that gives a memory and flags takes effect (R79). -/
theorem State.spadOp_ok (s : State) (m : MillName) (d : Fin 16) (id : Nat)
    (f : Mill → SpadBase → Except Byte (List Host.Cell × Flags)) (h : (s.mill m).issuing = some id)
    (mem : List Host.Cell) (fl : Flags) (e : f (s.mill m) (s.spad m 0) = .ok (mem, fl)) :
    s.spadOp m d f = ({ s with mem := mem } : State).setFlags m id d fl := by
  simp [State.spadOp, h, e]

/-- An operation on the scratchpad that stops gives its item the status and writes nothing. -/
theorem State.spadOp_error (s : State) (m : MillName) (d : Fin 16) (id : Nat)
    (f : Mill → SpadBase → Except Byte (List Host.Cell × Flags)) (h : (s.mill m).issuing = some id) (st : Byte)
    (e : f (s.mill m) (s.spad m 0) = .error st) : s.spadOp m d f = s.stopItem id st := by
  simp [State.spadOp, h, e]

/-- Flags set through a tile register, as the effect of an operation. -/
theorem tileEffect_setFlags (s : State) (m : MillName) (id : Nat) (d : Fin 16) (mem : List Host.Cell) (fl : Flags)
    (writes : Nat → Prop) (hf : memWf s.mem = true → ∀ a, (∀ k, writes k → a ≠ s.spad m 0 + k) →
      memGet mem a = memGet s.mem a) :
    TileEffect s m id d (.ok (mem, fl)) writes (({ s with mem := mem } : State).setFlags m id d fl) := by
  refine ⟨fl, rfl, hf, rfl, ?_⟩
  exact onlyMill_modMill { s with mem := mem, tick := _ } m (fun x => { x with late := x.late ++ [(d, fl)] })

end Sys2Proof.Machine
end

