-- ==== Sys2Proof/Laws/Units.lean ====
section
/-! SUPPORT. One law for each shared operation of the units: on tiles that it can use it gives a memory and flags, keeps
the memory's form, and changes no byte outside its destination. -/

namespace Sys2Proof.Machine

open Sys2Proof.Safety

/-- An operand of an element-wise operation is read under its modifiers. -/
theorem operandRow_ok (t : Tile) (m : List Host.Cell) (b : SpadBase) (brow bscal : Bool) (i rows n : Nat)
    (h : covers t (if brow || bscal then 1 else rows) (if bscal then 1 else n) = true) (hi : i < rows) :
    ∃ vs, operandRow t m b brow bscal i n = .ok vs ∧ vs.length = n := by
  unfold operandRow
  cases bscal with
  | true =>
    simp only [Bool.or_true, if_true] at h ⊢
    obtain ⟨vs, e, l⟩ := f32s_ok t m b h (by omega : 0 < 1)
    exact ⟨_, by rw [e], by simp⟩
  | false =>
    cases brow with
    | true => simp only [Bool.or_false, if_true] at h ⊢; exact f32s_ok t m b h (by omega)
    | false => simp only [Bool.or_false, Bool.false_eq_true, if_false] at h ⊢; exact f32s_ok t m b h hi

/-- Element-wise operations (R95). -/
theorem vecOp_ok (td : Tile) (srcs : List (Tile × Bool × Bool)) (f : List W32 → W32 × Flags) (sat : Bool)
    (m : List Host.Cell) (b : SpadBase) (hd : covers td td.rows td.elems = true)
    (h : ∀ x ∈ srcs, covers x.1 (if x.2.1 || x.2.2 then 1 else td.rows) (if x.2.2 then 1 else td.elems) = true) :
    ∃ mem fl, vecOp td srcs f sat m b = .ok (mem, fl) ∧ (memWf m = true → memWf mem = true ∧
      ∀ a, (∀ k, tileHolds td td.rows td.elems k → a ≠ b + k) → memGet mem a = memGet m a) := by
  unfold vecOp
  rw [if_neg]
  · refine overRows_ok _ (fun a => ∀ k, tileHolds td td.rows td.elems k → a ≠ b + k) _ m {} (fun m i hi => ?_)
    have hi := List.mem_range.1 hi
    obtain ⟨cs, e, _⟩ := collect_ok (srcs.map (fun x => operandRow x.1 m b x.2.1 x.2.2 i td.elems)) (fun r hr => by
      obtain ⟨x, hx, rfl⟩ := List.mem_map.1 hr
      obtain ⟨v, ev, _⟩ := operandRow_ok x.1 m b x.2.1 x.2.2 i td.rows td.elems (h x hx) hi
      exact ⟨v, ev⟩)
    simp only [e]
    have hl : (List.map (fun r : W32 × Flags => ofF32 r.1) (List.map (fun j =>
        ((f ((cs.map (fun c => c.getD j (0, {}))).map (·.1))).1, ((cs.map (fun c => c.getD j (0, {}))).map (·.2)).foldl Flags.or (f ((cs.map (fun c => c.getD j (0, {}))).map (·.1))).2)) (List.range td.elems))).length = td.elems := by simp
    obtain ⟨m', g, e', k⟩ := writeRow_ok td m b sat _ hd hi hl
    rw [e']
    exact ⟨_, _, rfl, k⟩
  · simp only [Bool.or_eq_true, Bool.not_eq_true', List.any_eq_true, not_or, not_exists, not_and]
    refine ⟨by rw [covers_check hd]; simp, fun x hx => by rw [covers_check (h x hx)]; simp⟩

/-- The bytes of fp32 words. -/
theorem f32words_length (l : List W32) : (l.map (fun w => bytesLE 4 w.toNat)).flatten.length = 4 * l.length := by
  induction l with
  | nil => rfl
  | cons x xs ih => simp only [List.map_cons, List.flatten_cons, List.length_append, ih, bytesLE_length, List.length_cons]; omega

/-- Reductions (R117). -/
theorem reduceOp_ok (td ta : Tile) (acc : Bool) (init : List W32) (f : List W32 → List W32 → List W32 × Flags)
    (m : List Host.Cell) (b : SpadBase) (hf : ∀ o xs, (f o xs).1.length = init.length) (hc : td.check = true) (h5 : td.fmt = 5) (ha : covers ta ta.rows ta.elems = true)
    (hd : td.rowAt (ta.rows - 1) + 4 * init.length ≤ spadBytes) :
    ∃ mem fl, reduceOp td ta acc init f m b = .ok (mem, fl) ∧ (memWf m = true → memWf mem = true ∧
      ∀ a, (∀ k, (∃ i, i < ta.rows ∧ td.rowAt i ≤ k ∧ k < td.rowAt i + 4 * init.length) → a ≠ b + k) → memGet mem a = memGet m a) := by
  unfold reduceOp
  rw [if_neg (by simp [hc, h5, covers_check ha])]
  refine overRows_ok _ (fun a => ∀ k, (∃ i, i < ta.rows ∧ td.rowAt i ≤ k ∧ k < td.rowAt i + 4 * init.length) → a ≠ b + k) _ m {} (fun m i hi => ?_)
  have hi := List.mem_range.1 hi
  obtain ⟨vs, e, l⟩ := f32s_ok ta m b ha hi
  have hr : td.rowAt i + 4 * init.length ≤ spadBytes := by
    have := rowAt_mono td (show i ≤ ta.rows - 1 by omega); omega
  rw [e, spadGet_ok m b _ _ hr]
  refine ⟨_, _, rfl, fun hw => ⟨memPuts_wf _ _ _ hw, fun a hk => ?_⟩⟩
  rw [memGet_memPuts _ _ _ _ hw, f32words_length, hf, if_neg]
  rintro ⟨h1, h2⟩
  exact hk (a - b) ⟨i, hi, by omega, by omega⟩ (eq_base_add_sub b _ _ h1)

/-- The rows of a tile are read whole. -/
theorem rowBytes_ok (t : Tile) (m : List Host.Cell) (b : SpadBase) (hc : t.checkBytes = true) (h : t.rowAt (t.rows - 1) + t.rowlen * 64 ≤ spadBytes) :
   ∃ bs, t.rowBytes m b = .ok bs := by
  unfold Tile.rowBytes
  rw [if_pos hc, if_pos h]; exact ⟨_, rfl⟩

/-- The rows of a tile are written whole. -/
theorem putRows_ok (t : Tile) (m : List Host.Cell) (b : SpadBase) (bs : List Byte) (hc : t.checkBytes = true) (h : t.rowAt (t.rows - 1) + t.rowlen * 64 ≤ spadBytes) :
   ∃ m', t.putRows m b bs = .ok m' ∧ (memWf m = true → memWf m' = true ∧
      ∀ a, (∀ k, (∃ i, i < t.rows ∧ t.rowAt i ≤ k ∧ k < t.rowAt i + t.rowlen * 64) → a ≠ b + k) → memGet m' a = memGet m a) := by
  unfold Tile.putRows
  rw [if_pos hc, if_pos h]
  refine ⟨_, rfl, fun hw => ?_⟩
  have : ∀ (is : List Nat) m, (∀ i ∈ is, i < t.rows) → memWf m = true → memWf (is.foldl (fun m i =>
        memPuts m (b + t.rowAt i) ((bs.drop (i * (t.rowlen * 64))).take (t.rowlen * 64))) m) = true ∧ 
      ∀ a, (∀ k, (∃ i, i < t.rows ∧ t.rowAt i ≤ k ∧ k < t.rowAt i + t.rowlen * 64) → a ≠ b + k) → memGet (is.foldl (fun m i =>
        memPuts m (b + t.rowAt i) ((bs.drop (i * (t.rowlen * 64))).take (t.rowlen * 64))) m) a = memGet m a := by
    intro is
    induction is with
    | nil => intro m _ hw; exact ⟨hw, fun _ _ => rfl⟩
    | cons i is ih =>
      intro m hi hw
      obtain ⟨w, r⟩ := ih (memPuts m (b + t.rowAt i) ((bs.drop (i * (t.rowlen * 64))).take (t.rowlen * 64))) (fun j hj => hi j (by simp [hj])) (memPuts_wf _ _ _ hw)
      refine ⟨w, fun a ha => ?_⟩
      rw [List.foldl_cons, r a ha, memGet_memPuts _ _ _ _ hw, if_neg]
      rintro ⟨h1, h2⟩
      refine ha (a - b) ⟨i, hi i (by simp), by omega, ?_⟩ (eq_base_add_sub b _ _ h1)
      have : ((bs.drop (i * (t.rowlen * 64))).take (t.rowlen * 64)).length ≤ t.rowlen * 64 := by simp
      omega
  exact this _ m (fun i hi => List.mem_range.1 hi) hw

/-- Ring operations (R96): they set no flag. -/
theorem ringOp_ok (td : Tile) (srcs : List Tile) (f : List (List Byte) → List Byte) (m : List Host.Cell) (b : SpadBase)
   (fits : Tile → Prop) (hfits : ∀ t, fits t ↔ (1 ≤ td.rows ∧ td.rows ≤ 256 ∧ 1 ≤ td.rowlen ∧ td.rowlen ≤ 256 ∧
      ({ t with rowlen := td.rowlen, stride := t.pitch } : Tile).rowAt (td.rows - 1) + td.rowlen * 64 ≤ spadBytes))
   (hd : fits td) (hs : ∀ x ∈ srcs, fits x) :
   ∃ mem, ringOp td srcs f m b = .ok (mem, {}) ∧ (memWf m = true → memWf mem = true ∧
      ∀ a, (∀ k, (∃ i, i < td.rows ∧ td.rowAt i ≤ k ∧ k < td.rowAt i + td.rowlen * 64) → a ≠ b + k) → memGet mem a = memGet m a) := by
  unfold ringOp
  obtain ⟨d1, d2, d3, d4, d5⟩ := (hfits td).1 hd
  obtain ⟨xs, e, _⟩ := collect_ok (srcs.map (fun t => ringOperand td t m b)) (fun r hr => by
    obtain ⟨x, hx, rfl⟩ := List.mem_map.1 hr
    obtain ⟨h1, h2, h3, h4, h5⟩ := (hfits x).1 (hs x hx)
    exact rowBytes_ok _ m b (by simp [Tile.checkBytes, Tile.asWords, h1, h2, h3, h4]) h5)
  rw [e]
  have hp : ({ td with rowlen := td.rowlen, stride := td.pitch } : Tile).rowAt (td.rows - 1) = td.rowAt (td.rows - 1) := by
    unfold Tile.rowAt Tile.pitch
    simp only
    by_cases h0 : td.stride = 0
    · simp [h0]
    · simp [h0]
  rw [hp] at d5
  obtain ⟨m', e', k⟩ := putRows_ok td.asWords m b (f xs) (by simp [Tile.checkBytes, Tile.asWords, d1, d2, d3, d4]) d5
  simp only [e']
  exact ⟨_, rfl, k⟩

/-- Flags wait in the mill until its bundle ends. -/
theorem late_setFlags (s : State) (m : MillName) (id : Nat) (d : Fin 16) (fl : Flags) : ((s.setFlags m id d fl).mill m).late = (s.mill m).late ++ [(d, fl)] := by
  have : (s.setFlags m id d fl).mill m = (s.modMill m (fun x => { x with late := x.late ++ [(d, fl)] })).mill m := rfl
  rw [this, State.mill_modMill]

/-- A mill that issues runs the item. -/
theorem item_of_issuing (x : Mill) (id : Nat) (h : x.issuing = some id) : x.item = some id := by
  unfold Mill.issuing at h; split at h
  · cases h
  · exact h

/-- An update of several mills, each named once. -/
theorem forEach_mills (ms : List MillName) (f : Mill → Mill) (s : State) (hn : ms.Nodup) :
   (∀ m ∈ ms, (forEach ms s (fun s m => s.modMill m f)).mill m = f (s.mill m)) ∧
   (∀ m, m ∉ ms → (forEach ms s (fun s m => s.modMill m f)).mill m = s.mill m) ∧
   { forEach ms s (fun s m => s.modMill m f) with races := s.races } = s := by
  induction ms generalizing s with
  | nil => exact ⟨fun m h => (by simp at h), fun m _ => rfl, rfl⟩
  | cons n ms ih =>
    have hn' := List.nodup_cons.1 hn
    obtain ⟨h1, h2, h3⟩ := ih (s.modMill n f) hn'.2
    refine ⟨fun m hm => ?_, fun m hm => ?_, ?_⟩
    · rw [forEach_cons]
      rcases List.mem_cons.1 hm with rfl | hm'
      · rw [h2 m hn'.1, s.mill_modMill]
      · rw [h1 m hm', s.mill_modMill_ne]; intro e; subst e; exact hn'.1 hm'
    · rw [forEach_cons]
      simp only [List.mem_cons, not_or] at hm
      rw [h2 m hm.2, s.mill_modMill_ne _ _ _ hm.1]
    · rw [forEach_cons]
      have := congrArg (fun (x : State) => { x with races := s.races }) h3
      exact this

/-- A mill after an item has left it. -/
theorem freeMills_mill (s : State) (id : Nat) (n : MillName) : (s.freeMills id).mill n =
   if (s.mill n).item = some id then { s.mill n with item := none, bar := none, tags := Vector.replicate 16 none } else s.mill n := by
  unfold State.freeMills State.mill
  simp only [Fin.getElem_fin, Vector.getElem_map]

/-- An operation on the scratchpad that gives a result completes with it. -/
theorem spadOp_effect (s : State) (m : MillName) (d : Fin 16) (id : Nat)
    (f : Mill → SpadBase → Except Byte (List Host.Cell × Flags)) (h : (s.mill m).issuing = some id) (writes : Nat → Prop)
    (r : Except Byte (List Host.Cell × Flags)) (hr : f (s.mill m) (s.spad m 0) = r)
    (ok : ∃ mem fl, r = .ok (mem, fl) ∧ (memWf s.mem = true → memWf mem = true ∧
      ∀ a, (∀ k, writes k → a ≠ s.spad m 0 + k) → memGet mem a = memGet s.mem a)) :
    ∃ t, (Host.Outcome.next (s.spadOp m d f) : Host.Outcome State Fault Refusal) = .next t ∧ TileEffect s m id d r writes t := by
  obtain ⟨mem, fl, e, k⟩ := ok
  refine ⟨_, rfl, ?_⟩
  rw [s.spadOp_ok m d id f h mem fl (hr.trans e), e]
  exact tileEffect_setFlags s m id d mem fl writes (fun hw => (k hw).2)

/-- A control-slot instruction of a mill that issues completes. -/
theorem control_effect (s : State) (m : MillName) (id : Nat) (f : Mill → Mill) (h : (s.mill m).issuing = some id)
   (a b l p lc) (hf : ControlEffect (s.mill m) (f (s.mill m)).advance a b l p lc) :
   ∃ t x, Host.Outcome.next (s.control m f) = (Host.Outcome.next t : Host.Outcome State Fault Refusal) ∧ OnlyMill m s x t ∧ ControlEffect (s.mill m) x a b l p lc := by
  refine ⟨_, _, rfl, ?_, hf⟩
  rw [s.control_of_issuing m id f h]
  exact onlyMill_modMill s m (fun x => (f x).advance)

end Sys2Proof.Machine
end

