-- ==== Sys2Proof/Laws/Items.lean ====
section
/-! SUPPORT. How the work of an item leaves it: the item that a command works on, and what its end changes. -/

namespace Sys2Proof.Machine

open Sys2Proof.Safety

/-- A command of a descriptor's item runs its work on a live item of its opcode. -/
theorem State.work_of (s : State) (id op : Nat) (i : Item) (f : Item → State → State) (h : Works s id op i) :
    s.work id op f = f i s := by
  obtain ⟨h1, h2, h3, h4⟩ := h
  simp [State.work, h1, h2, h3, h4]

/-- An update of one item leaves the item that another identifier names. -/
theorem State.item?_modItem_ne (s : State) (id j : Nat) (f : Item → Item) (hf : ∀ i, (f i).id = i.id) (h : j ≠ id) :
    (s.modItem id f).item? j = s.item? j := by
  unfold State.item?
  simp only [State.modItem_tick]
  induction s.tick.items with
  | nil => rfl
  | cons i is ih =>
    rw [List.map_cons, List.find?_cons, List.find?_cons, ih]
    by_cases h1 : i.id = id
    · rw [if_pos h1, show decide ((f i).id = j) = false by rw [hf, h1]; simpa using Ne.symm h,
        show decide (i.id = j) = false by rw [h1]; simpa using Ne.symm h]
    · rw [if_neg h1]

/-- The end of an item, whatever it ends as: it leaves its mills, and nothing else changes. -/
theorem itemLeft_of (s : State) (id : Nat) (i u : Item) (f : Item → Item) (hi : s.item? id = some i)
    (hf : ∀ i, (f i).id = i.id) (hu : f i = u) : ItemLeft s id u ((s.modItem id f).freeMills id) := by
  subst hu
  refine ⟨?_, ?_, rfl, ?_, ?_, rfl⟩
  · rw [State.item?_freeMills, State.item?_modItem _ _ _ hf, hi]; rfl
  · intro j hj
    rw [State.item?_freeMills, State.item?_modItem_ne _ _ _ _ hf hj]
  · intro m
    rw [freeMills_mill]
    split
    · simp
    · assumption
  · intro m hm
    rw [freeMills_mill]
    exact if_neg hm

/-- A live item ends with its status, completion bytes and effects. -/
theorem itemLeft_end (s : State) (id : Nat) (i : Item) (st : Byte) (body : Nat) (effects : List Effect)
    (hi : s.item? id = some i) (hl : i.live = true) :
    ItemLeft s id (ended i st body effects) (s.endItem id st body effects) :=
  itemLeft_of s id i _ _ hi (fun j => by cases j.live <;> rfl) (by simp only [hl, if_true]; rfl)

/-- An item stops for good. -/
theorem itemLeft_stop (s : State) (id : Nat) (i : Item) (st : Byte) (hi : s.item? id = some i) :
    ItemLeft s id (stopped i st) (s.stopItem id st) :=
  itemLeft_of s id i _ _ hi (fun _ => rfl) rfl

/-- The live item that an end names. -/
theorem State.item?_endItem (s : State) (id : Nat) (i : Item) (st : Byte) (body : Nat) (effects : List Effect)
    (hi : s.item? id = some i) (hl : i.live = true) :
    (s.endItem id st body effects).item? id = some (ended i st body effects) := (itemLeft_end s id i st body effects hi hl).1

-- ## Host memory and values

/-- A write of host memory reaches the link only. -/
theorem State.hostWrite_eq (s : State) (addr : Nat) (bs : List Byte) : ∃ l, s.hostWrite addr bs = { s with link := l } := by
  unfold State.hostWrite
  exact forEach_keeps (fun t => ∃ l, t = { s with link := l }) _ _ s ⟨_, rfl⟩ (fun t p ⟨l, e⟩ => by subst e; exact ⟨_, rfl⟩)

/-- A value of a tenant's queue that no tag in use equals is the tag that is drawn (R289). -/
theorem State.drawTag_first (t : TenantId) (n : Nat) (s : State) (v : W32) (rest : List W32) (hn : 0 < n)
    (hv : s.tenants[t].values = v :: rest) (hu : s.tagUsed v = false) :
    State.drawTag t n s = (s.modTenant t (fun x => { x with values := rest }), some v) := by
  obtain ⟨k, rfl⟩ : ∃ k, n = k + 1 := ⟨n - 1, by omega⟩
  unfold State.drawTag
  rw [hv]
  have hw : ∀ u : TenantId, (s.modTenant t (fun x => { x with values := rest })).tenants[u].weir = s.tenants[u].weir := by
    intro u
    by_cases h : u = t
    · subst h; rw [State.modTenant_get]
    · rw [State.modTenant_get_ne _ _ _ _ h]
  have : State.tagUsed (s.modTenant t (fun x => { x with values := rest })) v = s.tagUsed v := by
    unfold State.tagUsed
    simp only [hw, State.modTenant_tick]
  dsimp only
  rw [if_neg]
  rw [this, hu]; simp

end Sys2Proof.Machine
end

