-- ==== Sys2Proof/Laws/Dram.lean ====
section
/-! SUPPORT. What an access to the memory tiers can change: said once for every read, write and zero-fill. -/

namespace Sys2Proof.Machine

/-- What accesses to memory reach of a machine: `t` has the memory in its form, and of `s` everything but the bytes, the
memory blocks, the mills of cut items, RACE_OOS, the items, the overrun counts, the contexts, the log, and of a tenant its
events, its state, its models and its descriptors. -/
structure Touched (s t : State) : Prop where
  wf : memWf s.mem = true → memWf t.mem = true
  rest : { t with mem := s.mem, races := s.races, tenants := s.tenants, tick := s.tick, ctxs := s.ctxs, mgmt := s.mgmt } = s
  race : ∀ r : RaceId, { t.races[r] with mem := s.races[r].mem, mills := s.races[r].mills, oos := s.races[r].oos } = s.races[r]
  tenant : ∀ u : TenantId, { t.tenants[u] with
    jnl := { t.tenants[u].jnl with events := s.tenants[u].jnl.events }, state := s.tenants[u].state
    models := s.tenants[u].models, descs := s.tenants[u].descs } = s.tenants[u]
  tick : { t.tick with
    items := s.tick.items, overrun := s.tick.overrun, overrunCnt := s.tick.overrunCnt } = s.tick
  ids : t.tick.items.map (·.id) = s.tick.items.map (·.id)

theorem Touched.refl (s : State) : Touched s s := ⟨id, rfl, fun _ => rfl, fun _ => rfl, rfl, rfl⟩

theorem Touched.trans {s t u : State} (h : Touched s t) (k : Touched t u) : Touched s u where
  wf := fun w => k.wf (h.wf w)
  rest := by
    have := congrArg (fun x : State => { x with mem := s.mem, races := s.races, tenants := s.tenants, tick := s.tick,
                                                ctxs := s.ctxs, mgmt := s.mgmt }) k.rest
    exact this.trans h.rest
  race := fun r => by
    have := congrArg (fun x : Race => { x with mem := s.races[r].mem, mills := s.races[r].mills, oos := s.races[r].oos }) (k.race r)
    exact this.trans (h.race r)
  tenant := fun v => by
    have := congrArg (fun x : Tenant => { x with
      jnl := { x.jnl with events := s.tenants[v].jnl.events }, state := s.tenants[v].state
      models := s.tenants[v].models, descs := s.tenants[v].descs }) (k.tenant v)
    exact this.trans (h.tenant v)
  tick := by
    have := congrArg (fun x : Tick => { x with
      items := s.tick.items, overrun := s.tick.overrun, overrunCnt := s.tick.overrunCnt }) k.tick
    exact this.trans h.tick
  ids := k.ids.trans h.ids

/-- The same with the later part first. -/
theorem Touched.after {s t u : State} (k : Touched t u) (h : Touched s t) : Touched s u := h.trans k

/-- A run over a list touches no more than its parts do. -/
theorem Touched.foldl {α β : Type} (g : β → State) (f : β → α → β) (xs : List α) (b : β)
    (h : ∀ b x, Touched (g b) (g (f b x))) : Touched (g b) (g (xs.foldl f b)) := by
  induction xs generalizing b with
  | nil => exact .refl _
  | cons x xs ih => exact (h b x).trans (ih _)

theorem Touched.forEach {α : Type} (f : State → α → State) (xs : List α) (s : State)
    (h : ∀ s x, Touched s (f s x)) : Touched s (forEach xs s f) := Touched.foldl id f xs s h

/-- An update of the parts of a race that accesses reach. -/
theorem Touched.modRace (s : State) (r : RaceId) (f : Race → Race)
    (hf : ∀ x, { f x with mem := x.mem, mills := x.mills, oos := x.oos } = x) : Touched s (s.modRace r f) where
  wf := id
  rest := rfl
  race := fun q => by
    by_cases h : q = r
    · subst h; rw [State.modRace_get]; exact hf _
    · rw [State.modRace_get_ne _ _ _ _ h]
  tenant := fun _ => rfl
  tick := rfl
  ids := rfl

theorem Touched.modMem (s : State) (r : RaceId) (f : RaceMem → RaceMem) : Touched s (s.modMem r f) :=
  .modRace s r _ (fun _ => rfl)

theorem Touched.modChan (s : State) (r : RaceId) (ch : Fin 46) (f : Chan → Chan) : Touched s (s.modChan r ch f) :=
  .modMem s r _

theorem Touched.memPuts (s : State) (a : Nat) (bs : List Byte) : Touched s { s with mem := memPuts s.mem a bs } :=
  ⟨fun h => memPuts_wf _ _ _ h, rfl, fun _ => rfl, fun _ => rfl, rfl, rfl⟩

/-- An update of the parts of a tenant that accesses reach. -/
theorem Touched.modTenant (s : State) (t : TenantId) (f : Tenant → Tenant)
    (hf : ∀ x, { f x with jnl := { (f x).jnl with events := x.jnl.events }, state := x.state, models := x.models, descs := x.descs } = x) :
    Touched s (s.modTenant t f) where
  wf := id
  rest := rfl
  race := fun _ => rfl
  tenant := fun u => by
    by_cases h : u = t
    · subst h; rw [State.modTenant_get]; exact hf _
    · rw [State.modTenant_get_ne _ _ _ _ h]
  tick := rfl
  ids := rfl

theorem Touched.modDesc (s : State) (t : TenantId) (ring : Fin 64) (seq : W48) (f : Desc → Desc) :
    Touched s (s.modDesc t ring seq f) := by
  unfold State.modDesc State.modDescs
  exact .modTenant s t _ (fun _ => rfl)

theorem Touched.mgmt (s : State) (g : Mgmt) : Touched s { s with mgmt := g } :=
  ⟨id, rfl, fun _ => rfl, fun _ => rfl, rfl, rfl⟩

theorem Touched.ctxs (s : State) (c : List (Nat × Ctx)) : Touched s { s with ctxs := c } :=
  ⟨id, rfl, fun _ => rfl, fun _ => rfl, rfl, rfl⟩

theorem Touched.raise (s : State) (t : TenantId) (e : Event) : Touched s (s.raise t e) := by
  obtain ⟨g, h⟩ := s.raise_eq t e
  rw [h]
  exact .after (.mgmt (s.modJnl t _) g) (.modTenant s t _ (fun _ => rfl))

theorem Touched.raiseRace (s : State) (r : RaceId) (e : Event) : Touched s (s.raiseRace r e) := by
  unfold State.raiseRace
  dsimp only
  split
  · exact .raise s _ _
  · obtain ⟨g, h⟩ := s.logEvent_eq 0xFF { e with race := BitVec.ofNat 8 r.val }
    rw [h]; exact .mgmt s g

theorem Touched.modItem (s : State) (id : Nat) (f : Item → Item) (hf : ∀ i, (f i).id = i.id) : Touched s (s.modItem id f) where
  wf := fun h => h
  rest := rfl
  race := fun _ => rfl
  tenant := fun _ => rfl
  tick := rfl
  ids := by
    rw [State.modItem_tick, List.map_map]
    exact List.map_congr_left (fun i _ => by
      show (if i.id = id then f i else i).id = i.id
      split
      · exact hf i
      · rfl)

theorem Touched.freeMills (s : State) (id : Nat) : Touched s (s.freeMills id) where
  wf := fun h => h
  rest := rfl
  race := fun r => by simp only [State.freeMills, Fin.getElem_fin, Vector.getElem_map]
  tenant := fun _ => rfl
  tick := rfl
  ids := rfl

theorem Touched.stopItem (s : State) (id : Nat) (st : Byte) : Touched s (s.stopItem id st) :=
  .after (.freeMills _ id) (.modItem s id _ (fun _ => rfl))

theorem Touched.endItem (s : State) (id : Nat) (st : Byte) (body : Nat) (es : List Effect) : Touched s (s.endItem id st body es) :=
  .after (.freeMills _ id) (.modItem s id _ (fun i => by cases i.live <;> rfl))

theorem Touched.countOverrun (s : State) : Touched s s.countOverrun :=
  ⟨id, rfl, fun _ => rfl, fun _ => rfl, rfl, rfl⟩

theorem Touched.cutItem (s : State) (id : Nat) : Touched s (s.cutItem id) := by
  unfold State.cutItem
  split
  · exact .refl s
  · split
    · exact .refl s
    · have h : ∀ i : Item, Touched s (((s.countOverrun.modItem id (fun i =>
          { i with state := .cut, cuts := i.cuts + 1, effects := [], flags := {}, body := 0 })).freeMills id).modDesc
            i.tenant i.ring i.seq (fun d => { d with fault := true })) := fun i =>
        .after (.modDesc _ _ _ _ _) (.after (.freeMills _ id) (.after (.modItem _ id _ (fun _ => rfl)) (.countOverrun s)))
      dsimp only
      split
      · exact h _
      · split
        · exact .after (.modItem _ id _ (fun _ => rfl)) (h _)
        · exact .after (.raise _ _ _) (.after (.modItem _ id _ (fun _ => rfl)) (h _))

theorem Touched.cutWhere (s : State) (p : Item → Bool) : Touched s (s.cutWhere p) :=
  .forEach _ _ s (fun s i => .cutItem s i.id)

theorem Touched.raceOut (s : State) (r : RaceId) : Touched s (s.raceOut r) := by
  unfold State.raceOut
  split
  · exact .refl s
  · have h : Touched s ((s.modRace r (fun x => { x with oos := true })).raiseRace r { cls := 0x03, flags := 4 }) :=
      .after (.raiseRace _ r _) (.modRace s r _ (fun _ => rfl))
    dsimp only
    split
    · exact .after (.modTenant _ _ _ (fun _ => rfl)) h
    · exact h

-- ## The accesses

theorem Touched.storeWord (s : State) (r : RaceId) (ch : Fin 46) (burst : Nat) (bs : List Byte) :
    Touched s (s.storeWord r ch burst bs) := by
  unfold State.storeWord
  split
  · exact .refl s
  · dsimp only
    split
    · exact .after (.modMem _ r _) (.memPuts s _ bs)
    · exact .after (.modMem _ r _) (.memPuts s _ bs)

theorem Touched.loseChannel (s : State) (r : RaceId) (ch : Fin 46) (failing : Bool) :
    Touched s (s.loseChannel r ch failing) := by
  unfold State.loseChannel
  dsimp only
  split
  · exact .refl s
  · have out : ∀ (b : Bool) (x : State), Touched s x → Touched s (if b = true then x.raceOut r else x) := fun b x h => by
      split
      · exact h.trans (.raceOut x r)
      · exact h
    apply out
    have h : ∀ (f : RaceMem → RaceMem) (e : Event), Touched s ((s.modMem r f).raiseRace r e) := fun f e =>
      .after (.raiseRace _ r e) (.modMem s r f)
    split
    · exact h _ _
    · have k : ∀ (x : State) (ids : List Nat) (p : Item → Bool), Touched x (Machine.forEach ids (x.cutWhere p)
          (fun s id => s.firstAttempt id)) := fun x ids p =>
        .after (.forEach _ ids _ (fun s id => .modItem s id _ (fun _ => rfl))) (.cutWhere x p)
      split
      · exact .after (k _ _ _) (h _ _)
      · exact .after (.ctxs (State.freeHot _ _ r) _) (.after (.modTenant _ _ _ (fun _ => rfl)) (.after (k _ _ _) (h _ _)))

theorem Touched.countUncorr (s : State) (r : RaceId) (ch : Fin 46) (burst : Nat) : Touched s (s.countUncorr r ch burst) := by
  unfold State.countUncorr
  dsimp only
  split
  · exact .after (.loseChannel _ r ch true) (.after (.modMem _ r _) (.modChan s r ch _))
  · exact .after (.modMem _ r _) (.modChan s r ch _)

theorem Touched.remapWord (s : State) (r : RaceId) (ch : Fin 46) (burst : Nat) (bs : List Byte) :
    Touched s (s.remapWord r ch burst bs) := by
  unfold State.remapWord
  dsimp only
  split
  · exact .refl s
  · split
    · exact .after (.modMem _ r _) (.memPuts s _ bs)
    · split
      · exact .after (.modMem _ r _) (.after (.memPuts ((s.modChan r ch _).modMem r _) _ bs) (.after (.modMem _ r _) (.modChan s r ch _)))
      · exact .loseChannel s r ch true

theorem Touched.countCorr (s : State) (r : RaceId) (ch : Fin 46) (burst n : Nat) (scrub : Bool) :
    Touched s (s.countCorr r ch burst n scrub) := by
  unfold State.countCorr
  dsimp only
  split
  · exact .modChan s r ch _
  · split
    · exact .after (.modChan _ r ch _) (.modChan s r ch _)
    · split
      · exact .after (.modChan _ r ch _) (.after (.modChan _ r ch _) (.modChan s r ch _))
      · split
        · exact .after (.modMem _ r _) (.after (.modChan _ r ch _) (.after (.modChan _ r ch _) (.modChan s r ch _)))
        · exact .after (.raiseRace _ r _) (.after (.modMem _ r _) (.after (.modChan _ r ch _) (.after (.modChan _ r ch _) (.modChan s r ch _))))

theorem Touched.readBurst (s : State) (r : RaceId) (ch : Fin 46) (burst : Nat) (scrub : Bool) :
    Touched s (s.readBurst r ch burst scrub).1 := by
  unfold State.readBurst
  dsimp only
  split
  · exact .refl s
  · split
    · exact .refl s
    · split
      · exact .refl s
      · dsimp only
        split
        · exact .after (.remapWord _ r ch burst _) (.countCorr s r ch burst _ scrub)
        · exact .countCorr s r ch burst _ scrub
      · exact .countUncorr s r ch burst

theorem Touched.rebuildWord (s : State) (r : RaceId) (row k c : Nat) (scrub : Bool) :
    Touched s (s.rebuildWord r row k c scrub).1 := by
  unfold State.rebuildWord
  refine Touched.foldl (fun b : State × Option (List Byte) => b.1) _ _ (s, some _) (fun b x => ?_)
  dsimp only
  split
  · exact .refl _
  · exact .readBurst _ r _ _ scrub

theorem Touched.tbFailedRead (s : State) (r : RaceId) (o : Nat) (ch : Fin 46) (burst : Nat) :
    Touched s (s.tbFailedRead r o ch burst).1 := by
  unfold State.tbFailedRead
  have h : Touched s (s.uncorrEvent r ch burst) := .raiseRace s r _
  dsimp only
  split
  · exact .after (.raceOut _ r) (.after (.modMem _ r _) h)
  · split
    · exact .after (.raceOut _ r) h
    · exact h

theorem Touched.readBlock (s : State) (r : RaceId) (row k c o : Nat) (scrub : Bool) :
    Touched s (s.readBlock r row k c o scrub).1 := by
  unfold State.readBlock
  dsimp only
  have hw := fun x : State => Touched.rebuildWord x r row k c scrub
  split
  · have h := hw s
    revert h
    split <;> rename_i e <;> rw [e] <;> intro h
    · exact h
    · exact h.trans (.tbFailedRead _ r o _ _)
  · have h := Touched.readBurst s r (tbBlock row k c).1 (tbBlock row k c).2 scrub
    revert h
    split <;> rename_i e <;> rw [e] <;> intro h
    · exact h
    · split
      · exact h.trans (.tbFailedRead _ r o _ _)
      · rename_i s' _
        have h' := hw s'
        revert h'
        split <;> rename_i e <;> rw [e] <;> intro h'
        · exact (h.trans h').trans (.remapWord _ r _ _ _)
        · exact (h.trans h').trans (.tbFailedRead _ r o _ _)

theorem Touched.readTb (s : State) (r : RaceId) (o : Nat) (scrub : Bool) : Touched s (s.readTb r o scrub).1 :=
  .readBlock s r _ _ _ o scrub

theorem Touched.repairFrom (s : State) (r : RaceId) (ch : Fin 46) (burst copy : Nat) (scrub : Bool) :
    Touched s (s.repairFrom r ch burst copy scrub).1 := by
  unfold State.repairFrom
  have h := Touched.readTb s r (copy / 32 * 32) scrub
  revert h
  split <;> rename_i e <;> rw [e] <;> intro h
  · exact h.trans (.remapWord _ r ch burst _)
  · exact h

theorem Touched.repairTa (s : State) (r : RaceId) (o : Nat) (ch : Fin 46) (burst : Nat) (scrub : Bool) :
    Touched s (s.repairTa r o ch burst scrub).1 := by
  unfold State.repairTa
  have h : Touched s (s.uncorrEvent r ch burst) := .raiseRace s r _
  dsimp only
  split
  · exact .after (.repairFrom _ r ch burst _ scrub) h
  · exact .after (.repairFrom _ r ch burst _ scrub) h
  · exact .after (.ctxs (State.modTenant _ _ _) _) (.after (.modTenant _ _ _ (fun _ => rfl)) h)
  · exact .after (.remapWord _ r ch burst _) (.after (.ctxs _ _) h)
  · exact h

theorem Touched.readTa (s : State) (r : RaceId) (o : Nat) (scrub : Bool) : Touched s (s.readTa r o scrub).1 := by
  unfold State.readTa
  dsimp only
  split
  · split
    · exact .readTb s r _ scrub
    · exact .refl s
  · have h := Touched.readBurst s r (taLoc o).1 (taLoc o).2 scrub
    revert h
    split <;> rename_i e <;> rw [e] <;> intro h
    · exact h
    · split
      · exact h
      · exact h.trans (.repairTa _ r o _ _ scrub)

theorem Touched.readWord (s : State) (r : RaceId) (tierB : Bool) (o : Nat) (scrub : Bool) :
    Touched s (s.readWord r tierB o scrub).1 := by
  unfold State.readWord
  split
  · exact .readTb s r _ scrub
  · exact .readTa s r _ scrub

theorem Touched.readWords (r : RaceId) (tierB scrub : Bool) (n o : Nat) (acc : List (List Byte)) (s : State) :
    Touched s (State.readWords r tierB scrub n o acc s).1 := by
  induction n generalizing o acc s with
  | zero => exact .refl s
  | succ n ih =>
    unfold State.readWords
    have h := Touched.readWord s r tierB o scrub
    revert h
    split <;> rename_i e <;> rw [e] <;> intro h
    · exact h.trans (ih _ _ _)
    · exact h

theorem Touched.readSpan (s : State) (x : Span) (scrub : Bool) : Touched s (s.readSpan x scrub).1 := by
  unfold State.readSpan
  dsimp only
  have h := Touched.readWords x.race x.tierB scrub (ceilDiv (x.off + x.len - x.off / 32 * 32) 32) (x.off / 32 * 32) [] s
  revert h
  split <;> rename_i e <;> rw [e] <;> intro h <;> exact h

theorem Touched.readSpans (s : State) (xs : List Span) : Touched s (s.readSpans xs).1 := by
  unfold State.readSpans
  refine Touched.foldl (fun b : State × Access => b.1) _ _ (s, .ok []) (fun b x => ?_)
  split
  · have h := Touched.readSpan b.1 x false
    revert h
    split <;> rename_i e <;> rw [e] <;> intro h <;> exact h
  · exact .refl _

theorem Touched.writeRow (s : State) (r : RaceId) (row off : Nat) (bs : List Byte) :
    Touched s (s.writeRow r row off bs).1 := by
  unfold State.writeRow
  dsimp only
  generalize hx : List.foldl _ _ (List.range 56) = x
  have h : Touched s x.1 := by
    rw [← hx]
    refine Touched.foldl (fun b : State × Access × List (List Byte) => b.1) _ _ (s, .ok [], []) (fun b i => ?_)
    split
    · split
      · exact .refl _
      · have h := Touched.readTb b.1 r (row * 1792 + 32 * i) false
        revert h
        split <;> rename_i e <;> rw [e] <;> intro h <;> exact h
    · exact .refl _
  split
  · refine .after (Touched.foldl id _ _ _ (fun s c => .storeWord s r _ _ _)) (.after (Touched.foldl id _ _ _ (fun s p => ?_)) h)
    dsimp only [id]
    split
    · exact .storeWord s r _ _ _
    · exact .refl s
  · exact h

theorem Touched.writeTb (r : RaceId) (n off : Nat) (bs : List Byte) (s : State) :
    Touched s (State.writeTb r n off bs s).1 := by
  induction n generalizing off bs s with
  | zero => exact .refl s
  | succ n ih =>
    cases bs with
    | nil => unfold State.writeTb; exact .refl s
    | cons b bs =>
      unfold State.writeTb
      generalize 1792 - off % 1792 = k
      dsimp only
      have h := Touched.writeRow s r (off / 1792) off ((b :: bs).take k)
      generalize s.writeRow r (off / 1792) off ((b :: bs).take k) = x at h ⊢
      split
      · exact h.trans (ih _ _ _)
      · exact h

theorem Touched.writeTaWord (s : State) (r : RaceId) (off : Nat) (bs : List Byte) :
    Touched s (s.writeTaWord r off bs).1 := by
  unfold State.writeTaWord
  dsimp only
  split
  · split
    · exact .writeTb r 2 _ bs s
    · exact .refl s
  · split
    · exact .storeWord s r _ _ _
    · have h := Touched.readTa s r (off / 32 * 32) false
      revert h
      split <;> rename_i e <;> rw [e] <;> intro h
      · exact h.trans (.storeWord _ r _ _ _)
      · exact h

theorem Touched.writeTa (r : RaceId) (n off : Nat) (bs : List Byte) (s : State) :
    Touched s (State.writeTa r n off bs s).1 := by
  induction n generalizing off bs s with
  | zero => exact .refl s
  | succ n ih =>
    cases bs with
    | nil => exact .refl s
    | cons b bs =>
      unfold State.writeTa
      generalize 32 - off % 32 = k
      dsimp only
      have h := Touched.writeTaWord s r off ((b :: bs).take k)
      generalize s.writeTaWord r off ((b :: bs).take k) = x at h ⊢
      split
      · exact h.trans (ih _ _ _)
      · exact h

theorem Touched.writeAt (s : State) (r : RaceId) (tierB : Bool) (off : Nat) (bs : List Byte) :
    Touched s (s.writeAt r tierB off bs).1 := by
  unfold State.writeAt
  split
  · exact .writeTb r _ off bs s
  · exact .writeTa r _ off bs s

theorem Touched.writeSpans (s : State) (xs : List Span) (bs : List Byte) : Touched s (s.writeSpans xs bs).1 := by
  unfold State.writeSpans
  refine Touched.foldl (fun b : (State × Access) × List Byte => b.1.1) _ _ ((s, .ok []), bs) (fun b x => ?_)
  split
  · exact .writeAt _ _ _ _ _
  · exact .refl _

theorem Touched.zeroSpan (s : State) (x : Span) : Touched s (s.zeroSpan x) := by
  unfold State.zeroSpan
  split
  · dsimp only
    split
    · exact .refl s
    · exact Touched.foldl id _ _ _ (fun s row => .writeRow s _ _ _ _)
  · exact Touched.foldl id _ _ _ (fun s o => .writeTa _ 2 _ _ s)

theorem Touched.zeroSpans (s : State) (xs : List Span) : Touched s (s.zeroSpans xs) :=
  Touched.foldl id _ xs s (fun s x => .zeroSpan s x)

theorem Touched.accessFail (s : State) (id : Nat) (y : Access) : Touched s (s.accessFail id y) := by
  cases y
  · exact .refl s
  · exact .cutItem s id
  · exact .stopItem s id _
  · exact .cutItem s id
  · exact .stopItem s id _

-- ## What no access reaches

variable {s t : State}

theorem Touched.pending (h : Touched s t) : t.pending = s.pending := (congrArg State.pending h.rest :)
theorem Touched.rounds (h : Touched s t) : t.rounds = s.rounds := (congrArg State.rounds h.rest :)
theorem Touched.hops (h : Touched s t) : t.hops = s.hops := (congrArg State.hops h.rest :)
theorem Touched.link (h : Touched s t) : t.link = s.link := (congrArg State.link h.rest :)
theorem Touched.net (h : Touched s t) : t.net = s.net := (congrArg State.net h.rest :)
theorem Touched.sec (h : Touched s t) : t.sec = s.sec := (congrArg State.sec h.rest :)
theorem Touched.rng (h : Touched s t) : t.rng = s.rng := (congrArg State.rng h.rest :)
theorem Touched.pwr (h : Touched s t) : t.pwr = s.pwr := (congrArg State.pwr h.rest :)
theorem Touched.start (h : Touched s t) : t.start = s.start := (congrArg State.start h.rest :)
theorem Touched.phase (h : Touched s t) : t.tick.phase = s.tick.phase := (congrArg Tick.phase h.tick :)
theorem Touched.count (h : Touched s t) : t.tick.count = s.tick.count := (congrArg Tick.count h.tick :)
theorem Touched.run (h : Touched s t) : t.tick.run = s.tick.run := (congrArg Tick.run h.tick :)
theorem Touched.values (h : Touched s t) (u : TenantId) : t.tenants[u].values = s.tenants[u].values :=
  (congrArg Tenant.values (h.tenant u) :)
theorem Touched.weir (h : Touched s t) (u : TenantId) : t.tenants[u].weir = s.tenants[u].weir :=
  (congrArg Tenant.weir (h.tenant u) :)
theorem Touched.jnl (h : Touched s t) (u : TenantId) :
    { t.tenants[u].jnl with events := s.tenants[u].jnl.events } = s.tenants[u].jnl := (congrArg Tenant.jnl (h.tenant u) :)

end Sys2Proof.Machine
end

