-- ==== Sys2Proof/WellFormed.lean ====
section
/-! DEFINITION. The well-formed commands: operands in the ranges that the spec's tables give them. -/

namespace Sys2Proof

/-- A hopper queue number names a queue of its partition (R186, Tables 7-7 and 7-8). -/
def hopQueueOk : HopName → BitVec 14 → Bool
  | .race _, q => decide (q.toNat < 4096)
  | .tenant t, q => decide (1024 * t.val ≤ q.toNat) && decide (q.toNat < 1024 * t.val + 1024)
  | .device, q => decide (8192 ≤ q.toNat) && decide (q.toNat < 8198)

/-- A tier's channel number (R2): 32 channels in tier A and 14 in tier B. -/
def channelOk : Tier → Fin 32 → Bool
  | .a, _ => true
  | .b, ch => decide (ch.val < 14)

/-- A flit carries 15 slots (Table 10-3). -/
def Flit.shaped (f : Flit) : Bool := decide (f.slots.length = 15)

/-- A Weir packet's body is no longer than its 16-bit length field can say (Table 11-2). -/
def WeirPkt.shaped (p : WeirPkt) : Bool := decide (p.body.length < 65536)

/-- A set-up register address is a word of the 16 MiB window (R12). -/
def wordAddr (addr : Nat) : Bool := decide (addr % 4 = 0)

/-- Each operand lies in the range its rule gives it; the other operands have types that hold nothing else. -/
def Instr.wellFormed : Instr → Bool
  | .push p q _ _ => hopQueueOk p q
  | .pop p q => hopQueueOk p q
  | .wmAck p q => hopQueueOk p q
  | .channelLost _ tier ch => channelOk tier ch
  | .arm _ _ ch => decide (ch.toNat < 46)
  | .rebuildReq _ ch => decide (ch.toNat < 14)
  | .flitReceive _ f => f.shaped
  | .cfgRd _ addr _ => wordAddr addr.toNat
  | .cfgWr _ addr _ _ => wordAddr addr.toNat
  | .dbRd _ addr => decide (addr.toNat % 8 = 0)
  | .dbWr _ addr _ _ => decide (addr.toNat % 8 = 0)
  | .rdNc _ _ n => decide (1 ≤ n.val)
  | .wrNc _ d => decide (d.length ≤ 16)
  | .cplData _ _ d => decide (d.length ≤ 16)
  | .data _ p => p.shaped
  | .ack _ p => p.shaped
  | .complete _ p => p.shaped
  | .close _ p => p.shaped
  | .status _ p => p.shaped
  | .abort _ p => p.shaped
  | .beacon _ p _ _ => p.shaped
  | .probe _ p => p.shaped
  | .probeReply _ p => p.shaped
  | .latchedRead addr => wordAddr addr.toNat
  | .registerWrite addr _ => wordAddr addr.toNat
  | .pmbusWrite _ d => decide (d.length ≤ 255)
  | .anchorSet _ der => decide (der.length ≤ 1952)
  | .install len => decide (len.toNat ≤ 1952)
  | .lifeCycle _ _ args => decide (args.length ≤ 65536)
  | .spdm _ msg => decide (msg.length ≤ 65536)
  | _ => true

end Sys2Proof
end

