-- ==== Sys2Proof/Tests/Slice0.lean ====
section
/-! SUPPORT. Tests: each is one step on a small state, with the hypotheses of the statement about its row; the expected
values come from the spec's tables and worked examples, or are worked out by hand from its rules. -/

namespace Sys2Proof.Tests

set_option Elab.async false

open Sys2Proof.Machine Sys2Proof.Safety

/-- The state that a command gives. -/
def after (c : Instr) (s : State) : State :=
  match exec c s with
  | .next t => t
  | _ => s

-- ## Ill-formed operands: WellFormed refuses one for each check

def pkt : WeirPkt :=
  { hdr := { verType := 0x10, flags := 0, restart := 0, rsv3 := 0, sender := 0, msgSeq := 0, epoch := 0, payLen := 0, tag := 0,
             msgLen := 0, msgBase := 0, pktIndex := 0, rsv24 := 0 }, body := [], crc := 0 }
def long : WeirPkt := { pkt with body := List.replicate 65536 0 }
def rq : ReqId := { session := 1, id := 9 }

theorem test_illformed_queues : (Instr.push (.race 0) 4096 0 0).wellFormed = false ∧ (Instr.pop (.tenant 1) 1023).wellFormed = false ∧
    (Instr.wmAck .device 8198).wellFormed = false ∧ (Instr.push .device 8197 0 0).wellFormed = true := by decide +kernel
theorem test_illformed_channels : (Instr.channelLost 0 .b 14).wellFormed = false ∧ (Instr.arm 0 true 46).wellFormed = false ∧
    (Instr.rebuildReq 0 14).wellFormed = false ∧ (Instr.channelLost 0 .a 31).wellFormed = true := by decide +kernel
theorem test_illformed_link : (Instr.cfgRd 0 0x2 0xF).wellFormed = false ∧ (Instr.cfgWr 0 0x1 0xF 0).wellFormed = false ∧
    (Instr.dbRd 0 4).wellFormed = false ∧ (Instr.dbWr 0 12 0 0).wellFormed = false ∧ (Instr.rdNc 0 0 0).wellFormed = false ∧
    (Instr.wrNc 0 (List.replicate 17 0)).wellFormed = false ∧ (Instr.cplData 0 0 (List.replicate 17 0)).wellFormed = false ∧
    (Instr.flitReceive false { slots := [], fseqW := 0, ackW := 0, crReq := 0, crSnp := 0, crPool := 0, rsv := 0, crc := 0 }).wellFormed
      = false := by decide +kernel
theorem test_illformed_packets : [Instr.data 0 long, .ack 0 long, .complete 0 long, .close 0 long, .status 0 long, .abort 0 long,
    .beacon 0 long false 0, .probe 0 long, .probeReply 0 long].all (fun i => !i.wellFormed) = true := by decide +kernel
theorem test_illformed_registers : (Instr.latchedRead 0x2015).wellFormed = false ∧ (Instr.registerWrite 0x12 0).wellFormed = false ∧
    (Instr.pmbusWrite 0 (List.replicate 256 0)).wellFormed = false ∧ (Instr.anchorSet rq (List.replicate 1953 0)).wellFormed = false ∧
    (Instr.install 1953).wellFormed = false ∧ (Instr.lifeCycle rq 1 (List.replicate 65537 0)).wellFormed = false ∧
    (Instr.spdm rq (List.replicate 65537 0)).wellFormed = false := by decide +kernel

-- ## The states of the tests

def m0 : MillName := { race := 0, mill := 0 }
def m1 : MillName := { race := 1, mill := 1 }

/-- A tenant in service with every race, a quarter of every path for each class and every context. -/
def ten : Tenant := { races := 0xFF, state := .inService, share := Vector.replicate 4 4, ctxCount := 262144, keySlots := 16, rounds := 4 }

/-- Tenant 0 in service in the execute phase of tick 5. -/
def base : State := { State.reset with
  pwr := { State.reset.pwr with alive := true, pfail := false }, start := { ready := true }
  tick := { run := true, running := true, phase := .execute, count := 5, slots := Vector.replicate 13 (Vector.replicate 64 0) }
  tenants := State.reset.tenants.set 0 ten }

/-- Item 7, which runs on mill m0.0. -/
def item7 : Item := { id := 7, tenant := 0, cls := 0, state := .running, mills := [m0], gran := 3, first := 5, args := [11, 12] }

/-- The mill m0.0 with item 7 running. -/
def mill (x : Mill) (mem : List Host.Cell := []) : State :=
  let s := base.modMill m0 (fun _ => { x with item := some 7 })
  { s with mem := mem, tick := { s.tick with items := [item7], nextItem := 8 } }

theorem test_step_takes_front : step { base with pending := [.run false, .lcQuery] } =
    exec (.run false) { base with pending := [.lcQuery] } := rfl
theorem test_step_idles : step base = .next base := rfl
theorem test_no_word_spells_a_command : decodeTableWord 24 0x0A8010 = none := by decide +kernel

-- ## The sequencer of a mill

def sregs (l : List (Fin 16 × W32)) : Vector W32 16 := l.foldl (fun v p => v.set p.1 p.2) (Vector.replicate 16 0)
def tregs (l : List (Fin 16 × W64)) : Vector W64 16 := l.foldl (fun v p => v.set p.1 p.2) (Vector.replicate 16 0)
/-- The mill m0.0 after a command. -/
def mm (c : Instr) (s : State) : Mill := (after c s).mill m0
/-- A tile register: base, rows, row length and format. -/
def tile (b r l f : Nat) : W64 := BitVec.ofNat 64 (b + r * 2 ^ 15 + l * 2 ^ 24 + f * 2 ^ 48)
/-- A small image: 16 tile entries at 256, 4 constants at 384, one entry at 512 that starts at bundle 6 in any class. -/
def image : List Byte := padTo 0x20 (List.replicate 0x18 0 ++ [1, 0, 16, 0, 4, 0]) ++ padTo 224 (bytesLE 4 512 ++ bytesLE 4 256 ++ bytesLE 4 384) ++
  padTo 128 (bytesLE 8 0x0005000001008001) ++ padTo 128 (bytesLE 4 7 ++ bytesLE 4 0xDEADBEEF) ++ padTo 128 (bytesLE 4 6 ++ [15])

theorem test_issuing : ((mill {}).mill m0).issuing = some 7 ∧ (mill {}).item? 7 = some item7 := by decide +kernel
theorem test_nop : (mm (.nop m0) (mill { pc := 4 })).pc = 5 := by decide +kernel
theorem test_saddi_negative : (mm (.saddi m0 2 1 0x7FF) (mill {})).s[2] = 0xFFFFFFFF#32 := by decide +kernel
theorem test_s0_discards : (mm (.saddi m0 0 1 5) (mill {})).s[0] = 0 := by decide +kernel
theorem test_sop : let x := mill { s := sregs [(1, 0x80000001), (2, 35)] }
    ((List.finRange 8).map (fun f => (mm (.sop m0 3 1 2 f) x).s[3])) =
      [0x80000024, 0x7FFFFFDE, 1, 0x80000023, 0x80000022, 8, 0x10000000, 0x80000023] := by decide +kernel
theorem test_sli : (mm (.sli m0 5 0x7FFF) (mill {})).s[5] = 0x7FFF#32 := by decide +kernel
theorem test_sldc : (mm (.sldc m0 5 1) (mill { image := some image })).s[5] = 0xDEADBEEF#32 := by decide +kernel
theorem test_arg : ((List.finRange 8).map (fun k => (mm (.arg m0 1 k) (mill { ord := 9 })).s[1])) = [3, 11, 12, 0, 0, 0, 9, 5] := by
  decide +kernel
theorem test_tset : tileOf (mm (.tset m0 1 4 2) (mill { s := sregs [(2, 0x15)], t := tregs [(1, tile 7 2 3 0)] })).t[1] =
    { base := 7, rows := 2, rowlen := 3, stride := 0, fmt := 5 } := by decide +kernel
theorem test_tadd_wraps : (tileOf (mm (.tadd m0 1 2) (mill { s := sregs [(2, 2)], t := tregs [(1, tile 0x7FFF 2 3 0)] })).t[1]).base = 1 := by
  decide +kernel
theorem test_tld : (mm (.tld m0 1 0) (mill { image := some image })).t[1] = 0x0005000001008001#64 := by decide +kernel
theorem test_tflg : let x := mm (.tflg m0 2 1) (mill { t := tregs [(1, tileOr (tile 7 2 3 5) { ovf := true, sat := true })] })
    x.s[2] = 5 ∧ x.t[1] = tile 7 2 3 5 := by decide +kernel
theorem test_loop_enters : let x := mm (.loop m0 1 4 8) (mill { pc := 2, s := sregs [(4, 3)] })
    x.pc = 3 ∧ x.lc[1] = 3 ∧ x.loops = [{ lc := 1, first := 3, last := 10 }] := by decide +kernel
theorem test_loop_of_none : (mm (.loop m0 1 4 8) (mill { pc := 2 })).pc = 11 := by decide +kernel
-- the control slot 0x0A_8010 of chapter 3
theorem test_loop_word : ((mill { pc := 2, s := sregs [(4, 3)] }).runControl m0 0x0A8010 |>.mill m0).loops =
    [{ lc := 1, first := 3, last := 10 }] := by decide +kernel
theorem test_loop_back_and_out :
    let f : LoopFrame := { lc := 1, first := 3, last := 10 }
    (mm (.nop m0) (mill { pc := 10, loops := [f], lc := #v[0, 2, 0, 0] })).pc = 3 ∧
    (mm (.nop m0) (mill { pc := 10, loops := [f], lc := #v[0, 1, 0, 0] })).pc = 11 := by decide +kernel
theorem test_skipz : (mm (.skipz m0 3 6) (mill { pc := 1 })).pc = 8 ∧ (mm (.skipz m0 3 6) (mill { s := sregs [(3, 1)] })).pc = 1 := by
  decide +kernel
theorem test_skipnz : (mm (.skipnz m0 3 6) (mill { pc := 1 })).pc = 2 ∧ (mm (.skipnz m0 3 6) (mill { s := sregs [(3, 1)] })).pc = 7 := by
  decide +kernel
theorem test_bar : (mm (.bar m0 3 false 100) (mill {})).bar = some { id := 3, scope := false, timeout := 100 } := by decide +kernel
theorem test_barrier_complete :
    let s := mill { pc := 4, bar := some { id := 3, scope := false, timeout := 100 } }
    item7.joined (some 0) = [m0] ∧ ((s.mill m0).waitsAt 7 3 false && (s.mill m0).storesDone) = true ∧
      (mm (.barrierComplete 7 3 (some 0)) s).pc = 5 ∧ (mm (.barrierComplete 7 4 (some 0)) s).pc = 4 := by decide +kernel
theorem test_barrier_timeout : ((after (.barrierTimeout m0) (mill { bar := some { id := 3, scope := false, timeout := 1 } })).item? 7).map
    (fun i => (i.state, i.status)) = some (.stopped, 0x08) := by decide +kernel
theorem test_waitm : (mm (.waitm m0 1) (mill { tags := (Vector.replicate 16 none).set 1 (some {}) })).pc = 1 ∧
    (mm (.waitm m0 2) (mill { tags := (Vector.replicate 16 none).set 1 (some {}) })).pc = 0 := by decide +kernel
theorem test_rngrd : let s := (mill {}).modTenant 0 (fun x => { x with values := [0xABCD, 1] })
    s.owner 0 = some 0 ∧ (mm (.rngrd m0 6) s).s[6] = 0xABCD#32 ∧ (after (.rngrd m0 6) s).tenants[0].values = [1] := by decide +kernel
theorem test_rngrd_fatal : ((after (.rngrd m0 6) ((mill {}).modRng (fun g => { g with fatal := true }))).item? 7).map (·.status) =
    some 0x13 := by decide +kernel
theorem test_end : (mm (.endMill m0) (mill { late := [(1, { inv := true })] })).ended = true ∧
    tileFlags (mm (.endMill m0) (mill { late := [(1, { inv := true })] })).t[1] = 2 := by decide +kernel

-- ## The units of a mill

/-- fp32 words in the scratchpad of m0.0 from byte `off`. -/
def words (off : Nat) (ws : List Nat) : List Host.Cell := memPuts [] (2 ^ 45 + off) (ws.flatMap (bytesLE 4))
/-- A word of that scratchpad. -/
def word (s : State) (off : Nat) : Nat := natLE (memBytes s.mem (2 ^ 45 + off) 4)
/-- Tiles of one row of 16 fp32 words: t1, t2 and t3 hold operands, t4 takes the result. -/
def fpTiles : Vector W64 16 := tregs [(1, tile 0 1 1 5), (2, tile 1 1 1 5), (3, tile 2 1 1 5), (4, tile 3 1 1 5)]
/-- One element in each operand. -/
def vec (a b c : Nat) : State := mill { t := fpTiles } (memPuts (memPuts (words 0 [a]) (2 ^ 45 + 64) (bytesLE 4 b)) (2 ^ 45 + 128) (bytesLE 4 c))
/-- The first element that an operation leaves, and the flags that wait for the bundle's end. -/
def res (c : Instr) (s : State) : Nat × List Flags := (word (after c s) 192, (mm c s).late.map (·.2))
def z : VMods := {}

theorem test_operands_are_covered : covers (tileOf fpTiles[1]) 1 16 = true ∧ covers (tileOf fpTiles[4]) 1 16 = true ∧
    (tileOf fpTiles[4]).check = true ∧ (tileOf fpTiles[4]).elems = 16 ∧ (tileOf fpTiles[4]).rowAt 0 + 12 ≤ spadBytes := by decide +kernel
-- a tile that ends exactly at 2 MiB is covered, one a unit longer is not
theorem test_edge_of_scratchpad : covers (tileOf (tile 32767 1 1 5)) 1 16 = true ∧ covers (tileOf (tile 32767 1 2 5)) 1 32 = false := by
  decide +kernel
theorem test_vadd : res (.vadd m0 4 1 2 z) (vec 0x3F800000 0x40000000 0) = (0x40400000, [{}]) := by decide +kernel
theorem test_vadd_overflow : res (.vadd m0 4 1 2 z) (vec 0x7F7FFFFF 0x7F7FFFFF 0) = (0x7F800000, [{ ovf := true }]) := by decide +kernel
theorem test_vsub_infinities : res (.vsub m0 4 1 2 z) (vec 0x7F800000 0x7F800000 0) = (0x7FC00000, [{ inv := true }]) := by decide +kernel
theorem test_vmul_zero_infinity : res (.vmul m0 4 1 2 z) (vec 0x7F800000 0x80000000 0) = (0x7FC00000, [{ inv := true }]) := by decide +kernel
-- the product is kept exact: 1 + 2^-23 squared less 1 + 2^-22 is 2^-46
theorem test_vfma_fused : res (.vfma m0 4 1 2 3 z) (vec 0x3F800001 0x3F800001 0xBF800002) = (0x28800000, [{}]) := by decide +kernel
theorem test_vmax_zeros : res (.vmax m0 4 1 2 z) (vec 0x80000000 0 0) = (0, [{}]) := by decide +kernel
theorem test_vmin_zeros : res (.vmin m0 4 1 2 z) (vec 0 0x80000000 0) = (0x80000000, [{}]) := by decide +kernel
theorem test_vsel : res (.vsel m0 4 1 2 3 z) (vec 5 7 0x80000000) = (7, [{}]) ∧ res (.vsel m0 4 1 2 3 z) (vec 5 7 1) = (5, [{}]) := by
  decide +kernel
theorem test_vcvt_to_bf16 : let s := (vec 0x3F808000 0 0).modMill m0 (fun x => { x with t := x.t.set 4 (tile 3 1 1 3) })
    word (after (.vcvt m0 4 1 z) s) 192 = 0x3F80 := by decide +kernel
/-- Sixteen elements of one value. -/
def nans (a : Nat) : State := mill { t := fpTiles } (words 0 (List.replicate 16 a))
theorem test_vexp2_nan : res (.vexp2 m0 4 1 z) (nans 0xFF812345) = (0x7FC00000, [{}]) := by decide +kernel
theorem test_vlog2_nan : res (.vlog2 m0 4 1 z) (nans 0x7F812345) = (0x7FC00000, [{}]) := by decide +kernel
theorem test_vrcp_nan : res (.vrcp m0 4 1 z) (nans 0x7FC00001) = (0x7FC00000, [{}]) := by decide +kernel
theorem test_vrsq_nan : res (.vrsq m0 4 1 z) (nans 0x7FFFFFFF) = (0x7FC00000, [{}]) := by decide +kernel
-- MX fp8 E4M3: the largest magnitude 448 has scale 2^(8-8), and 1.0 the code 0x38
theorem test_vqmx : let s := (mill { t := tregs [(1, tile 0 1 4 5), (4, tile 8 1 1 8)] } (words 0 [0x43E00000, 0x3F800000]))
    fmtMx (tileOf (tile 8 1 1 8)).fmt = true ∧ covers (tileOf (tile 8 1 1 8)) 1 64 = true ∧
      memBytes (after (.vqmx m0 4 1 z) s).mem (2 ^ 45 + 512) 2 = [0x7E, 0x38] ∧
      memBytes (after (.vqmx m0 4 1 z) s).mem (2 ^ 45 + 576) 1 = [127] := by decide +kernel
theorem test_vred_order : (vredRow 0 {} [0x4B800000, 0x3F800000, 0x3F800000]).1 = 0x4B800000#32 ∧
    (vredRow 0 {} [0x3F800000, 0x3F800000, 0x4B800000]).1 = 0x4B800001#32 := by decide +kernel
-- R108: a reduction of elements that are all -0, started with ACC = 0, gives +0
theorem test_vred_minus_zeros : res (.vred m0 4 1 z) (mill { t := fpTiles } (words 0 (List.replicate 16 0x80000000))) = (0, [{}]) := by
  decide +kernel
theorem test_vred_acc : let s := vec 0x3F800000 0 0
    word (after (.vred m0 4 1 { acc := true }) { s with mem := memPuts s.mem (2 ^ 45 + 192) (bytesLE 4 0x40000000) }) 192 = 0x40400000 := by
  decide +kernel
theorem test_vssq : res (.vssq m0 4 1 z) (vec 0x40400000 0 0) = (0x41100000, [{}]) := by decide +kernel
theorem test_vwel : let s := mill { t := fpTiles } (words 0 (List.replicate 16 0x40000000))
    (word (after (.vwel m0 4 1 z) s) 192, word (after (.vwel m0 4 1 z) s) 196, word (after (.vwel m0 4 1 z) s) 200) =
      (16, 0x40000000, 0) := by decide +kernel
theorem test_vrmax : res (.vrmax m0 4 1 z) (vec 0xC0000000 0 0) = (0, [{}]) ∧
    (tileOf fpTiles[4]).rowAt 0 + 4 ≤ spadBytes := by decide +kernel
theorem test_vrmax_nan : ofF32 0x7F800001#32 = .nan ∧ vrmaxRow 0xFF800000#32 [0x7F800001, 0x7F800000] = 0x7FC00000#32 := by decide +kernel
theorem test_reduction_format : ((after (.vred m0 4 1 z) (mill { t := tregs [(1, tile 0 1 1 5), (4, tile 3 1 1 3)] })).item? 7).map (·.status) =
    some 0x07 ∧ (tileOf (tile 3 1 1 3)).fmt ≠ 5 := by decide +kernel
/-- Tiles of VTMSK and VRNG: bytes of a tree mask at 0, a 64 × 64 result at 8 KiB. -/
def maskMill : State := mill { t := tregs [(1, tile 0 1 8 0), (4, tile 128 64 4 5), (5, tile 128 1 1 6)] } (memPut [] (2 ^ 45) 1)
theorem test_vtmsk_tiles : let d := tileOf (tile 128 64 4 5)
    covers d 64 64 = true ∧ (tileOf (tile 0 1 8 0)).checkBytes = true ∧ (tileOf (tile 0 1 8 0)).rowAt 0 + 512 ≤ spadBytes := by decide +kernel
-- nodes 1 and 2 hang under the root: row 2 keeps columns 0 and 2, row 5, outside the tree, only column 5
theorem test_vtmsk :
    let nd (t p d : Nat) := bytesLE 8 (t + p * 2 ^ 32 + d * 2 ^ 38 + 2 ^ 44)
    let ns := nodesOf (padTo 512 (nd 9 0 0 ++ nd 8 0 1 ++ nd 7 0 1))
    treeCount ns none = 3 ∧ (List.range 64).filter (maskKeeps ns 3 2) = [0, 2] ∧ (List.range 64).filter (maskKeeps ns 3 5) = [5] := by
  decide +kernel
-- Philox4x32-10 of the zero counter under the zero key
theorem test_vrng : maskMill.samplerKey item7 = 0 ∧ philox (0, 0, 0, 0) 0 0 = [0x6627E8D5, 0xE169C58D, 0xBC57AC4C, 0x9B00DBD8] ∧
    (mm (.vrng m0 5 1) maskMill).late = [(5, {})] := by decide +kernel

/-- Tiles of the ring unit: one row of eight 64-bit words. -/
def ring (a b : Nat) : State := mill { t := fpTiles, s := sregs [(6, 2)] }
  (memPuts (memPuts [] (2 ^ 45) (bytesLE 8 a)) (2 ^ 45 + 64) (bytesLE 8 b))
def rw64 (c : Instr) (s : State) : Nat := natLE (memBytes (after c s).mem (2 ^ 45 + 192) 8)
theorem test_radd_widths : rw64 (.radd m0 false 4 1 2) (ring 0xFFFFFFFF 1) = 0 ∧ rw64 (.radd m0 true 4 1 2) (ring 0xFFFFFFFF 1) = 2 ^ 32 := by
  decide +kernel
theorem test_rsub : rw64 (.rsub m0 true 4 1 2) (ring 0 1) = 2 ^ 64 - 1 := by decide +kernel
theorem test_rneg : rw64 (.rneg m0 false 4 1) (ring 1 0) = 0xFFFFFFFF := by decide +kernel
theorem test_rcpy : rw64 (.rcpy m0 true 4 1) (ring 77 0) = 77 := by decide +kernel
theorem test_rzero : rw64 (.rzero m0 true 4) (ring 1 1) = 0 ∧ (mm (.rzero m0 true 4) (ring 1 1)).late = [(4, {})] := by decide +kernel
-- AES-256 of FIPS 197 C.3, from which the keystream comes
theorem test_aes256 : aesBlock ((List.range 32).map (BitVec.ofNat 8)) ((List.range 16).map (fun i => BitVec.ofNat 8 (i * 0x11))) =
    [0x8E, 0xA2, 0xB7, 0xCA, 0x51, 0x67, 0x45, 0xBF, 0xEA, 0xFC, 0x49, 0x90, 0x4B, 0x49, 0x60, 0x89] := by decide +kernel
theorem test_masks_cancel : let s := ring 5 0
    let t := after (.rxadd m0 true 4 1 0 6) s
    rw64 (.rxgen m0 true 4 0 6) s = natLE (maskStream 0 0 2 8) ∧
      natLE (memBytes (after (.rxsub m0 true 4 4 0 6) t).mem (2 ^ 45 + 192) 8) = 5 := by decide +kernel

-- ## The matrix engine and the mover

/-- A of one int8 row of 128 values, W of 64 rows: t1 and t2; C in t3 and D in t4. -/
def eng (x : Mill) (mem : List Host.Cell) : State := mill { x with t := tregs [(1, tile 0 1 2 0), (2, tile 64 64 2 0), (3, tile 8 1 4 6), (4, tile 16 1 1 0)] } mem
def bank8 : Bank := { fmt := 0, rows := [(List.replicate 128 ((3 : W32), (127 : Byte)))] }
theorem test_wld : let s := eng {} (memPut [] (2 ^ 45 + 4096) 9)
    covers (tileOf (tile 64 64 2 0)) 64 128 = true ∧ ((mm (.wld m0 2) s).shadow.rows.getD 0 []).getD 0 (0, 0) = (9, 127) := by decide +kernel
theorem test_wld_format : (tileOf (tile 64 64 1 0xD)).check = false ∧ ((after (.wld m0 2) ((eng {} []).modMill m0 (fun x => { x with
    t := x.t.set 2 (tile 64 64 1 0xD) }))).item? 7).map (·.status) = some 0x07 := by decide +kernel
-- 2 × 3 + (-1) × 3 = 3 in column 0
theorem test_mma : let s := eng { shadow := bank8 } (memPuts [] (2 ^ 45) [2, 0xFF])
    pairDepth 0 0 = some 128 ∧ covers (tileOf (tile 0 1 2 0)) 1 128 = true ∧ accOk (tileOf (tile 8 1 4 6)) true = true ∧
      word (after (.mma m0 false 1 3 true false) s) 512 = 3 ∧ (mm (.mma m0 false 1 3 true false) s).active = bank8 := by decide +kernel
theorem test_mma_pair : pairDepth 5 0 = none ∧ ((after (.mma m0 false 1 3 false false) ((eng {} []).modMill m0 (fun x => { x with
    t := x.t.set 1 (tile 0 1 1 5) }))).item? 7).map (·.status) = some 0x07 := by decide +kernel
theorem test_mout_int8 : covers (tileOf (tile 8 1 4 6)) 1 64 = true ∧ covers (tileOf (tile 16 1 1 0)) 1 64 = true ∧
    memBytes (after (.mout m0 3 4 4 0 true false) (eng {} (words 512 [200, 0xFFFFFFFE]))).mem (2 ^ 45 + 1024) 2 = [0x7F, 0xFE] := by decide +kernel
theorem test_mout_mismatch : let t := after (.mout m0 3 4 4 0 true true) (eng {} [])
    (t.races[0].mismatch, t.races[0].lastPm, t.races[0].mismCnt) = (true, 0, 1) := by decide +kernel

/-- Item 7 with a window of the race buffer at 0x100, readable and writable. -/
def moves : State := let s := mill { t := fpTiles } (words 128 [0x11223344])
  { s with tick := { s.tick with items := [{ item7 with wins := [{ base := 0x100, length := 4096, kind := 3, access := 3 }] }] } }
theorem test_moves_can_run : (mill {}).mill m0 |>.tags[2] = none := by decide +kernel
theorem test_mst : let t := after (.mst m0 2 0 0 3) moves
    (t.mill m0).tags[2].isSome = true ∧ memBytes (after (.moveComplete m0 2) t).mem (bufferAddr 0 0x100) 4 = bytesLE 4 0x11223344 ∧
      ((after (.moveComplete m0 2) t).mill m0).tags[2] = none := by decide +kernel
theorem test_mst_outside : ((after (.mst m0 2 0 6 3) (moves.modMill m0 (fun x => { x with s := sregs [(6, 64)] }))).item? 7).map (·.status) =
    some 0x06 := by decide +kernel
theorem test_mcpy : word (after (.mcpy m0 1 3 4) moves) 192 = 0x11223344 ∧ (mm (.mcpy m0 1 3 4) moves).tags[1] = some {} := by decide +kernel
theorem test_mld : let s := { moves with mem := memPut moves.mem (bufferAddr 0 0x101) 7 }
    word (after (.mld m0 1 0 0 4) s) 192 = 0x700 := by decide +kernel

-- ## The tick and its items

/-- A descriptor line: byte offsets and values. -/
def line (l : List (Nat × Nat)) : Line := BitVec.ofNat 512 (l.foldl (fun a p => a + p.2 * 2 ^ (8 * p.1)) 0)
/-- Item 7 of such a descriptor, with no mill, running. -/
def work (op : Nat) (l : List (Nat × Nat)) : Item := { item7 with mills := [], first := 0, line := line ((0, op) :: l) }
/-- A state in which item `i` is the only item. -/
def withItem (i : Item) (s : State := base) : State := { s with tick := { s.tick with items := [i], nextItem := 8 } }
/-- What item 7 has come to: state, status and effects. -/
def out (s : State) : Option (ItemState × Byte × List Effect) := (s.item? 7).map (fun i => (i.state, i.status, i.effects))
def phase (p : Phase) : State := { base with tick := { base.tick with phase := p } }
/-- No tenant, at a boundary. -/
def quietState : State := { phase .commit with tenants := State.reset.tenants }
/-- Tenant 0's journal marker waits in the commit of tick 5. -/
def marked : State := (phase .commit).modTenant 0 (fun x => { x with jnl := { x.jnl with marker := true } })

theorem test_plan : let s := { phase .commit with tenants := State.reset.tenants }
    (s.tick.running && s.boundary && !s.tick.warmReq && s.deviceActive) = true ∧ (after .plan s).tick.count = 6 ∧
      (after .plan s).tick.phase = .execute ∧ (after .plan s).net.time = 1000000 := by decide +kernel
theorem test_plan_waits_for_the_tick : base.boundary = false ∧ exec .plan base = .next base := ⟨by decide +kernel, rfl⟩
theorem test_execute_end_cuts : let s := withItem item7
    (s.tick.phase, item7.live) = (.execute, true) ∧ (after .executeEnd s).tick.phase = .drain ∧
      out (after .executeEnd s) = some (.cut, 0, []) := by decide +kernel
theorem test_commit : (after .commit (phase .drain)).tick.phase = .commit ∧ ((after .commit (phase .drain)).tenants[0]).jnl.marker = true := by
  decide +kernel
theorem test_phase_rows_elsewhere : exec .executeEnd (phase .drain) = .next (phase .drain) ∧ exec .commit base = .next base := ⟨rfl, rfl⟩
theorem test_commit_acknowledged_holds : (marked.tick.phase, marked.serves 0, marked.tenants[0].jnl.marker, marked.tick.run) =
    (.commit, true, true, true) := by decide +kernel
theorem test_commit_acknowledged_no_marker : exec (.commitAcknowledged 0) base = .next base ∧ exec (.tickAbandoned 0) base = .next base :=
  ⟨rfl, rfl⟩
theorem test_tick_abandoned : ((after (.tickAbandoned 0) marked).tenants[0]).jnl.events = [{ cls := 0x0C }] := by decide +kernel
theorem test_effect_image : let s := (State.applyItem (base, []) { item7 with effects := [.image [m1] image] }).1
    ((s.mill m1).image, (s.mill m1).imageBy) = (some image, some (0, 0)) := by decide +kernel
theorem test_effect_model : (State.applyItem ({ base with tenants := base.tenants.set 0 { ten with models := [] } }, [])
    { item7 with effects := [.model 3 none, .wset 9 [{ base := 5 }]] }).1.tenants[0].wsets = [(9, [{ base := 5 }])] := by decide +kernel
/-- The link stands at 16 lanes each way. -/
def linked (s : State) : State := { s with link := { s.link with width := Vector.replicate 4 3 } }
/-- Completion ring 2 of tenant 0 has one record staged and a slot free. -/
def recorded : State := (linked base).modCring 0 2 (fun x => { x with enable := true, staged := [{ data := 0xABC }] })
theorem test_completion_record : (recorded.cring 0 2).enable = true ∧ ((0#48 : W48) - (recorded.cring 0 2).consumed).toNat < 128 ∧
    recorded.link.txq = [] ∧ recorded.link.maySend (txHeader 0x13 2 0 0xFFFFFFFF 0 :: toSlots (bytesLE 32 (0xABC + 2 ^ 31))) = true ∧
    ((after (.completionRecordWrite 0 2) recorded).cring 0 2).staged = [] ∧
    ((after (.completionRecordWrite 0 2) recorded).cring 0 2).flying.map (·.2) = [{ data := 0xABC }] := by decide +kernel
theorem test_no_completion_record : exec (.completionRecordWrite 0 2) base = .next base := rfl
theorem test_journal_apply : let s := base.modTenant 0 (fun x => { x with jnl := { x.jnl with commitTick := 4, log :=
      [{ tick := 4, firstSeq := 0, blocks := 1, entries := [], unwritten := 1, applied := false }] } })
    s.tenants[0].jnl.log.any (fun x => !x.applied) = true ∧ ((after (.journalApply 0) s).tenants[0]).jnl.applied = 4 := by decide +kernel

/-- An item of RUN on two mills, placed. -/
def placed (op : Nat) : Item := { work op [] with state := .placed, mills := if op = 5 then [m0, m1] else [], ordBase := 4 }
/-- Mills whose images hold `image` and whose registers are not zero. -/
def loaded (i : Item) : State := ((withItem i).modMill m0 (fun x => { x with image := some image, s := sregs [(3, 7)] })).modMill m1
  (fun x => { x with image := some image, lc := #v[1, 1, 1, 1] })
theorem test_item_start_device : out (after (.itemStart 7) (withItem (placed 1))) = some (.running, 0, []) := by decide +kernel
theorem test_item_start_program : let t := after (.itemStart 7) (loaded (placed 5))
    (placed 5).mills.Nodup ∧ ((loaded (placed 5)).mill m1).item = none ∧
    ((t.mill m1).item, (t.mill m1).ord, (t.mill m1).lc[2], (t.mill m0).sreg 3, (t.mill m0).t[0], (t.mill m0).pc) =
      (some 7, 5, 0, 0, 0x0005000001008001#64, 6) := by decide +kernel
theorem test_run_descriptor : ((after (.runDescriptor 7) (loaded (placed 5))).mill m0).item = some 7 := by decide +kernel
/-- Item 7 on m0.0, which has executed END and has no move left. -/
def finished : State := mill { ended := true }
theorem test_item_end : (finished.barrierBroken item7, finished.millsDone item7) = (false, true) ∧
    out (after (.itemEnd 7) finished) = some (.ended, 0, []) ∧ ((after (.itemEnd 7) finished).mill m0).item = none := by decide +kernel
theorem test_item_end_slice : let s := withItem { item7 with kind := .slice 9 } finished
    out (after (.itemEnd 7) s) = some (.ended, 0, [.sliced 9]) := by decide +kernel
theorem test_item_end_barrier : let i := { item7 with mills := [m0, m1] }
    let s := (withItem i (finished.modMill m1 (fun x => { x with item := some 7, bar := some { id := 1, scope := true, timeout := 0 } })))
    s.barrierBroken i = true ∧ out (after (.itemEnd 7) s) = some (.stopped, 8, []) := by decide +kernel
theorem test_item_runs_on : exec (.itemEnd 7) (mill {}) = .next (mill {}) ∧ (mill {}).millsDone item7 = false := ⟨rfl, by decide +kernel⟩
theorem test_price_exceeded : out (after (.priceExceeded 7) (mill {})) = some (.stopped, 5, []) := by decide +kernel
theorem test_key_load_late : let i := { work 0x50 [] with price := [(82, 5)] }
    (withItem i).tick.items.find? (fun i => i.live && i.tenant = (0 : TenantId) && i.kind = .desc && 0 < sget i.price 82 0) = some i ∧
      out (after (.keyLoadLate 0) (withItem i)) = some (.stopped, 0x0C, []) := by decide +kernel
theorem test_no_key_load : exec (.keyLoadLate 0) (mill {}) = .next (mill {}) := rfl

-- ## General descriptors and the sequencer

theorem test_nop_descriptor : Works (withItem (work 1 [])) 7 1 (work 1 []) ∧ out (after (.nopDescriptor 7) (withItem (work 1 []))) =
    some (.ended, 0, []) := ⟨⟨by decide +kernel, by decide +kernel, rfl, by decide +kernel⟩, by decide +kernel⟩
theorem test_load_image_invalid : out (after (.loadImage 7 [1, 2]) (withItem (work 3 [(0x18, 32)]))) = some (.stopped, 9, []) ∧
    imageOk (padTo 32 [1, 2]) = false := by decide +kernel
theorem test_wset : out (after (.wset 7 (padTo 15 [0x40] ++ [1])) (withItem (work 4 [(0x10, 17)]))) = some (.ended, 0, [.wset 17
    ({ base := 0x40 } :: { base := 0, length := 0, kind := 0, access := 0 } :: List.replicate 6 {})]) := by decide +kernel
-- a MOVE from the host to tier A at 0: the item's 8 bytes
theorem test_move_from_host : let s := withItem (work 2 [(0x20, 8), (0x28, 1)])
    out (after (.move 7 (bytesLE 8 0x1122)) s) = some (.ended, 0, []) ∧ (after (.move 7 (bytesLE 8 0x1122)) s).mem.map (·.2) = [0x22, 0x11] := by decide +kernel

theorem test_run_on : (after (.run true) State.reset).tick.running = true := by decide +kernel
theorem test_run_off_idle : (phase .none).boundary = true ∧ (phase .none).drained = true ∧ (phase .none).tenants[0].jnl.marker = false ∧
    (after (.run false) (phase .none)).tick.running = false := by decide +kernel
theorem test_run_off_waits : base.boundary = false ∧ (after (.run false) base).tick.running = true := by decide +kernel
theorem test_hold : (after (.hold 2 true) base).races[2].hold = true := by decide +kernel
theorem test_hold_released : let s := base.modRace 2 (fun x => { x with hold := true, held := true })
    s.owner 2 = some 0 ∧ (after (.hold 2 false) s).races[2].held = false := by decide +kernel
theorem test_held : let s := base.modRace 2 (fun x => { x with hold := true })
    s.tenants[0].state.owns = true ∧ s.holding 0 = true ∧ s.quiet 0 = true ∧ (after (.held 0) s).races[5].held = true := by decide +kernel
theorem test_pps_edge : let s := { base with tick := { base.tick with source := 1 } }
    (after (.ppsEdge (-1000)) s).tick.locked = true ∧ (after (.ppsEdge 1001) s).tick.locked = false ∧
      (after (.ppsEdge 1001) s).tick.phaseErr = 1001 := by decide +kernel
theorem test_lock_lost : let s := { base with tick := { base.tick with source := 2, locked := true } }
    ((after .lockLost s).tick.lockLost, (after .lockLost s).tick.locked) = (true, false) := by decide +kernel

-- ## Secure aggregation

/-- Tenant 0 with race 0 alone, class 0 on its mill 0, whose image is `image`. -/
def solo : State := (({ base with tenants := State.reset.tenants.set 0 { ten with races := 1, keySlots := 0, draftSize := 1, values := [0xA1, 0xB2, 0xC3] } } : State).modRace 0
  (fun x => { x with classMills := #v[1, 0, 0, 0] })).modMill m0 (fun x => { x with image := some image })
/-- A round of tenant 0: one vector of 64 KiB, ten participants. -/
def round0 : Round :=
  { tenant := 0, cls := 0, state := .collecting, id := 42, vecLen := 65536, partLimit := 10, floor := 2, nonce := 3, maxPairs := 1, ring64 := true,
    selfMask := true, noDrop := false, chainIn := false, maxUp := 4, timeout := 2, seedLog := 16, taBase := 0, tbBase := 0, window := 8, tag := 0xA1 }
/-- The round in slot 0. -/
def rounds (r : Round) : State := { solo with rounds := solo.rounds.set 0 (some r) }
/-- Item 7 of a descriptor that names round 42. -/
def aggs (op : Nat) (l : List (Nat × Nat) := []) : Item := work op ((0x10, 42) :: l)
/-- What item 7 has come to when the descriptor of opcode `op` has done its work. -/
def did (c : Instr) (op : Nat) (l : List (Nat × Nat) := []) (s : State := rounds round0) : Option (ItemState × Byte × List Effect) :=
  out (after c (withItem (aggs op l) s))

theorem test_agg_works : [0x40, 0x41, 0x42, 0x43, 0x44, 0x45, 0x46, 0x47].all (fun op => (withItem (aggs op) solo).item? 7 = some (aggs op) &&
    (aggs op).live && (aggs op).kind = .desc && dOp (aggs op).line = op && (aggs op).index = 0) = true := by decide +kernel
theorem test_agg_seeds : did (.aggSeeds 7 (padTo 64 [5])) 0x41 [(0x14, 1)] = some (.ended, 0, [.aggSeeds 42 [padTo 64 [5]]]) := by decide +kernel
theorem test_agg_drop : did (.aggDrop 7 [6, 0, 0, 0, 9, 1, 0, 0]) 0x42 [(0x14, 2)] = some (.ended, 0, [.aggDrop 42 [6, 0x109]]) := by
  decide +kernel
theorem test_agg_close : did (.aggClose 7) 0x43 = some (.ended, 0, [.aggClose 42]) := by decide +kernel
theorem test_agg_release : (did (.aggRelease 7) 0x44 [(0x14, 1), (0x18, 0x1000)]).map (·.2.1) = some 0 := by decide +kernel
theorem test_agg_free : did (.aggFree 7) 0x45 = some (.ended, 0, [.aggEnd 42]) := by decide +kernel
theorem test_agg_abort : did (.aggAbort 7) 0x46 = some (.ended, 0, [.aggEnd 42]) := by decide +kernel
/-- The fields of AGG_OPEN for such a round. -/
def opens : List (Nat × Nat) := [(0x14, 65536), (0x18, 10), (0x1C, 2), (0x20, 3), (0x28, 1), (0x2A, 3), (0x2C, 4), (0x30, 2), (0x34, 16)]
theorem test_agg_open : let s := withItem (aggs 0x40 opens) solo
    s.aggOpenRefusal 0 (roundFrom 0 (aggs 0x40 opens).line 0) = none ∧ s.tagUsed 0xA1 = false ∧
      (after (.aggOpen 7) s).tenants[0].values = [0xB2, 0xC3] ∧
      ((out (after (.aggOpen 7) s)).map (fun x => (x.1, x.2.2.length))) = some (.ended, 2) := by decide +kernel
theorem test_agg_open_in_use : let s := withItem (aggs 0x40 opens) (rounds round0)
    s.aggOpenRefusal 0 (roundFrom 0 (aggs 0x40 opens).line 0) = some 0x21 ∧ did (.aggOpen 7) 0x40 opens = some (.stopped, 0x21, []) ∧
      did (.aggOpen 7) 0x40 (opens ++ [(0x38, 100), (0x3C, 100)]) = some (.stopped, 0x22, []) := by
  decide +kernel
theorem test_agg_query_unknown : did (.aggQuery 7) 0x47 [] solo = some (.stopped, 0x22, []) ∧ solo.roundOf 0 42 = none := by decide +kernel
theorem test_agg_query : (rounds round0).roundOf 0 42 = some (0, round0) := by decide +kernel
/-- A segment item of round slot 0, segment 0, that takes one seed. -/
def seg : Item := { work 0 [] with kind := .segment 0 0, args := [0, 0, 1, 0] }
/-- A round whose vector is 2 words long, so that its segment is 16 bytes. -/
def small : Round := { round0 with vecLen := 2, log := [{ part := 1, pair := true, neigh := 2, seed := 9 }] }
theorem test_segment_item : ((withItem seg (rounds small)).segSum small 0 [0, 0, 1, 0]).2 = .ok (maskStream 9 3 0 16) ∧
    (out (after (.segmentItem 7) (withItem seg (rounds small)))).map (·.1) = some .ended := by decide +kernel
/-- Participant 5 uploads in context 8, last heard of in tick 2. -/
def uploading : State := { rounds round0 with ctxs := [(8, .part { round := 0, part := 5, slot := 0, total := 1, lastTick := 2 })] }
theorem test_upload_timeout : (uploading.uploads 0).find? (fun u => u.2.part = 5) =
      some (8, { round := 0, part := 5, slot := 0, total := 1, lastTick := 2 }) ∧
    ((after (.uploadTimeout 0 5) uploading).partCtx? 8).map (·.abandoning) = some true := by decide +kernel
-- the tick that is exactly LAST_TICK + TIMEOUT is not past it
theorem test_upload_in_time : let s := { uploading with tick := { uploading.tick with count := 4 } }
    ((after (.uploadTimeout 0 5) s).partCtx? 8).map (·.abandoning) = some false := by decide +kernel
/-- An AGG_RELEASE in chain mode since tick 1, with a timeout of 4 ticks. -/
def rel : Release := { ring := 3, seq := 1, dest := 2, hop := 0, addr := 0, chainId := 7, prev := 1, timeout := 4, start := 1 }
theorem test_chain_timeout : let r := { round0 with state := .chainWait, chainIn := true, release := some rel }
    r.chainReady = false ∧ (rel.start.toNat + rel.timeout.toNat ≤ 5) ∧
    ((after (.chainTimeout 0) (rounds r)).rounds[0]).map (·.state) = some .unmasking := by decide +kernel
theorem test_chain_timeout_early : let r := { round0 with state := .chainWait, chainIn := true, release := some { rel with timeout := 5 } }
    ((after (.chainTimeout 0) (rounds r)).rounds[0]).map (·.state) = some .chainWait := by decide +kernel
theorem test_commit_agg_open : solo.aggOpenRefusal 0 round0 = none ∧ solo.freeRound = some 0 ∧ solo.freeWindow 0 = some 0 ∧
    ((solo.commitAggOpen 0 1 2 round0).rounds[0]).map (·.window) = some 0 := by decide +kernel
theorem test_commit_agg_release : let x := { rel with dest := 0, addr := 0x1000, prev := 0, chainId := 0, timeout := 0 }
    let r := { round0 with state := .unmasking, parts := [(5, { state := 3 }), (6, { state := 3 })] }
    r.releaseFieldsOk x = true ∧ r.releaseRefusal x = none ∧ (rounds r).releaseDest 0 r x = true ∧
    (((rounds r).commitAggRelease 0 3 1 42 x).rounds[0]).map (·.state) = some .releasing := by decide +kernel
theorem test_commit_agg_free : let r := { round0 with state := .released }
    ((rounds r).commitAggEnd 0 3 1 0x45 42).rounds[0] = none := by decide +kernel
-- a self seed of a Contributor makes it Self-unmasked; one of a Dropped participant is refused
theorem test_take_seeds : let r := { round0 with state := .unmasking, closed := true, parts := [(5, { state := 2 }), (6, { state := 4 })] }
    let rec' (p : Nat) := padTo 64 (bytesLE 4 p ++ [1])
    (((r.takeSeeds [rec' 5, rec' 6]).1.part 5).state, ((r.takeSeeds [rec' 5, rec' 6]).1.part 6).state) = (3, 4) := by decide +kernel
theorem test_ring_sum : ringAdd false [0xFF, 0xFF, 0xFF, 0xFF, 1, 0, 0, 0] [1, 0, 0, 0, 2, 0, 0, 0] = [0, 0, 0, 0, 3, 0, 0, 0] := by decide +kernel

-- ## Token generation

/-- The fields of a small model: one slice, entry 0, no draft program, one KV byte group, 2 frames at 1 MiB of tier B, one hot frame. -/
def modelLine : List (Nat × Nat) := [(0x10, 3), (0x12, 1), (0x15, 0xFF), (0x24, 1), (0x28, 2), (0x2C, 1), (0x30, 1)]
def model3 : Model := modelOf (line ((0, 0x50) :: modelLine))
/-- Model 3, and session 9 in state `st`, whose block lies at 64 KiB. -/
def session9 (st : SessState) : Session :=
  { tenant := 0, state := st, seedDrbg := false, model := 3, seed := 5, blockOff := 64, stopToken := 99, outAddr := 0x2000, outTokens := 64,
    compRing := 2, position := 70, rootValid := true, root := 11, remain := 2, run := some (1, 4),
    pass := some { prefill := false, nodes := 1, stage := 3 } }
def decode (x : Session) (s : State := solo) : State := ({ s with ctxs := [(9, .session x)] } : State).modTenant 0
  (fun t => { t with models := [(3, model3)] })
/-- What a DEC descriptor's item has come to, with session 9 in state `st`. -/
def dec (c : Instr) (op : Nat) (l : List (Nat × Nat)) (s : State := decode (session9 .idle)) : Option (ItemState × Byte × List Effect) :=
  out (after c (withItem (work op l) s))

theorem test_dec_works : [0x50, 0x51, 0x52, 0x53, 0x54, 0x55].all (fun op => (work op []).live && (work op []).kind = .desc &&
    dOp (work op []).line = op) = true := by decide +kernel
theorem test_dec_model_used : (decode (session9 .idle)).modelUsed 0 3 = true ∧ dec (.decModel 7) 0x50 modelLine = some (.stopped, 0x33, []) := by
  decide +kernel
theorem test_dec_model : solo.modelUsed 0 3 = false ∧ solo.modelOk 0 (work 0x50 modelLine).line = true ∧
    dec (.decModel 7) 0x50 modelLine solo = some (.ended, 0, [.model 3 (some model3)]) ∧
    dec (.decModel 7) 0x50 [(0x10, 3), (0x11, 1)] solo = some (.ended, 0, [.model 3 none]) := by decide +kernel
theorem test_dec_model_bad : solo.modelOk 0 (work 0x50 [(0x14, 200)]).line = false ∧ dec (.decModel 7) 0x50 [(0x14, 200)] solo =
    some (.stopped, 0x31, []) := by decide +kernel
theorem test_dec_open : let s := decode (session9 .idle)
    s.openRefusal 0 (work 0x51 [(0x10, 10), (0x14, 3), (0x18, 77)]).line = none ∧
    dec (.decOpen 7 []) 0x51 [(0x10, 10), (0x14, 3), (0x18, 77)] = some (.ended, 0, [.decOpen 10
      (sessionOf 0 (line [(0x14, 3)]) 77) (List.replicate 256 0)]) := by decide +kernel
theorem test_dec_open_drbg : let s := withItem (work 0x51 [(0x10, 10), (0x14, 3), (0x15, 1)]) (decode (session9 .idle))
    (after (.decOpen 7 []) s).tenants[0].values = [0xC3] ∧
    ((out (after (.decOpen 7 []) s)).map (·.2.2)) = some [.decOpen 10 (sessionOf 0 (line [(0x14, 3), (0x15, 1)]) 0xB2000000A1)
      (List.replicate 256 0)] := by decide +kernel
theorem test_dec_open_taken : (decode (session9 .idle)).openRefusal 0 (work 0x51 [(0x10, 9), (0x14, 3)]).line = some 0x32 ∧
    dec (.decOpen 7 []) 0x51 [(0x10, 9), (0x14, 3)] = some (.stopped, 0x32, []) := by decide +kernel
theorem test_dec_pages : dec (.decPages 7 [1, 2]) 0x52 [(0x10, 9), (0x14, 5), (0x18, 1)] = some (.ended, 0, [.decPages 9 5 [0x201]]) ∧
    dec (.decPages 7 []) 0x52 [(0x10, 8)] = some (.stopped, 0x32, []) := by decide +kernel
-- position 70 is page 1: a running session takes entries from 6 on, not 5
theorem test_dec_pages_running : dec (.decPages 7 []) 0x52 [(0x10, 9), (0x14, 5)] (decode (session9 .running)) = some (.stopped, 0x33, []) ∧
    dec (.decPages 7 []) 0x52 [(0x10, 9), (0x14, 6)] (decode (session9 .running)) = some (.ended, 0, [.decPages 9 6 []]) := by decide +kernel
theorem test_dec_run : dec (.decRun 7 [8]) 0x53 [(0x10, 9), (0x14, 1), (0x18, 0x3000), (0x20, 4)] = some (.ended, 0, [.decRun 9 1 0x3000 4 8]) := by
  decide +kernel
theorem test_dec_stop : dec (.decStop 7) 0x54 [(0x10, 9)] = some (.ended, 0, [.decStop 9]) := by decide +kernel
theorem test_dec_close : dec (.decClose 7) 0x55 [(0x10, 9)] = some (.ended, 0, [.decClose 9]) := by decide +kernel
theorem test_commit_run : let s := decode (session9 .idle)
    s.ownSession 0 9 = some (session9 .idle) ∧ (s.model? 0 3).isSome = true ∧
    ((s.commitRun 0 1 5 0 9 0 0x3000 8 0).session? 9).map (fun y => (y.state, y.remain)) = some (.running, 8) := by decide +kernel
theorem test_commit_run_rooted : let s := decode { session9 .idle with rootValid := false }
    ((s.commitRun 0 1 5 0 9 1 0x3000 8 33).session? 9).map (fun y => (y.root, y.promptLeft)) = some (33, 0) := by decide +kernel
theorem test_commit_stop : ((decode (session9 .running)).commitStop 0 1 5 9).session? 9 =
    some { session9 .stopping with ending := (session9 .running).endAs 0x37 } := by decide +kernel
theorem test_commit_close : ((decode (session9 .idle)).commitClose 0 1 5 9).session? 9 = none ∧
    (decode (session9 .idle)).ownSession 0 8 = none := by decide +kernel

/-- An item of session 9's pass. -/
def passItem (k : ItemKind) (args : List W32 := []) : Item := { work 0 [] with kind := k, args := args }
def passed (c : Instr) (k : ItemKind) (args : List W32 := []) (x : Session := session9 .running) : Option (ItemState × Byte × List Effect) :=
  out (after c (withItem (passItem k args) (decode x)))
theorem test_pass_item : let s := withItem (passItem (.accept 9)) (decode (session9 .running))
    s.passTurn (passItem (.accept 9)) = true ∧ s.session? 9 = some (session9 .running) ∧ s.model? 0 3 = some model3 := by decide +kernel
-- page 5's entry reads 0: frame 0 of the pool
theorem test_promotion : (decode (session9 .running)).pageFrame (session9 .running) 0 5 = some 0 ∧ 0 < model3.f 0x28 4 ∧
    passed (.promotion 7) (.promotion 9) [0, 5, 0, 0, 0] = some (.ended, 0, [.promoted 9 0 0 5]) := by decide +kernel
theorem test_promotion_past_pool : let s := { decode (session9 .running) with mem := memPut [] (burstAddr 0 0 0) 0 }
    s.pageFrame (session9 .running) 0 3584 = none ∧ passed (.promotion 7) (.promotion 9) [0, 3584, 0, 0, 0] = some (.ended, 0, []) := by
  decide +kernel
theorem test_slice : passed (.slice 7) (.slice 9) = some (.ended, 0, [.sliced 9]) := by decide +kernel
-- one node whose verdict is 0: the pass emits that token and keeps the root's row
theorem test_accept : ((passed (.accept 7) (.accept 9)).map (fun o => (o.1, o.2.2.length))) = some (.ended, 1) := by decide +kernel
theorem test_draft_prefill : let x := { session9 .running with pass := some { prefill := true, nodes := 1, stage := 1, fetched := 0 } }
    passed (.draft 7 []) (.draft 9) [] x = some (.ended, 0, [.drafted 9 1 false [11] none]) := by decide +kernel
-- a tree with nothing in it: the device writes node 0
theorem test_fix_tree : let f := fixTree (nodesOf (List.replicate 512 0)) 11
    f.2 = (1, true) ∧ treeCount f.1 (some 11) = 1 := by decide +kernel
theorem test_walk : let nd (t p d : Nat) := bytesLE 8 (t + p * 2 ^ 32 + d * 2 ^ 38 + 2 ^ 44)
    let ns := nodesOf (padTo 512 (nd 9 0 0 ++ nd 8 0 1 ++ nd 7 1 2))
    walkPath ns 3 [8, 7, 6] = [0, 1, 2] ∧ walkEmit ns 3 [8, 7, 6] = [8, 7, 6] ∧ walkEmit ns 3 [8, 5, 6] = [8, 5] := by decide +kernel

-- ## The hopper

/-- Race hopper 0 with `x` in queue `q`. -/
def hopper (p : HopName) (q : Nat) (x : HopQ) (h : HopPart → HopPart := fun h => h) : State :=
  base.modHop (hopIndex p) (fun y => h { y with queues := [(q, x)] })
/-- A word as a partition in SECDED mode stores it. -/
def stored (cell : Nat) (data : W64) (tag : Byte) (n : BitVec 7 := 0) : HopWord := { cell := cell, bits := hopStore true data tag n }
/-- What a pop delivers. -/
def popped (s : State) (p : HopName) (q : BitVec 14) : W64 × Byte := ((after (.pop p q) s).hop p).out

theorem test_push : base.hopFull (.race 0) 64 = false ∧ let t := after (.push (.race 0) 64 0x55 0x0E) base
    ((t.hopQ (.race 0) 64).lev[2].map (·.bits)) = [hopStore true 0x55 0x0E 0] ∧ (t.hopQ (.race 0) 64).pushed[2] = 1 := by decide +kernel
-- a queue with L = 0 is always full
theorem test_push_full : base.hopFull (.race 0) 80 = true ∧ ((after (.push (.race 0) 80 1 0) base).hop (.race 0)).overrun = true ∧
    ((after (.push (.race 0) 80 1 0) base).hopQ (.race 0) 80).depth = 0 := by decide +kernel
-- the watermark example of chapter 7: a push at depth 3 crosses W = 4
theorem test_push_watermark : let ws := (List.range 3).map (fun n => stored n 0 0)
    let t := after (.push (.race 0) 64 1 0) (hopper (.race 0) 64 { lev := (Vector.replicate 4 []).set 0 ws, wmLevel := 4 })
    ((t.hopQ (.race 0) 64).wmCnt, (t.hop (.race 0)).wm) = (1, true) := by decide +kernel
theorem test_pop_idle : popped base (.race 0) 64 = (0xFFFFFFFFFFFFFFFF, 0) ∧ (base.hopQ (.race 0) 64).pick 0 = none := by decide +kernel
-- Table 7-6: with CUT = 2, one word of P is not deliverable; two are, Q passes before P where nothing holds the lock
theorem test_pop_cut : let p0 := stored 0 10 0x05
    let p1 := stored 1 11 0x01 1
    let q := stored 2 12 0x0F
    let k := fun (a b : List HopWord) => hopper (.tenant 0) 2 { lev := ((Vector.replicate 4 []).set 1 a).set 3 b }
    base.hopQueue (.tenant 0) 2 = (2048, 256, 2) ∧ (popped (k [p0] []) (.tenant 0) 2).1 = 0xFFFFFFFFFFFFFFFF ∧
      popped (k [p0, p1] []) (.tenant 0) 2 = (10, 0x85) ∧ popped (k [p0, p1] [q]) (.tenant 0) 2 = (12, 0x8F) := by decide +kernel
theorem test_pop_lock : let x : HopQ := { lev := ((Vector.replicate 4 []).set 1 [stored 1 11 0x01 1]).set 3 [stored 2 12 0x0F], popped := #v[0, 1, 0, 0], lock := some 1 }
    popped (hopper (.tenant 0) 2 x) (.tenant 0) 2 = (11, 0x81) := by decide +kernel
theorem test_check_single_and_double : let w := hopStore true 0x123456789ABCDEF0 0x07 3
    ((hopTake true (w ^^^ 0x10) 3).2, (hopTake true (w ^^^ 0x11) 3).2, (hopTake false (hopStore false 9 0 3) 4).2) =
      (.corrected, .poison false, .poison true) := by decide +kernel
/-- A word of race hopper 0 with two wrong bits, in a cell found bad before. -/
def badWord : State := hopper (.race 0) 64 { lev := (Vector.replicate 4 []).set 0 [{ cell := 77, bits := hopStore true 5 0x0C 0 ^^^ 0x3 }] }
  (fun h => { h with erred := [77] })
theorem test_pop_poison : let t := after (.pop (.race 0) 64) badWord
    (hopTake true (hopStore true 5 0x0C 0 ^^^ 0x3) 0).2 = .poison false ∧ (badWord.hopQ (.race 0) 64).pick 0 = some 0 ∧
    ((t.hop (.race 0)).out.2, (t.hop (.race 0)).poison, (t.hop (.race 0)).retired, (t.hop (.race 0)).recover) = (0x9C, true, [77], true) := by
  decide +kernel
theorem test_partition_reset_after_poison : let s := (phase .commit).modHop 0 (fun h => { h with recover := true, secded := false, queues := [(64, { overrun := true, wmLevel := 4 })] })
    s.boundary = true ∧ ((after (.hopperPartitionReset (.race 0)) s).hop (.race 0)).secded = true ∧
      (after (.hopperPartitionReset (.race 0)) s).hopQ (.race 0) 64 = { wmLevel := 4 } := by decide +kernel
theorem test_partition_reset_on_request : let s := { (phase .commit).modHop 16 (fun h => { h with resetPend := true }) with tenants := State.reset.tenants }
    s.hopHeld .device = true ∧ ((after (.hopperPartitionReset .device) s).hop .device).secded = false := by decide +kernel
theorem test_partition_reset_waits : exec (.hopperPartitionReset (.race 0)) base = .next base := rfl
theorem test_queue_rebuild : let s := base.modHop 0 (fun h => { h with rebuild := true })
    ((after (.queueRebuild (.race 0)) s).hop (.race 0)).recovered = true ∧ s.hopTenant (.race 0) = some 0 := by decide +kernel
theorem test_hopper_reset_req : ((after (.hopperResetReq (.tenant 3)) base).hop (.tenant 3)).resetPend = true := by decide +kernel
theorem test_wm_ack : ((after (.wmAck (.race 2) 64) (hopper (.race 2) 64 { wmCnt := 9 })).hopQ (.race 2) 64).wmCnt = 0 := by decide +kernel

-- ## Memory

-- the tier A and tier B examples of chapter 8
theorem test_tier_a_address : (taLoc 0x234567A40).1 = 9 ∧ taLocal 0x234567A40 = 0x11A2B340 ∧ (taLoc 0x234567A40).2 = 0x11A2B340 / 32 ∧
    taOffset 9 0x11A2B340 = 0x234567A40 := by decide +kernel
theorem test_tier_b_address : tbLoc 0x10000000 = (34, 0x014E5D00 / 32) ∧ tbLocal 0x10000000 = 0x014E5D00 ∧ tbPar 149796 = 44 ∧
    tbParSlot 149796 = 85599 ∧ tbBlock 149796 7 0 = (44, 0x014E5F00 / 32) := by decide +kernel
theorem test_address_map_ends : taLocal (tierEnd false - 1) = 2 ^ 31 - 1 ∧ (taLoc (tierEnd false - 1)).1 < 32 ∧
    tbRowOf 34 85597 = 149796 ∧ tbRowOf 44 85599 = 149796 := by decide +kernel
theorem test_read_after_write : let t := (base.writeAt 3 true (tierEnd true - 4) [1, 2, 3, 4]).1
    healthy base.races[3].mem = true ∧ memWf base.mem = true ∧
    (t.readSpan { race := 3, tierB := true, off := tierEnd true - 4, len := 4 } false).2 = .ok [1, 2, 3, 4] ∧
    (t.readSpan { race := 3, tierB := true, off := tierEnd true - 8, len := 4 } false).2 = .ok [0, 0, 0, 0] := by decide +kernel
theorem test_rs_corrects : rsDecode (rsByte 35 0xFF) = .corr 1 (rsByte 35 0xFF) ∧ rsDecode 0 = .good := by decide +kernel
theorem test_read_counts : let s := base.modMem 0 (fun m => { m with errs := [(3 * 2 ^ 29 + 5, rsByte 0 1)] })
    s.races[0].mem.lost 3 = false ∧ s.races[0].mem.err 3 5 = rsByte 0 1 ∧
    ((s.readBurst 0 3 5 true).1.races[0].mem.chans[3].corr, (s.readBurst 0 3 5 true).2) = (1, some (List.replicate 32 0)) := by decide +kernel

theorem test_channel_lost_a : let t := after (.channelLost 3 .a 9) base
    t.races[3].mem.lost 9 = true ∧ (t.tenants[0].jnl.events.map (fun e => (e.cls, e.race, e.index))) = [(0x04, 3, 9)] ∧
      t.races[3].oos = false ∧ (after (.channelLost 3 .a 9) t).races[3].oos = false := by decide +kernel
theorem test_second_channel_lost : let s := base.modMem 3 (fun m => { m with tbLost := 1 })
    tierChannel .b 13 = some 45 ∧ (after (.channelLost 3 .b 13) s).races[3].oos = true ∧ tierChannel .b 14 = none := by decide +kernel
theorem test_fallback : let s := base.modMem 3 (fun m => { m with taLost := 0x210 })
    (after (.taFallback 3) s).races[3].mem.fbChannel = 4 ∧ (after (.taFallback 3) s).races[3].mem.fbRestored = true := by decide +kernel
/-- Tier B channel 6 of race 7 is lost, its tenant holds, and a rebuild is asked for. -/
def rebuild7 : State := ((phase .commit).modMem 7 (fun m => { m with tbLost := 0x40, tbPending := true, tbChannel := 6 })).modRace 0
  (fun x => { x with hold := true })
def held7 : State := { rebuild7 with races := rebuild7.races.map (fun x => { x with held := true }) }
theorem test_rebuild_req : (after (.rebuildReq 7 6) (base.modMem 7 (fun m => { m with tbLost := 0x40 }))).races[7].mem.tbPending = true ∧
    (after (.rebuildReq 7 5) (base.modMem 7 (fun m => { m with tbLost := 0x40 }))).races[7].mem.tbPending = false := by decide +kernel
theorem test_rebuild_start : held7.raceHeld 7 = true ∧ held7.boundary = true ∧
    (after (.rebuildStart 7 true) held7).races[7].mem.rebuilding = some 6 ∧
    (after (.rebuildStart 7 false) held7).races[7].mem.retrainFail = true := by decide +kernel
theorem test_rebuild_done : let s := held7.modMem 7 (fun m => { m with rebuilding := some 6 })
    (s.rebuildRows 7 38).2 = true ∧ (after (.rebuildDone 7) s).races[7].mem.tbLost = 0 ∧
      (after (.rebuildDone 7) s).races[7].mem.rebuildDone = true := by decide +kernel
theorem test_refresh : exec (.refresh 0 .b) base = .next base := rfl
theorem test_refresh_rate : ((after (.refreshRateRead 1 45 2) base).races[1].mem.chans[45].rate, (after (.refreshRateRead 1 45 2) base).races[1].mem.derateSeen) =
    (2, true) := by decide +kernel
theorem test_bucket_leak : let s := base.modMem 1 (fun m => { m with chans := m.chans.set 4 { m.chans[4] with level := 7 } })
    ((after (.bucketLeak 1) s).races[1].mem.chans[4].level, (after (.bucketLeak 1) s).races[1].mem.chans[5].level) = (6, 0) := by decide +kernel
theorem test_arm : held7.armOk 7 45 = true ∧ (after (.arm 7 true 45) held7).races[7].mem.arm = true ∧
    (after (.arm 7 false 3) held7).races[7].mem.flipCh = 3 := by decide +kernel
theorem test_arm_refused : base.armOk 7 45 = false ∧ (after (.arm 7 true 45) base).races[7].mem.refused = true ∧
    (after (.arm 7 true 45) base).start.errSet = true := by decide +kernel
theorem test_scrub_clean : let s := withItem (work 0x60 [(0x10, 0), (0x18, 4096)])
    devAddr 0 = some (0, false, 0) ∧ healthy s.races[0].mem = true ∧ out (after (.scrub 7) s) =
      some (.ended, 0, [.scrub (128 :: List.replicate 10 0)]) := by decide +kernel
-- a scrub that rewrites takes a wrong byte out of a stored word
theorem test_scrub_rewrites : let s := (withItem (work 0x60 [(0x10, 0), (0x18, 4096), (0x20, 1)])).modMem 0 (fun m => { m with errs := [(5, rsByte 2 9)] })
    (after (.scrub 7) s).races[0].mem.errs = [] ∧ (after (.scrub 7) s).races[0].mem.chans[0].corr = 1 := by decide +kernel

-- ## The Afdun link and the rings

/-- A flit with its check bytes. -/
def flit (slots : List (BitVec 128)) (fseq ack : Nat) (req snp : Byte := 0) : Flit :=
  flitSeal { slots := slots, fseqW := BitVec.ofNat 16 fseq, ackW := BitVec.ofNat 16 ack, crReq := req, crSnp := snp, crPool := 0, rsv := 0, crc := 0 }
def wide : State := linked base

theorem test_full_training : let t := after (.fullTraining #v[0xFF, 0xFF, 0xEF, 0x7F]) base
    base.halfOn 0 = true ∧ t.link.width = #v[3, 3, 1, 1] ∧ t.link.laneFail = #v[0, 0, 0x10, 0x80] := by decide +kernel
theorem test_training_retry : base.link.up = false ∧ (after (.linkTrainingRetry #v[0xFF, 0xFF, 0, 0]) base).link.up = true := by decide +kernel
theorem test_retrain_start : let s := { quietState with link := { quietState.link with retrainPend := true } }
    s.allHeld = true ∧ s.boundary = true ∧ (after (.linkRetrainStart (Vector.replicate 4 0xFF)) s).link.width = Vector.replicate 4 3 := by
  decide +kernel
theorem test_retrain_req : (after .retrainReq base).link.retrainPend = true := by decide +kernel
theorem test_link_down : (after .linkDown base).link.down = true ∧ exec .linkDown wide = .next wide := ⟨by decide +kernel, rfl⟩
theorem test_lane_loss : let t := after (.laneLoss .h1rx 0xFE) wide
    t.link.width = #v[3, 3, 3, widthOf 0xFE] ∧ t.link.retrainCnt = 1 ∧ t.link.laneFail[3] = 1 := by decide +kernel
theorem test_issue : let tx := [txHeader 0x03 0 9 0 0x40]
    wide.link.maySend tx = true ∧ ((wide.issue tx).link.reqCr, (wide.issue tx).link.txNext) = (511, 1) ∧
    ((wide.issue tx).link.out.map (fun f => decide (flitSeal f = f))) = [true] := by decide +kernel
theorem test_issue_waits : let s := { wide with link := { wide.link with reqCr := 0 } }
    s.link.maySend [txHeader 0x03 0 9 0 0x40] = false ∧ (s.issue [txHeader 0x03 0 9 0 0x40]).link.txq.length = 1 := by decide +kernel
theorem test_requests_in_order : let l := { wide.link with reqCr := 1, txq := [[txHeader 0x13 1 0 0 0, 0], [txHeader 0x03 0 1 0 0]] }
    l.maySend [txHeader 0x13 1 0 0 0, 0] = false ∧ l.pump.out = [] := by decide +kernel
theorem test_flit_bad_crc : let f := { flit [] 0 0 with crc := 0 }
    wide.link.rxOn false = true ∧ flitSeal f ≠ f ∧ (after (.flitReceive false f) wide).link.crcCnt = 1 ∧
      (after (.flitReceive false f) wide).link.replay = true := by decide +kernel
theorem test_flit_credits : let f := flit (List.replicate 15 0) 0x1000 0 7 2
    flitSeal f = f ∧ ((after (.flitReceive false f) wide).link.reqCr, (after (.flitReceive false f) wide).link.snpCr) = (519, 18) := by
  decide +kernel
theorem test_flit_ack : let s := { wide with link := { wide.link with unacked := [(1, []), (2, []), (3, [])], txNext := 4 } }
    ((after (.flitReceive true (flit (List.replicate 15 0) 0x1000 0x1002)) s).link.unacked.map (·.1)) = [3] := by decide +kernel
-- a DB_RD to an unassigned page in a data flit: answered with UR, and the next flit is awaited
theorem test_flit_data : let h := txHeader 0x03 0 5 0 0x3000
    let t := after (.flitReceive false (flit (h :: List.replicate 14 0) 0 0)) wide
    slotOpc h = 0x03 ∧ slotLen h = 0 ∧ (t.link.rxNext, t.link.txNext) = (1, 1) := by decide +kernel
theorem test_flit_repeated : (after (.flitReceive false (flit (List.replicate 15 0) 0xFFF 0)) wide).link.rxNext = 0 := by decide +kernel

-- DEV_ID at address 0 reads 0x1A09 in its vendor half
theorem test_cfg_rd : cfgAddr 0 0xF = some 0 ∧ cfgAddr 0x10 0xF0 = some 0x14 ∧ cfgAddr 0 0x3 = none ∧ cfgAddr 8 0xF = none := by decide +kernel
theorem test_cfg_wr : (after (.cfgWr 3 0x20 0xF000 0x1234) { wide with start := { wide.start with ready := true } }).link.txNext = 1 ∧
    cfgAddr 0x20 0xF000 = some 0x2C := by decide +kernel
theorem test_cfg_refused : (after (.cfgRd 3 0 0x3) wide).link.txNext = 1 ∧ (after (.cfgWr 3 0 0x3 1) wide).link.txNext = 1 := by decide +kernel
theorem test_snp_inv : let s := { wide with link := { wide.link with cache := wide.link.cache.set 2 [(0x1000, 7), (0x1040, 8)] } }
    s.link.maySend [txHeader 0x30 0 4 0 0] = true ∧ (after (.snpInv 4 0x1000) s).link.cache[2] = [(0x1040, 8)] := by decide +kernel
theorem test_wr_nc : hostChunk 0x1000 1 = true ∧ (after (.wrNc 0x1000 [5]) wide).link.txNext = 1 ∧ hostChunk 0x1008 1 = false ∧
    (after (.wrNc 0x1008 [5]) wide).link.txNext = 0 := by decide +kernel
theorem test_rd_nc : let s := linked (mill {})
    sget? s.link.reqs 0 = none ∧ hostChunk 0x2000 4 = true ∧ (after (.rdNc 7 0x2000 4) s).link.reqs = [(0, .itemRead 7)] := by decide +kernel
/-- Request tag 6 is the device's read of a line of tenant 0's ring 9, tag 7 item 7's read, tag 8 a snoop. -/
def waiting : State := let s := linked (mill {})
  { s with link := { s.link with reqs := [(6, .ringRead 0 9 0x4000 true), (7, .itemRead 7), (8, .snoop 1)] } }
theorem test_cpl_data_ring : waiting.serves 0 = true ∧ ((after (.cplData 6 0 [0x11]) waiting).link.cache[0]) = [(0x4000, 0x11)] := by decide +kernel
theorem test_cpl_data_poison : (after (.cplData 6 2 []) waiting).races[0].wrings[9].stop = 2 ∧
    (after (.cplData 7 2 []) waiting |> out) = some (.stopped, 0x0F, []) := by decide +kernel
theorem test_cpl : (after (.cpl 6 0) waiting).races[0].wrings[9].stop = 2 ∧ (after (.cpl 8 0) waiting).link.reqs.length = 2 := by decide +kernel
theorem test_host_timeout : (after (.hostTimeout 6) waiting).races[0].wrings[9].stop = 3 ∧
    (after (.hostTimeout 7) waiting |> out) = some (.stopped, 0x10, []) := by decide +kernel
theorem test_unknown_tag : exec (.hostTimeout 9) waiting = .next waiting := rfl

/-- Doorbell page 37 is work ring 5 of tenant 0 and page 38 its completion ring 2, as in the example of chapter 19. -/
def belled : State := { wide with start := { wide.start with ready := true }, link := { wide.link with dbMap := [(37, 0xA1), (38, 0x51)] } }
/-- DB_WR of the value 3 to page 37 or 38. -/
def rung (page v : Nat) (s : State := belled) : State := after (.dbWr 1 (BitVec.ofNat 64 (page * 4096)) 0xFF (BitVec.ofNat 64 v)) s
theorem test_doorbell_entry : let e := belled.dbEntry 37
    belled.dbServed 0x25000 = true ∧ (dbValid e, dbTenant e, dbKind e, dbRing e) = (true, 0, false, 5) ∧ belled.ringRace 0 = some 0 ∧
    dbKind (belled.dbEntry 38) = true ∧ dbRing (belled.dbEntry 38) = 2 := by decide +kernel
-- 64 slots: a producer 64 past RELEASED is taken, 65 past it is not
theorem test_db_wr_work : ((rung 37 64).races[0].wrings[5].producer, (rung 37 64).races[0].wrings[5].dbErr) = (64, false) ∧
    ((rung 37 65).races[0].wrings[5].producer, (rung 37 65).races[0].wrings[5].dbErr) = (0, true) := by decide +kernel
theorem test_db_wr_completion : let s := belled.modCring 0 2 (fun x => { x with written := 5, consumed := 4 })
    (rung 38 5 s).races[0].crings[2].consumed = 5 ∧ (rung 38 6 s).races[0].crings[2].dbErr = true ∧ (rung 38 3 s).races[0].crings[2].dbErr = true := by
  decide +kernel
theorem test_db_rd : (after (.dbRd 1 0x25000) belled).link.txNext = 1 ∧ (after (.dbRd 1 0x25000) belled).link.hostLines = [293] := by decide +kernel
theorem test_db_refused : wide.dbServed 0x100000 = false ∧ (after (.dbRd 1 0x100000) wide).link.hostLines = [] ∧
    (after (.dbWr 1 0x100000 0xFF 1) wide).races[0].wrings[5].producer = 0 := by decide +kernel
theorem test_enable_named : let s := belled.modWring 0 5 (fun x => { x with page := 37 })
    s.dbNames 0 false 5 37 = true ∧ (after (.enable 0 (.work 5) true) s).races[0].wrings[5].enable = true := by decide +kernel
theorem test_enable_completion : let s := belled.modCring 0 2 (fun x => { x with page := 38 })
    s.dbNames 0 true 2 38 = true ∧ (after (.enable 0 (.comp 2) true) s).races[0].crings[2].enable = true := by decide +kernel
theorem test_enable : let s := base.modWring 0 5 (fun x => x)
    (after (.enable 0 (.work 5) false) s).races[0].wrings[5].enable = false ∧ s.dbNames 0 false 5 0 = false ∧
    (after (.enable 0 (.work 5) true) s).start.errSet = true := by decide +kernel
theorem test_cancel : base.owner 0 = some 0 ∧ base.lowest 0 = 0 ∧ (after (.cancel 0 5) base).races[0].wrings[5].cancel = true := by decide +kernel
theorem test_cancel_unowned : let s := { base with tenants := State.reset.tenants }
    s.owner 0 = none ∧ (after (.cancel 0 5) s).races[0].wrings[5].cancel = false := by decide +kernel
theorem test_restart : (after (.restart 0 5) (base.modWring 0 5 (fun x => { x with stop := 2 }))).races[0].wrings[5].stop = 0 := by decide +kernel
theorem test_class_cancel : (after (.hlkClassCancel 0 6) base).tenants[0].classCancel = 6 := by decide +kernel
theorem test_rd_shared : let t := after (.rdShared 0 3 65) wide
    (t.link.reqs.map (·.2)) = [.ringRead 0 3 64 true] ∧ ((wide.wring 0 3).slotAddr 65).toNat = 64 := by decide +kernel
theorem test_rd_shared_cached : let s := { wide with link := { wide.link with cache := wide.link.cache.set 0 [(64, 1)] } }
    exec (.rdShared 0 3 65) s = .next s ∧ s.link.cache[0].any (fun p => p.1 = (s.wring 0 3).slotAddr 65) = true := ⟨rfl, by decide +kernel⟩

-- ## Weir

/-- Module 9 at 400G with port 0 up and path 0 to peer entry 0, module 4; window 8 of tenant 0 takes 64 KiB at 0 from it. -/
def net9 : Net := { base.net with enable := true, portEn := 0xFF, moduleId := 9, site := 5, addr4 := 0x0A000001, mac := 0x1000, ports := base.net.ports.set 0 { up := true },
                                  peers := [(0, { valid := true, disc := true, mask := 0xFF, id := 4 })], lists := [(0, [0])], boot := some 1 }
def win8 : WWin := { tag := 0x77, base := 0, length := 65536, peer := 4, any := false, notify := false, ring := 0, cls := 0 }
def weir (w : WeirT) (i : Item := item7) : State := { withItem i with net := net9, tenants := base.tenants.set 0 { ten with weir := w, values := [0x1234] } }
/-- A packet from module 4 that names message 6: type, flags, base, length, body. -/
def pk (ty : Nat) (fl : Byte) (len : Nat) (body : List Byte) (off : Nat := 0) : WeirPkt :=
  weirPacket (msgHdr ty fl 0 4 6 0 0x77 (BitVec.ofNat 32 len) (BitVec.ofNat 64 off) 0) body
/-- A packet that answers message 6 of this module. -/
def reply (ty : Nat) (body : List Byte) (rst : BitVec 4 := 0) : WeirPkt := weirPacket (msgHdr ty 0 rst 9 6 0 0x77 8192 0 0) body
/-- Message 6 of two packets to module 4, both sent. -/
def send6 : Send := { seq := 6, epoch := 0, ring := 1, dseq := 2, dest := 4, tag := 0x77, base := 0, len := 8192, src := 0, fromHost := true, packets := 2, sent := 2 }
/-- The send entry after a command. -/
def sent (c : Instr) (m : Send := send6) : Option Send := (after c (weir { sends := [m] })).send? 0 6
/-- Tenant 0's Weir state after a command. -/
def w0 (c : Instr) (w : WeirT) : WeirT := (after c (weir w)).tenants[0].weir

theorem test_arrives : (weir {}).net.portOn 0 = true ∧ (weir {}).net.portOn 1 = false ∧ pktOk (pk 0 1 3 [1, 2, 3]) = true ∧ pktType (pk 0 1 3 [1, 2, 3]) = 0 ∧
    pktOk (reply 1 (padTo 44 [0, 4])) = true ∧ pktOk (reply 2 [0, 4, 0, 0]) = true ∧ pktOk (reply 4 (padTo 8 [0, 4])) = true ∧ pktOk (pk 3 0 3 []) = true ∧
    pktOk (pk 5 0 3 []) = true := by decide +kernel
theorem test_malformed : let p := { pk 0 1 3 [1, 2, 3] with crc := 0 }
    pktOk p = false ∧ (after (.data 0 p) (weir {})).net.malformed = 1 ∧ exec (.data 1 p) (weir {}) = .next (weir {}) := ⟨by decide +kernel, by decide +kernel, rfl⟩

/-- A WEIR_SEND of 3 bytes from the host to module 4, one of its descriptor's items. -/
def sendItem (dest : Nat) : Item := { work 0x70 [(0x18, 3), (0x1C, 1), (0x1E, dest), (0x20, 0x99)] with gran := 1, ring := 1, seq := 2 }
def sending (dest : Nat) : State := (weir {} (sendItem dest)).modTenant 0 (fun t => { t with descs := [{ ring := 1, seq := 2, line := (sendItem dest).line, cls := 0 }] })
theorem test_weir_send : let s := sending 4
    (s.desc? 0 1 2).map (·.done) = some false ∧ (s.net.peer? 4).isSome = true ∧ s.descSend? 0 1 2 = none ∧ pathAt (s.pathsTo 4) 0 0 = some 0 ∧
    out (after (.weirSend 7 [1, 2, 3]) s) = some (.ended, 0, [.weirSend 0]) ∧ (after (.weirSend 7 [1, 2, 3]) s).net.counter = 1 ∧
    ((after (.weirSend 7 [1, 2, 3]) s).net.out.map (fun o => match o with | .weir _ _ d p => (d, p.body, p.hdr.tag) | _ => (0, [], 0))) =
      [(4, [1, 2, 3], 0x99)] := by decide +kernel
theorem test_weir_send_unknown_peer : (sending 5).net.peer? 5 = none ∧ out (after (.weirSend 7 []) (sending 5)) = some (.stopped, 0x4A, []) := by
  decide +kernel
theorem test_weir_reg : let i := work 0x71 [(0x10, 4096), (0x18, 100), (0x20, 4), (0x22, 2), (0x23, 3)]
    (weir {} i).regRefusal 0 0 = none ∧ ((weir {} i).reach 0 4096 100).isSome = true ∧ (weir {} i).tagUsed 0x1234 = false ∧
    out (after (.weirReg 7) (weir {} i)) = some (.ended, 0, [.window 0x1234 4096 100 4 false true 3 0]) := by decide +kernel
theorem test_weir_reg_refused : let s := (weir {} (work 0x71 [])).modRng (fun g => { g with fatal := true })
    s.regRefusal 0 0 = some 0x4D ∧ out (after (.weirReg 7) s) = some (.stopped, 0x4D, []) := by decide +kernel
theorem test_weir_revoke : out (after (.weirRevoke 7) (weir {} (work 0x72 [(0x10, 0x77)]))) = some (.ended, 0, [.revoke 0x77]) := by decide +kernel

theorem test_send_for : (weir { sends := [send6] }).sendFor (reply 1 (padTo 44 [0, 4])).hdr 4 = some (0, send6) := by decide +kernel
-- an ACK with ACC_CUM 0 and bit 1 set shows packet 1 accepted, packet 0 still missing
theorem test_ack : (sent (.ack 0 (reply 1 (padTo 44 ([0, 4, 0, 0] ++ bytesBE 4 0 ++ bytesBE 4 0 ++ [2]))))).map (fun m => (m.cum, m.missing, m.tries)) =
    some (0, [0], 1) := by decide +kernel
theorem test_ack_all : (sent (.ack 0 (reply 1 (padTo 44 ([0, 4, 1, 0] ++ bytesBE 4 2))))).map (fun m => (m.all, m.missing)) = some (true, []) := by
  decide +kernel
theorem test_complete : (sent (.complete 0 (reply 2 [0, 4, 0, 0]))).map (fun m => (m.done, m.status)) = some (true, 0) := by decide +kernel
theorem test_status : (sent (.status 0 (reply 4 (padTo 8 [0, 4, 0x41])))).map (fun m => (m.done, m.status, m.code)) = some (true, 0x49, 0x41) := by
  decide +kernel
theorem test_status_restart : (sent (.status 0 (reply 4 (padTo 8 [0, 4, 0x44]) 1)) { send6 with restarts := 15 }).map (·.status) = some 0x4B ∧
    (sent (.status 0 (reply 4 (padTo 8 [0, 4, 0x44]) 1))).map (·.restarts) = some 1 := by decide +kernel
theorem test_retransmit_last : send6.missing = [0, 1] ∧ (sent (.retransmitTimeout 0 6) { send6 with tries := 8 }).map (fun m => (m.done, m.status)) =
    some (true, 0x48) := by decide +kernel
theorem test_retransmit : (sent (.retransmitTimeout 0 6)).map (fun m => (m.tries, sget m.retx 1 0)) = some (2, 1) := by decide +kernel
theorem test_complete_wait : (sent (.completeWaitTimeout 0 6) { send6 with all := true, waits := 7 }).map (·.status) = some 0x48 ∧
    (sent (.completeWaitTimeout 0 6) { send6 with all := true, waits := 6 }).map (fun m => (m.waits, m.done)) = some (7, false) := by decide +kernel

def key6 : MsgKey := { sender := 4, seq := 6, epoch := 0 }
def entry6 : Reasm := { key := key6, port := 0, window := 8, len := 3, base := 0, tag := 0x77 }
/-- The codes of the STATUS packets that go out. -/
def codes (c : Instr) (w : WeirT) : List Nat := (after c (weir w)).net.out.filterMap (fun o => match o with
  | .weir _ _ _ p => if pktType p = 4 then some (natBE (bytesAt p.body 2 1)) else none
  | _ => none)
def fresh3 : Instr := .data 0 (pk 0 1 3 [1, 2, 3])
theorem test_data_unknown_tag : (weir {}).tagWindow 0x77 = none ∧ (after fresh3 (weir {})).net.unknownTag = 1 := by decide +kernel
theorem test_data_accepted : (weir { windows := [(8, win8)] }).tagWindow 0x77 = some (0, 8, win8) ∧ (weir { windows := [(8, win8)] }).stale 0 (pk 0 1 3 []).hdr = false ∧
    (w0 fresh3 { windows := [(8, win8)] }).reasm = [{ entry6 with cum := 1, unreported := 1, buffer := [(0, [1, 2, 3])] }] := by decide +kernel
theorem test_data_refusals : codes fresh3 { windows := [(8, { win8 with revoked := some 0 })] } = [0x40] ∧
    codes fresh3 { windows := [(8, { win8 with peer := 3 })] } = [0x42] ∧ codes fresh3 { windows := [(8, { win8 with length := 2 })] } = [0x41] ∧
    codes (.data 0 (pk 0 0 3 [1, 2, 3])) { windows := [(8, win8)] } = [0x44] := by decide +kernel
theorem test_data_stale : let p := weirPacket (msgHdr 0 1 0 4 6 5 0x77 3 0 0) [1, 2, 3]
    codes (.data 0 p) { windows := [(8, win8)] } = [0x43] ∧ codes (.data 0 (weirPacket (msgHdr 0 1 0 4 6 4 0x77 3 0 0) [1, 2, 3])) { windows := [(8, win8)] } = [] := by
  decide +kernel
theorem test_data_duplicate : (after fresh3 (weir { windows := [(8, win8)], dups := [key6] })).net.out.map (fun o => match o with
    | .weir _ _ _ p => pktType p | _ => 99) = [2] := by decide +kernel
theorem test_packet_place : let t := after (.packetPlace 0) (weir { windows := [(8, win8)], reasm := [{ entry6 with cum := 1, buffer := [(0, [1, 2, 3])] }] })
    (t.tenants[0].weir.reasm.map (fun e => (e.placed, e.complete, e.buffer))) = [(3, true, [])] ∧ t.mem.map (·.2) = [1, 2, 3] := by decide +kernel
theorem test_close : let e := { entry6 with cum := 1, complete := true, sentComplete := true }
    (weir { reasm := [e] }).entryOf key6 = some (0, e) ∧ w0 (.close 0 (pk 3 0 3 [])) { reasm := [e] } = { dups := [key6] } ∧
    (w0 (.close 0 (pk 3 0 3 [])) { reasm := [entry6] }).reasm = [entry6] := by decide +kernel
theorem test_abort : entry6.all = false ∧ (w0 (.abort 0 (pk 5 0 3 [])) { windows := [(8, win8)], reasm := [entry6] }).reasm = [] := by decide +kernel
theorem test_ack_due : let t := after (.ackDue 0 key6) (weir { reasm := [{ entry6 with unreported := 3, cum := 1 }] })
    (t.tenants[0].weir.reasm.map (·.unreported), t.net.out.length) = ([0], 1) := by decide +kernel
theorem test_reassembly_timeout : (w0 (.reassemblyTimeout 0 key6) { windows := [(8, win8)], reasm := [entry6] }).reasm = [] ∧
    (w0 (.reassemblyTimeout 0 key6) { reasm := [{ entry6 with sentComplete := true }] }).dups = [key6] := by decide +kernel
theorem test_duplicates_expire : w0 (.duplicateWindowExpire 0) { dups := [key6, { key6 with epoch := 0xFFF8 }, { key6 with epoch := 0xFFF7 }] } =
    { dups := [key6, { key6 with epoch := 0xFFF8 }] } := by decide +kernel
theorem test_window_free : (w0 (.windowFree 0 8) { windows := [(8, { win8 with revoked := some 0xFFF0 })] }).windows = [] ∧
    (w0 (.windowFree 0 8) { windows := [(8, { win8 with revoked := some 0xFFF1 })] }).windows.length = 1 := by decide +kernel

/-- The network block after a command. -/
def n9 (c : Instr) (n : Net := net9) : Net := (after c { weir {} with net := n }).net
/-- Peer entry 0 with the fields that the test needs. -/
def peer (f : Peer → Peer) : Net := { net9 with peers := net9.peers.map (fun p => (p.1, f p.2)) }
theorem test_probe : (n9 (.probe 0 (pk 7 0 0 [2, 0, 0, 0, 1, 2, 3, 4]))).out.map (fun o => match o with
    | .weir _ q d p => (q, d, pktType p, p.body) | _ => (0, 0, 0, [])) = [(2, 4, 8, [2, 0, 0, 0, 1, 2, 3, 4])] := by decide +kernel
theorem test_probe_reply : let n := n9 (.probeReply 0 (pk 8 0 0 [0, 0, 0, 0, 0, 0, 0, 7])) (peer (fun q => { q with probes := [(0, 7)], down := [0], missed := [(0, 2)] }))
    (n.peers.map (fun p => (p.2.up, p.2.down, p.2.missed.length, p.2.probes.length))) = [([0], [], 0, 0)] ∧ n.formed = true := by decide +kernel
theorem test_probe_timeout : let s := { weir {} with net := peer (fun q => { q with probes := [(0, 7)], missed := [(0, 2)], up := [0] }) }
    ((after (.probeTimeout 0 0 0) s).net.peers.map (fun p => (p.2.down, p.2.up))) = [([0], [])] ∧
    ((after (.probeTimeout 0 0 0) s).tenants[0].jnl.events.map (fun e => (e.cls, e.detail))) = [(0x23, 0x0A)] := by decide +kernel
theorem test_probe_timeout_second : (n9 (.probeTimeout 0 0 0) (peer (fun q => { q with probes := [(0, 7)], missed := [(0, 1)] }))).peers.map
    (fun p => (p.2.down, p.2.missed)) = [([], [(0, 2)])] := by decide +kernel
theorem test_path_probe : let n := n9 (.pathProbe 0 0 3) (peer (fun q => { q with down := [3] }))
    n.cookie = 1 ∧ n.peers.map (fun p => p.2.probes) = [[(3, 0)]] := by decide +kernel
theorem test_beacon_timer : let n := n9 (.beaconTimer 0)
    n.beacons[0] = 1 ∧ n.out.length = 1 := by decide +kernel
/-- A beacon of a module: site, boot number. -/
def bcn (id : W16) (site boot : Nat) : Instr := .beacon 0 (weirPacket (msgHdr 6 0 0 id 0 0 0 0 0 0) (padTo 16 (bytesBE 4 site ++ bytesBE 4 boot))) false 0x0A000002
theorem test_beacon_known : (n9 (bcn 4 5 8) (peer (fun q => { q with stale := true }))).peers.map (fun p => (p.2.boot, p.2.stale)) = [(8, false)] ∧
    (n9 (bcn 4 6 8)).peers = net9.peers := by decide +kernel
theorem test_beacon_own_id : (n9 (bcn 9 5 2)).idConflict = true ∧ (n9 (bcn 9 5 1)).idConflict = false := by decide +kernel
theorem test_beacon_new : (n9 (bcn 11 5 8) { net9 with peers := [], boot := none }).peers.map (fun p => (p.1, p.2.id, p.2.addr, p.2.disc)) =
    [(0, 11, 0x0A000002000000000000000000000000, true)] := by decide +kernel
theorem test_stale : (n9 (.stale 0)).peers.map (·.2.stale) = [true] := by decide +kernel
theorem test_port_link_change : let t := after (.portLinkChange 0 false) (weir {})
    t.net.ports[0].up = false ∧ (t.tenants[0].jnl.events.map (·.cls)) = [0x23] ∧ (n9 (.portLinkChange 1 true)).ports[1].up = true := by decide +kernel
theorem test_ptp_locks : let n := { net9 with ptpEn := true, ptpGood := 15 }
    (n9 (.ptpEventMessage 0 true 99) n).ptpLocked = true ∧ (n9 (.ptpEventMessage 0 true 100) n).ptpLocked = false ∧
    (n9 (.ptpEventMessage 0 true 0) n).ptpLocked = true := by decide +kernel
theorem test_ptp_loses : let n := { net9 with ptpEn := true, ptpGood := 2, ptpBad := 3, ptpLocked := true }
    (n9 (.ptpEventMessage 0 true 1001) n).ptpLocked = false ∧ (n9 (.ptpEventMessage 0 true 1000) n).ptpLocked = true := by decide +kernel
theorem test_net_time : (n9 (.netTimeWrite 7) { net9 with time := 0x500000009 }).time = 0x500000007 ∧
    (n9 (.netTimeWrite 7) { net9 with timeHi := some 2 }).time = 0x200000007 := by decide +kernel
theorem test_net_time_refused : (after (.netTimeWrite 7) { weir {} with net := { net9 with timeSrc := true } }).start.errSet = true := by decide +kernel
theorem test_arp : (n9 (.arpRequest 0 false false 0x0A000001)).out = [.address 0 false false net9.mac] ∧ (n9 (.arpRequest 0 false false 2)).out = [] := by
  decide +kernel
/-- A tagged port, a path and addresses. -/
def wired : Net := { net9 with dscp := 5, addr6 := #v[0x20010DB8, 1, 2, 3], ports := net9.ports.set 2 { vlanEn := true, vlanId := 77, nhMac := 0xAABBCCDDEEFF, up := true } }
def framed (v6 : Bool) : List Byte := wired.toPeer 2 3 { valid := true, v6 := v6, addr := 0x0A000002 <<< 96 } (weirPacket (msgHdr 6 0 0 9 0 0 0 0 0 0) [1, 2, 3])
theorem test_frame4 : let f := framed false
    [f.length, natBE (f.take 6), natBE (bytesAt f 12 4), natBE (bytesAt f 16 3), natBE (bytesAt f 20 2), inetSum (bytesAt f 18 20),
      natBE (bytesAt f 34 4), natBE (bytesAt f 38 2)] = [93, 0xAABBCCDDEEFF, 0x8100004D, 0x080045, 75, 0, 0x0A000002, 0xC003] := by decide +kernel
theorem test_frame6 : let f := (framed true).drop 18
    [f.length, natBE (bytesAt f 0 8), natBE (bytesAt f 8 8), inetSum (pseudo6 55 (wide6 wired.addr6) (0x0A000002 <<< 96) ++ f.drop 40)] =
      [95, 0x6140000000371140, 0x20010DB800000001, 0] := by decide +kernel

-- ## Resets and spare mills

/-- The device has started, and tick 5 has committed. -/
def started : State := ({ phase .commit with start := { ready := true } } : State).modTenant 0 (fun t => { t with jnl := { t.jnl with
  commitTick := 4, applied := 4, nextSeq := 1, log := [{ tick := 4, firstSeq := 0, blocks := 1, entries := [], unwritten := 0, applied := true }] } })
theorem test_warm_reset_pin : let t := after (.warmReset .pin (Vector.replicate 4 0xFF)) started
    (started.pwr.alive, started.start.ready) = (true, true) ∧ (t.warmDone, t.tick.phase, t.tick.running) = (true, .none, true) ∧
    (t.tenants[0].jnl.events.map (fun e => (e.cls, e.detail))) = [(0x23, 0x0D)] := by decide +kernel
theorem test_warm_reset_key_waits : base.boundary = false ∧ (after (.warmReset .key (Vector.replicate 4 0xFF)) base).tick.warmReq = true := by decide +kernel
theorem test_cold_reset : let t := after (.coldReset {}) started
    (t.tenants[0].state, t.start.ready, t.start.step) = (.free, false, 3) := by decide +kernel
theorem test_cold_reset_unpowered : State.reset.pwr.alive = false ∧ exec (.coldReset {}) State.reset = .next State.reset := ⟨by decide +kernel, rfl⟩
theorem test_race_reset : (after (.raceReset 6) base).races[6].resetReq = true := by decide +kernel
/-- Mill 3 of race 0 is to be mapped to the spare; its scratchpad holds a byte. -/
def sparing : State := { started.modRace 0 (fun x => { x with toMap := [3] }) with mem := memPut [] (scratchAddr 0 3 9) 7 }
theorem test_spare_map : let t := after (.spareMap 0 true) sparing
    sparing.boundary = true ∧ sparing.tenants[0].jnl.marker = false ∧ (t.races[0].map[3], t.races[0].sparePos, t.races[0].spareUse) = (24, 3, true) ∧
    memGet t.mem (t.spad { race := 0, mill := 3 } 9) = 7 := by decide +kernel
theorem test_spare_unreadable : memGet (after (.spareMap 0 false) sparing).mem (scratchAddr 0 24 9) = 0 := by decide +kernel

-- ## Tenants

/-- Tenant 2 with races 2 and 3 and state `st`; no other tenant. -/
def tenant2 (x : Tenant → Tenant) (s : State := started) : State :=
  { s with tenants := State.reset.tenants.set 2 (x { ten with races := 0x0C, ctxCount := 64, ctxBase := 128, draftSize := 1, state := .configured }) }
/-- State, SETUP_ERR and ACTIVATING of tenant 2 after a command. -/
def ten2 (c : Instr) (s : State) : TenState × BitVec 4 × Bool := let t := (after c s).tenants[2]; (t.state, t.setupErr, t.activating)
def halted (s : State) : State := { s with tick := { s.tick with running := false, run := false, phase := .none } }
theorem test_setup_check : (tenant2 id).setupCheck 2 = 0 ∧ (tenant2 (fun x => { x with races := 0x05 })).setupCheck 2 = 1 ∧
    ((tenant2 id).modRace 3 (fun r => { r with oos := true })).setupCheck 2 = 2 ∧ (tenant2 (fun x => { x with ctxBase := 262081 })).setupCheck 2 = 3 ∧
    (tenant2 (fun x => { x with ctxBase := 262080, draftBase := 96 })).setupCheck 2 = 4 ∧ (tenant2 (fun x => { x with rounds := 17 })).setupCheck 2 = 5 ∧
    (tenant2 (fun x => { x with state := .free })).setupCheck 2 = 6 := by decide +kernel
theorem test_activate : ten2 (.activate 2) (tenant2 id) = (.configured, 0, true) ∧ ten2 (.activate 2) (halted (tenant2 id)) = (.inService, 0, false) := by
  decide +kernel
theorem test_activate_refused : ten2 (.activate 2) (tenant2 (fun x => { x with races := 0x05 })) = (.configured, 1, false) ∧
    (after (.activate 2) (tenant2 (fun x => { x with races := 0x05 }))).start.errSet = true := by decide +kernel
theorem test_in_service : let s := tenant2 (fun x => { x with activating := true })
    s.boundary = true ∧ ten2 .inService s = (.inService, 0, false) ∧
    ten2 .inService (s.modRace 3 (fun r => { r with oos := true })) = (.configured, 2, false) := by decide +kernel
theorem test_in_service_waits : exec .inService base = .next base := rfl
/-- Tenant 2 in service, holding. -/
def holding2 : State := (tenant2 (fun x => { x with state := .inService })).modRace 2 (fun r => { r with hold := true, held := true })
theorem test_release : holding2.holding 2 = true ∧ ten2 (.release 2 false) holding2 = (.releasing, 0, false) ∧
    ten2 (.release 2 false) (tenant2 (fun x => { x with state := .inService })) = (.inService, 7, false) := by decide +kernel
theorem test_release_others : ten2 (.release 2 true) (tenant2 (fun x => { x with state := .outOfService })) = (.scrubbing, 0, false) ∧
    ten2 (.release 2 true) (tenant2 (fun x => { x with state := .free })) = (.free, 6, false) := by decide +kernel
theorem test_releasing_end : let s := tenant2 (fun x => { x with state := .scrubbing, ending := true, values := [1], wsets := [(0, [])] })
    s.releaseDue 2 = true ∧ ten2 (.releasingEnd 2) s = (.scrubbing, 0, false) ∧ (after (.releasingEnd 2) s).tenants[2].values = [] := by decide +kernel
theorem test_releasing_end_early : (tenant2 id).releaseDue 2 = false ∧ ten2 (.releasingEnd 2) (tenant2 id) = (.configured, 0, false) := by decide +kernel
theorem test_tenant_scrub : let s := { tenant2 (fun x => { x with state := .scrubbing }) with mem := memPut (memPut [] (bufferAddr 3 5) 1) (bufferAddr 4 5) 1 }
    memWf s.mem = true ∧ memGet (after (.tenantScrub 2) s).mem (bufferAddr 3 5) = 0 ∧ memGet (after (.tenantScrub 2) s).mem (bufferAddr 4 5) = 1 ∧
    (after (.tenantScrub 2) s).tenants[2].permille = 1000 := by decide +kernel
theorem test_scrub_done : let t := after (.scrubDone 2) (tenant2 (fun x => { x with state := .scrubbing, permille := 1000 }))
    (t.tenants[2].state, t.tenants[2].races, t.tenants[2].scrubDone) = (.free, 0, true) := by decide +kernel
theorem test_out_of_service : let s := tenant2 (fun x => { x with state := .inService })
    s.owner 3 = some 2 ∧ ten2 (.outOfService (.race 3)) s = (.outOfService, 0, false) ∧
    (after (.outOfService (.race 3)) s).tenants[2].jnl.events.map (·.cls) = [0x03] := by decide +kernel

-- ## Keys

/-- The MRAM records of an Indigo device in epoch 2 whose root secret is 5, slots 8 and 9 empty. -/
def sec2 : Sec := { State.reset.sec with lcA := { valid := true, state := 1, gen := 3, epoch := 2 }, lcB := { valid := true, state := 0, gen := 2 },
                                         rootA := { valid := true, gen := 1, epoch := 2, secret := 5 }, rootB := {}, slots := [], cells := [], fwNext := [] }
/-- A key of slot 3. -/
def key3 (attr : Byte) (anc : List (W16 × W32) := []) (cell : W16 := 0xFFFF) : Key :=
  { key := 99, attr := attr, testRoot := false, depth := BitVec.ofNat 8 anc.length, epoch := 2, cell := cell, keyId := 0x1122, ancestors := anc }
/-- Tenant 0 with the key in slot 3, two free cells of quota, and a device DRBG that serves. -/
def keyed (k : Key) (i : Item := item7) : State := { (withItem i).modTenant 0 (fun t => { t with keys := [(3, k)], cells := 2 }) with
  sec := sec2, rng := { base.rng with ready := true, drbgs := base.rng.drbgs.set 8 { on := true, key := 1, v := 2, count := 1 } } }
/-- Item 7 of a key descriptor on slot `slot`. -/
def keys (op slot : Nat) (l : List (Nat × Nat) := []) : Item := work op ([(0x10, slot), (0x14, 1)] ++ l)
def keyOut (c : Instr) (i : Item) (k : Key := key3 1) : Option (ItemState × Byte × List Effect) := out (after c (keyed k i))

theorem test_key_gate : (keyed (key3 1)).keyGate = none ∧ ({ keyed (key3 1) with sec := { sec2 with locked := true } } : State).keyGate = some 0x87 ∧
    ({ keyed (key3 1) with sec := { sec2 with lcA := { sec2.lcA with state := 0 } } } : State).keyGate = some 0x85 := by decide +kernel
theorem test_key_refused_locked : let s := { keyed (key3 1) (keys 0x82 4) with sec := { sec2 with locked := true } }
    out (after (.keyGenerate 7) s) = some (.stopped, 0x87, []) := by decide +kernel
/-- The blob of a key under the domain key of tenant 0. -/
def blob3 : List Byte := (key3 1).blob ((keyed (key3 1)).domainKey 0) (List.replicate 12 9)
theorem test_key_load : blob3.length = 128 ∧ keyOut (.keyLoad 7 blob3) (keys 0x80 4 [(0x12, 0xFFFF)]) = some (.ended, 0, [.key 4 (some (key3 1))]) := by
  decide +kernel
theorem test_key_load_refused : keyOut (.keyLoad 7 blob3) (keys 0x80 3 [(0x12, 0xFFFF)]) = some (.stopped, 0x80, []) ∧
    keyOut (.keyLoad 7 (blob3.set 0x44 (blob3.getD 0x44 0 + 1))) (keys 0x80 4 [(0x12, 0xFFFF)]) = some (.stopped, 0x82, []) := by decide +kernel
theorem test_key_unload : keyOut (.keyUnload 7) (keys 0x81 3) = some (.ended, 0, [.key 3 none]) ∧ keyOut (.keyUnload 7) (keys 0x81 4) = some (.stopped, 0x80, []) := by
  decide +kernel
theorem test_key_generate : let s := keyed (key3 1) (keys 0x82 4 [(0x12, 1)])
    (s.drawDevice 52).2.isSome = true ∧ s.cellFor (keys 0x82 4 [(0x12, 1)]) = .ok none ∧ s.rootGone 0 = false ∧
    (keyOut (.keyGenerate 7) (keys 0x82 4 [(0x12, 1)])).map (fun o => (o.1, o.2.1, o.2.2.length)) = some (.ended, 0, 1) := by decide +kernel
-- with CELL set it claims cell 0 and the blob names it
theorem test_key_generate_cell : (keyOut (.keyGenerate 7) (keys 0x82 4 [(0x12, 1), (0x13, 1)])).map (fun o => o.2.2.tail) = some [.cellClaim 0] := by
  decide +kernel
theorem test_key_generate_no_cell : let s := (keyed (key3 1) (keys 0x82 4 [(0x12, 1), (0x13, 1)])).modTenant 0 (fun t => { t with cells := 0 })
    out (after (.keyGenerate 7) s) = some (.stopped, 0x84, []) := by decide +kernel
theorem test_key_derive : (key3 4).full = false ∧ (keyOut (.keyDerive 7) (keys 0x83 4 [(0x12, 2), (0x16, 3)]) (key3 4)).map (fun o => (o.1, o.2.1)) = some (.ended, 0) ∧
    (keyed (key3 4)).childAncestors (key3 4) = [(0xFFFF, 0)] := by decide +kernel
theorem test_key_wrap : let s := (keyed (key3 1) (keys 0x84 3 [(0x12, 5)])).modTenant 0 (fun t => { t with keys := [(3, key3 1), (5, key3 3)] })
    s.slotKey 0 5 3 = .ok (key3 3) ∧ out (after (.keyWrap 7) s) = some (.ended, 0, []) := by decide +kernel
theorem test_key_invalidate : keyOut (.keyInvalidate 7) (keys 0x85 3) (key3 1 [] 6) = some (.ended, 0, [.cellBump 6]) ∧
    keyOut (.keyInvalidate 7) (keys 0x85 3) = some (.stopped, 0x84, []) := by decide +kernel
theorem test_key_cell_free : let s := { keyed (key3 1) (keys 0x86 6) with sec := { sec2 with cells := [(6, ({ tag := (keyed (key3 1)).cellTag 0, gen := 1 }, {}))] } }
    (s.sec.cell 6).tag = s.cellTag 0 ∧ out (after (.keyCellFree 7) s) = some (.ended, 0, [.cellFree 6]) ∧
    keyOut (.keyCellFree 7) (keys 0x86 1024) = some (.stopped, 0x84, []) := by decide +kernel
-- a child whose ancestor's cell has moved on is invalid
theorem test_key_invalid : (keyed (key3 1 [(6, 1)])).slotKey 0 3 1 = .error 0x83 ∧ (keyed (key3 1 [(0xFFFF, 0)])).slotKey 0 3 1 = .ok (key3 1 [(0xFFFF, 0)]) := by
  decide +kernel
theorem test_cell_claimed : ((keyed (key3 1)).applyEffect item7 (.cellClaim 5)).1.sec.cell 5 = { tag := (keyed (key3 1)).cellTag 0, gen := 1 } := by decide +kernel

/-- A CRYPT of 16 bytes in place at tier A 0. -/
def crypts (dec : Nat) : Item := { work 0x87 [(0x10, 3), (0x12, dec), (0x20, 4096), (0x28, 16)] with gran := 1 }
theorem test_crypt : let t := after (.crypt 7) (keyed (key3 1) (crypts 0))
    (out t).map (fun o => (o.1, o.2.1)) = some (.ended, 0) ∧ t.mem.length = 32 ∧ (t.devRead 0 4096 16).2 =
      .ok (gcmCtrAt (bytesLE 32 99) (List.replicate 12 0) 0 (List.replicate 16 0)) := by decide +kernel
theorem test_crypt_bad_tag : (keyOut (.crypt 7) (crypts 1) (key3 2)).map (fun o => o.2.2.tail) = some [.authFail] := by decide +kernel
theorem test_pkg_open_no_flock : keyOut (.pkgOpen 7) (work 0x88 []) = some (.stopped, 0x88, []) := by decide +kernel
theorem test_attest : keyOut (.attest 7 5) (work 0x89 []) = some (.ended, 0, [.attestJob 5]) ∧
    out (after (.attest 7 5) ((keyed (key3 1) (work 0x89 [])).modRng (fun g => { g with fatal := true }))) = some (.stopped, 0x13, []) := by decide +kernel
/-- A job of ATTEST since tick 0, in tick `n` of 1 ms. -/
def working (n : Nat) (late : Bool) : State := let s := (keyed (key3 1)).modTenant 0 (fun t => { t with
    job := some { ring := 1, seq := 2, tick := 0, late := late, report := List.replicate 600 0 }
    descs := [{ ring := 1, seq := 2, line := line [(0, 0x89)], cls := 0, accepted := true, waits := true }] })
  { s with tick := { s.tick with count := BitVec.ofNat 64 n } }
theorem test_job_done : ((after (.rtpJobDone 0) (working 200 false)).desc? 0 1 2).map (fun d => (d.done, d.status, d.body)) = some (true, 0, 88) := by
  decide +kernel
theorem test_job_late : ((after (.rtpJobDone 0) (working 200 true)).desc? 0 1 2).map (fun d => (d.done, d.status)) = some (true, 0x0C) ∧
    ((after (.rtpJobDone 0) (working 199 true)).desc? 0 1 2).map (·.done) = some false := by decide +kernel
theorem test_no_job : exec (.rtpJobDone 1) (working 200 true) = .next (working 200 true) := rfl

-- ## The mailbox

/-- The mailbox of that device, every tenant Free, with a first argument word. -/
def boxed (f : Sec → Sec := id) (w : W32 := 0) : State := { keyed (key3 1) with sec := f { sec2 with arg := [(0, w)] }, tenants := State.reset.tenants }
/-- RESULT, BUSY and the state after a command. -/
def mbx (c : Instr) (s : State) : Byte × Bool × Nat := let t := after c s; (t.sec.result, t.sec.busy, t.sec.state)
theorem test_mbx_busy : (after .lcQuery (boxed (fun c => { c with busy := true }))).sec.err = true := by decide +kernel
theorem test_mbx_locked : (boxed (fun c => { c with locked := true })).mbxGate 2 = some 0x87 ∧ mbx .lcSeal (boxed (fun c => { c with locked := true })) =
    (0x87, true, 1) := by decide +kernel
theorem test_lc_query : sec2.lc = some sec2.lcA ∧ (mbx .lcQuery (boxed)).1 = 0 := by decide +kernel
theorem test_lc_seal_source : mbx .lcSeal (boxed) = (0x85, true, 1) ∧ mbx .lcReseal (boxed) = (0x85, true, 1) := by decide +kernel
/-- The device in another life-cycle state. -/
def inState (n : BitVec 2) (c : Sec) : Sec := { c with lcA := { c.lcA with state := n } }
theorem test_lc_seal : (boxed (inState 0)).allFree = true ∧ mbx .lcSeal (boxed (inState 0)) = (0, true, 1) ∧
    ((after .lcSeal (boxed (inState 0))).sec.pending, (after .lcSeal (boxed (inState 0))).sec.epoch) = (true, 3) := by decide +kernel
theorem test_lc_seal_in_service : mbx .lcSeal { boxed (inState 0) with tenants := base.tenants } = (0x8B, true, 0) := by decide +kernel
theorem test_lc_reseal : mbx .lcReseal (boxed (inState 2)) = (0, true, 1) := by decide +kernel
theorem test_lc_unlock_challenge : (after .lcUnlockChallenge (boxed)).sec.rsp.length = 32 ∧ (after .lcUnlockChallenge (boxed)).sec.challenge.isSome = true := by
  decide +kernel
theorem test_lc_unlock_no_challenge : mbx .lcUnlock (boxed) = (0x82, true, 1) ∧ mbx .lcUnlock (boxed (inState 2)) = (0x85, true, 2) := by decide +kernel
theorem test_lc_retire : mbx .lcRetire (boxed id 0x52424D55) = (0, true, 3) ∧ mbx .lcRetire (boxed id 0x52424D54) = (0x85, true, 1) := by decide +kernel
theorem test_flock_create_occupied : let c : Sec → Sec := fun c => { c with slots := [(8, ({ cls := 3, gen := 1 }, {}))] }
    mbx .flockCreate (boxed c) = (0x80, true, 1) ∧ mbx .flockCreate (boxed (inState 3)) = (0x85, true, 3) := by decide +kernel
theorem test_flock_create : let t := after .flockCreate (boxed id 2)
    (boxed id 2).drbgServes = true ∧ (sec2.slot 10).map (·.cls) = some 0 ∧ (t.sec.slot 10).map (fun x => (x.cls, x.kind, x.epoch)) = some (3, 1, 2) := by decide +kernel
theorem test_flock_delete : let c : Sec → Sec := fun c => { c with slots := [(8, ({ cls := 3, gen := 1 }, {}))] }
    ((after .flockDelete (boxed c)).sec.slot 8).map (·.cls) = some 0 ∧ mbx .flockDelete (boxed id 32) = (0x80, true, 1) := by decide +kernel
theorem test_identity_get : let c : Sec → Sec := fun c => { c with slots := [4, 1, 2].map (fun k => (k, ({ cls := 1, gen := 1, body := [BitVec.ofNat 8 k] }, {}))) }
    (after .identityGet (boxed c)).sec.rsp = [4, 1, 2] := by decide +kernel
theorem test_fw_load_bad : (boxed).fwCheck [] = .error 0x82 ∧ mbx (.fwLoad []) (boxed) = (0x82, true, 1) := by decide +kernel
theorem test_cell_release : let c : Sec → Sec := fun c => { c with arg := [(0, 9)], cells := [(5, ({ tag := 9, counter := 1, gen := 1 }, {})), (6, ({ tag := 8, gen := 1 }, {}))] }
    let t := after .cellRelease (boxed c)
    ((t.sec.cell 5).tag, (t.sec.cell 5).counter, (t.sec.cell 6).tag) = (0, 2, 8) := by decide +kernel
theorem test_mbx_end : let t := after .mbxCommandEnd (boxed (fun c => { c with busy := true, served := true }))
    (t.sec.busy, t.sec.done) = (false, true) ∧ exec .mbxCommandEnd (boxed) = .next (boxed) := ⟨by decide +kernel, rfl⟩
theorem test_mbx_end_transition : let s := boxed (fun c => { c with busy := true, lcA := { c.lcA with wipe := true, keygen := true } })
    let t := after .mbxCommandEnd s
    (t.sec.pending, t.sec.busy, t.sec.draws) = (false, false, 3) := by decide +kernel
theorem test_rtp_watchdog : (after (.rtpWatchdog false) (working 1 false)).tenants[0].job.map (·.late) = some true ∧
    (after (.rtpWatchdog true) (working 1 false)).sec.locked = true ∧ (after (.rtpWatchdog true) (working 1 false)).tenants[0].keys = [] := by decide +kernel

-- ## Random numbers

/-- Every vane in state `st`, every DRBG on. -/
def vanes (st : BitVec 2) (fails : BitVec 2 := 0) : State := base.modRng (fun g => { g with
  vanes := Vector.replicate 4 { state := st, failRun := fails, inLimits := true }, drbgs := Vector.replicate 9 { on := true, key := 1, v := 2 } })
/-- A block of alternating pairs: 512 ones, 511 agreements, runs of two. -/
def pairs : BitVec 1024 := BitVec.ofNat 1024 ((2 ^ 1024 - 1) / 15 * 3)
theorem test_measure : let m := ({} : Vane).measure pairs
    (m.ones.toNat, m.agree.toNat, m.run.toNat, m.pass) = (512, 512, 2, true) ∧ (({} : Vane).measure 0).pass = false := by decide +kernel
theorem test_block_feeds_pool : (vanes 2).rng.feeding = some 0 ∧ (after (.vaneBlockEnd 0 pairs) (vanes 2)).rng.pool.length = 1024 ∧
    (after (.vaneBlockEnd 1 pairs) (vanes 2)).rng.pool.length = 0 := by decide +kernel
theorem test_block_starts_up : let s := (vanes 1).modRng (fun g => { g with vanes := g.vanes.set 2 { g.vanes[2] with started := 3 } })
    ((after (.vaneBlockEnd 2 pairs) s).rng.vanes[2].state, (after (.vaneBlockEnd 1 pairs) s).rng.vanes[1].state) = (2, 1) := by decide +kernel
theorem test_block_fails : let x := (after (.vaneBlockEnd 0 0) (vanes 2 1)).rng.vanes[0]
    (x.state, x.trim, x.failRun, x.failCnt) = (0, 0x200, 2, 1) := by decide +kernel
theorem test_block_retires : let s := (vanes 3).modRng (fun g => { g with vanes := g.vanes.set 0 { state := 2, failRun := 2 } })
    let t := after (.vaneBlockEnd 0 0) s
    (t.rng.vanes[0].state, t.rng.fatal, t.pwr.fatalN) = (3, true, true) ∧ (after (.vaneBlockEnd 0 0) (vanes 2 2)).rng.fatal = false := by decide +kernel
theorem test_block_of_retired_vane : exec (.vaneBlockEnd 0 0) (vanes 3) = .next (vanes 3) := rfl
theorem test_vane_settled : (after (.vaneSettled 3) (vanes 0)).rng.vanes[3].state = 1 := by decide +kernel
theorem test_trim_step : (after (.trimStep 0 37) (vanes 2)).rng.vanes[0].trim = 0x1FF ∧ (after (.trimStep 0 36) (vanes 2)).rng.vanes[0].trim = 0x200 ∧
    (after (.trimStep 0 28) (vanes 2)).rng.vanes[0].trim = 0x200 ∧ (after (.trimStep 0 27) (vanes 2)).rng.vanes[0].trim = 0x201 := by decide +kernel
theorem test_drbg_reseed : let s := (vanes 2).modRng (fun g => { g with pool := List.replicate 1030 true, drbgs := g.drbgs.set 4 { g.drbgs[4] with count := 65536 } })
    let t := after (.drbgReseed 4) s
    (t.rng.pool.length, t.rng.reseeds, t.rng.drbgs[4].count) = (6, 1, 0) := by decide +kernel
theorem test_drbg_reseed_early : exec (.drbgReseed 4) (vanes 2) = .next (vanes 2) := rfl
theorem test_drbg_fill : (vanes 2).tick.owned 11 0 ≠ 0 ∧ let t := after (.drbgFill 0) (vanes 2)
    (t.tenants[0].values.length, t.rng.drbgs[0].count, t.rng.drbgs[1].count) = (1, 1, 0) := by decide +kernel
theorem test_drbg_fill_full : let s := (vanes 2).modTenant 0 (fun x => { x with values := List.replicate 64 0 })
    (after (.drbgFill 0) s).rng.drbgs[0].count = 0 := by decide +kernel
theorem test_raw_req : (after (.rawReq true) (vanes 2)).rng.rawPend = true ∧ (after (.rawReq false) (after (.rawReq true) (vanes 2))).rng.rawPend = false := by
  decide +kernel
theorem test_raw_test_start : let s := { quietState with rng := { (vanes 2).rng with rawPend := true } }
    s.boundary = true ∧ s.allHeld = true ∧ (after .rawTestStart s).rng.rawActive = true := by decide +kernel
theorem test_raw_test_waits : exec .rawTestStart base = .next base ∧ base.boundary = false := ⟨rfl, by decide +kernel⟩
theorem test_raw_data : (after .rngRawData ((vanes 2).modRng (fun g => { g with fifo := [(5, true), (6, true)] }))).rng.fifo = [(6, true)] ∧
    (after .rngRawData (vanes 2)).rng.underrun = true := by decide +kernel

-- ## Power and start-up

/-- At a boundary with no tenant: a command in the slot, moving or not. -/
def slot (c : PwrCmd) : State := quietState.modPwr (fun p => { p with cmd := some c })
/-- What the power slot shows after a command: DONE, RESULT, and whether a command is held. -/
def pw (c : Instr) (s : State := quietState) : Bool × BitVec 3 × Bool := let p := (after c s).pwr; (p.done, p.result, p.cmd.isSome)
theorem test_frequency_command : pw (.frequencyCommand 1250) = (false, 0, true) ∧ quietState.frequencyCheck 1250 = 0 ∧
    pw (.frequencyCommand 1225) = (true, 1, false) ∧ pw (.frequencyCommand 1251) = (true, 5, false) ∧ pw (.frequencyCommand 75) = (true, 5, false) := by decide +kernel
theorem test_frequency_low : let s := { quietState with tick := { quietState.tick with priceMhz := 100 } }
    pw (.frequencyCommand 100) s = (false, 0, true) := by decide +kernel
theorem test_power_slot_used : (after (.domainCommand 3 1) (slot { kind := 0, domain := 1, st := 1, mhz := 0 })).pwr.cmdErr = true := by decide +kernel
theorem test_domain_command : quietState.cmdCheck { kind := 0, domain := 3, st := 1, mhz := 0 } = 0 ∧ pw (.domainCommand 3 1) = (false, 0, true) ∧
    pw (.domainCommand 80 1) = (true, 5, false) := by decide +kernel
theorem test_device_state_command : let s := { quietState with tick := { quietState.tick with running := false, run := false } }
    s.cmdCheck { kind := 1, domain := 0, st := 1, mhz := 0 } = 0 ∧ pw (.deviceStateCommand 1) s = (false, 0, true) ∧ pw (.deviceStateCommand 1) = (true, 4, false) := by
  decide +kernel
theorem test_link_wake : let s := quietState.modPwr (fun p => { p with devState := 2 })
    (pw .linkWake s).2.2 = true ∧ exec .linkWake base = .next base := ⟨by decide +kernel, rfl⟩
theorem test_cancel_command : pw .cancelPendingCommand = (true, 4, false) ∧ pw .cancelPendingCommand (slot { kind := 0, domain := 1, st := 1, mhz := 0 }) =
    (true, 6, false) := by decide +kernel
theorem test_domain_effect : let s := slot { kind := 0, domain := 3, st := 1, mhz := 0 }
    s.cmdWaits { kind := 0, domain := 3, st := 1, mhz := 0 } = false ∧ s.domainCheck 3 1 = 0 ∧ s.concerned 3 = [3] ∧
    ((after .powerCommandEffect s).pwr.domains[3], (after .powerCommandEffect s).pwr.domains[4]) = (3, 0) := by decide +kernel
theorem test_frequency_effect : (after .powerCommandEffect (slot { kind := 2, domain := 0, st := 0, mhz := 1225 })).pwr.curMhz = 1225 ∧
    (after .powerCommandEffect ((slot { kind := 2, domain := 0, st := 0, mhz := 1250 }).modPwr (fun p => { p with curMhz := 100 }))).pwr.curMhz = 100 := by
  decide +kernel
theorem test_no_effect : exec .powerCommandEffect base = .next base := rfl
theorem test_done : let s := (slot { kind := 0, domain := 3, st := 1, mhz := 0, moving := true }).modPwr (fun p => { p with domains := p.domains.set 3 3 })
    ((after .done s).pwr.domains[3], pw .done s) = (1, true, 0, false) := by decide +kernel
theorem test_done_frequency : (after .done (slot { kind := 2, domain := 0, st := 0, mhz := 900, moving := true })).pwr.curMhz = 900 ∧
    (after .done (slot { kind := 2, domain := 0, st := 0, mhz := 900 })).pwr.cmd.isSome = true := by decide +kernel

theorem test_power_good : let t := after (.powerGoodRise {}) State.reset
    (t.pwr.alive, t.pwr.pfail, t.start.step) = (true, false, 3) ∧ (after (.powerGoodRise { millRef := false }) State.reset).start.step = 6 := by decide +kernel
theorem test_power_good_refused : exec (.powerGoodRise {}) base = .next base ∧ (after (.powerGoodRise { inputInRange := false }) State.reset).pwr.alive = false :=
  ⟨rfl, by decide +kernel⟩
theorem test_clk_err : let s := after (.powerGoodRise { millRef := false }) State.reset
    (after .clkErr s).start.clkErr = true ∧ (after (.millReferenceAppears {}) s).start.step = 3 := by decide +kernel
theorem test_fill_done : let s := { quietState with start := { filling := [24, 32] } }
    s.pwr.domains[24] = 0 ∧ (after (.fillDone 24 []) s).start.filling = [32] ∧ (after (.fillDone 24 []) s).races[0].mem.fillDone = false ∧
    (after (.fillDone 32 []) { s with start := { filling := [32] } }).races[0].mem.fillDone = true := by decide +kernel
theorem test_ready : let s := { quietState with start := { step := 3 }, net := { base.net with held := true }, rng := { base.rng with ready := true } }
    s.startReady = true ∧ (after .ready s).start.ready = true ∧ (after .ready s).net.enable = true := by decide +kernel
theorem test_not_ready : State.reset.startReady = false ∧ exec .ready State.reset = .next State.reset := ⟨by decide +kernel, rfl⟩
theorem test_power_fail : (after (.powerFail .lowInput) base).tick.count = 0 ∧ (after .thermalShutdown base).tenants[0].state = .free := by decide +kernel
theorem test_low_input : (after .lowInputWarning base).pwr.pfWarn = true ∧ (after .lowInputWarning base).pwr.stInput = 0x20 := by decide +kernel
theorem test_phase_fault : let t := after (.phaseFault 2 7) base
    (t.pwr.rails[2].phases, t.pwr.rails[2].fault, t.pwr.fatalN) = (11, true, false) ∧ railHolds 2 11 = true ∧
    (t.tenants[0].jnl.events.map (fun e => (e.cls, e.part, e.index))) = [(0x0F, 7, 7)] := by decide +kernel
theorem test_droop : let p := (after (.droop 1 3000) (base.modPwr (fun p => { p with stretchRem := p.stretchRem.set 1 100 }))).pwr
    (p.stretch[1], p.stretchRem[1]) = (3, 28) := by decide +kernel
theorem test_telemetry_sample : let p := (after (.telemetrySample { vin := 5, pinW := 600 }) (base.modPwr (fun p => { p with peakW := 700 }))).pwr
    (p.vin, p.pinW, p.peakW) = (5, 600, 700) := by decide +kernel
theorem test_clr : (after .clr (base.modPwr (fun p => { p with peakW := 700 }))).pwr.peakW = 0 := by decide +kernel
theorem test_pmbus : (after (.pmbusRead 0x98) base).pwr.pmOut = [0x33] ∧ (after (.pmbusRead 0x99) base).pwr.pmOut = [4, 0x4F, 0x48, 0x4D, 0x44] ∧
    (after (.pmbusRead 0) base).pwr.cml = true ∧ (after (.pmbusWrite 3 []) base).pwr.cml = true := by decide +kernel

-- ## Management

def sess (n : BitVec 4) : OpSess := { roles := n }
/-- Session 1 is open with every role, on a state. -/
def oper (s : State := base) (x : OpSess := sess 0xF) : State := { s with mgmt := { s.mgmt with sessions := [(1, x)] } }
/-- The opcode and status of each message a command sends. -/
def msgs (c : Instr) (s : State := oper) : List (W16 × Byte) := (after c s).mgmt.out.map (fun m => (m.op, m.status))
theorem test_admitted : sget? oper.mgmt.sessions rq.session.val = some (sess 0xF) ∧ oper.hopFull .device 8192 = false ∧
    [0, 1, 2, 3].all (fun k => (sess 0xF).roles.getLsbD k) = true := by decide +kernel
theorem test_closed_session : exec (.ident rq) base = .next base := rfl
theorem test_ninth_request : let s := oper base { sess 0xF with waiting := List.replicate 8 { op := 0x10, id := 1 } }
    (after (.ident rq) s).mgmt.sessions = [] ∧ msgs (.ident rq) s = [] := by decide +kernel
theorem test_refused_role : msgs (.power rq 0) (oper base (sess 0xD)) = [(0x10, 1)] ∧ msgs (.lifeCycle rq 1 []) (oper base (sess 7)) = [(0x40, 1)] := by
  decide +kernel
theorem test_response_waits : let s := oper base { sess 0xD with waiting := [{ op := 0x40, id := 1 }] }
    msgs (.power rq 0) s = [] ∧ (sget? (after (.power rq 0) s).mgmt.sessions 1).map (fun x => x.waiting.length) = some 2 := by decide +kernel
theorem test_tls_connect : let c : OperatorCert := { issuer := [7], rsa4096 := true, pssValid := true, roles := 5 }
    let s := { keyed (key3 1) with sec := { sec2 with slots := [(6, ({ cls := 2, kind := 2, gen := 1, body := [7] }, {}))] } }
    s.tlsReady = true ∧ s.drbgServes = true ∧ s.sec.anchor = some [7] ∧ (after (.tlsConnect c) s).mgmt.sessions = [(0, sess 5)] ∧
      (after (.tlsConnect { c with issuer := [8] }) s).mgmt.authFail = true := by decide +kernel
theorem test_tls_not_ready : let s := boxed (inState 3)
    s.tlsReady = false ∧ exec (.tlsConnect { issuer := [], rsa4096 := true, pssValid := true, roles := 1 }) s = .next s := ⟨by decide +kernel, rfl⟩
theorem test_session_ends : (after (.sessionIdle 1) oper).mgmt.sessions = [] ∧ (after (.sessionClosed 1) oper).mgmt.sessions = [] ∧
    (after (.sessionIdle 2) oper).mgmt.sessions.length = 1 := by decide +kernel
theorem test_ident : msgs (.ident rq) = [(1, 0)] := by decide +kernel
theorem test_telemetry_get : msgs (.telemetryGet rq) = [(2, 0)] := by decide +kernel
theorem test_telemetry_sub : msgs (.telemetrySub rq 9) = [(3, 4)] ∧ msgs (.telemetrySub rq 60001) = [(3, 4)] ∧
    (sget? (after (.telemetrySub rq 10) oper).mgmt.sessions 1).map (fun x => x.interval) = some 10 := by decide +kernel
theorem test_telemetry : let s := oper base { sess 1 with interval := 100 }
    (after (.telemetry 1) s).mgmt.out.map (fun m => (m.op, m.flags)) = [(0x82, 2)] ∧ msgs (.telemetry 1) = [] := by decide +kernel
theorem test_decimation : (after (.decimation true) base).mgmt.decLog2 = 1 ∧ (after (.decimation false) base).mgmt.decLog2 = 0 ∧
    (after (.decimation true) { base with mgmt := { decLog2 := 6 } }).mgmt.decLog2 = 6 := by decide +kernel
theorem test_log_read : msgs (.logRead rq 0 0) = [(4, 4)] ∧ msgs (.logRead rq 0 1025) = [(4, 4)] ∧ msgs (.logRead rq 0 1024) = [(4, 0)] := by decide +kernel
-- a domain command to mill group 3's Retain state: kind 0, domain 3 in bits 8 to 2, state 1 in bits 10 to 9
theorem test_power : base.cmdCheck { kind := 0, domain := 3, st := 1, mhz := 0, req := some rq } = 0 ∧ msgs (.power rq 0x20C) = [] ∧
    (after (.power rq 0x20C) oper).pwr.cmd = some { kind := 0, domain := 3, st := 1, mhz := 0, req := some rq } ∧
    msgs (.power rq 0x20C) (oper (slot { kind := 0, domain := 1, st := 1, mhz := 0 })) = [(0x10, 2)] := by decide +kernel
theorem test_life_cycle : let s := oper (boxed)
    operatorCode 9 = false ∧ msgs (.lifeCycle rq 9 []) s = [(0x40, 4)] ∧ (after (.lifeCycle rq 1 []) s).sec.asker = some rq ∧
      msgs (.lifeCycle rq 1 []) (oper (boxed (fun c => { c with busy := true }))) = [(0x40, 2)] := by decide +kernel
theorem test_life_cycle_response : let x : OpSess := { sess 8 with waiting := [{ op := 0x40, id := 9 }] }
    let s := oper (boxed (fun c => { c with busy := true, served := true, asker := some rq, opRsp := [0, 1] })) x
    (after .mbxCommandEnd s).mgmt.out = [response rq 0x40 0 [0, 1]] := by decide +kernel
/-- The state that has slot 6 empty, with a session. -/
def slot6 : State := oper (boxed (fun c => { c with slots := [(6, ({ gen := 1 }, {}))] }))
theorem test_anchor_set : slot6.tlsReady = true ∧ (slot6.sec.slot 6).map (fun y => (y.cls, y.gen)) = some (0, 1) ∧
    msgs (.anchorSet rq []) slot6 = [(0x41, 4)] ∧ msgs (.anchorSet rq [1]) (oper (boxed (inState 3))) = [(0x41, 5)] := by decide +kernel
theorem test_anchor_length : msgs (.anchorSet rq (List.replicate 1953 0)) slot6 = [(0x41, 4)] := by decide +kernel
theorem test_install_refused : let s := oper (boxed (fun c => { c with slots := [(6, ({ cls := 2, gen := 1 }, {}))] }))
    (after (.install 4) s).mgmt.refused = true ∧ (after (.install 4) s).start.errSet = true := by decide +kernel
theorem test_spdm : msgs (.spdm rq [1]) = [(0x50, 0)] ∧ (after (.spdm rq [1]) oper).sec.draws = 1 := by decide +kernel
theorem test_mgc_watchdog : (after .mgcWatchdog oper).mgmt.sessions = [] ∧ (after .mgcWatchdog oper).mgmt.restarts = 1 ∧
    exec .mgcWatchdog State.reset = .next State.reset := ⟨by decide +kernel, by decide +kernel, rfl⟩

-- ## Tests

/-- Session 1 at a boundary at which no tenant owns a race, and a test of race 2 there. -/
def held (x : Option TestRun := none) : State := { oper quietState with mgmt := { oper.mgmt with tests := x.toList.map (fun y => (y.race.toNat, y)) } }
def args (code : Byte) (start : W48 := 0) (length : W32 := 0) : TestArgs := { code := code, race := 2, unit := 3, start := start, length := length, ticks := 4 }
def run (code : Byte) (running : Bool := true) (src : Option ReqId := none) : TestRun := { testOf (args code) src with running := running }
/-- What a host's test leaves: DONE, RESULT and whether the test is still there. -/
def told (c : Instr) (s : State) : Bool × Nat × Bool := let t := after c s; (t.mgmt.done, t.mgmt.result[0].toNat / 256 % 256, (t.test? 2).isSome)
theorem test_test_taken : held.testFields (args 0x10) = true ∧ held.testRefused (testOf (args 0x10) (some rq)) = none ∧
    msgs (.test rq (args 0x10)) held = [(0x20, 0)] ∧ (after (.test rq (args 0x10)) held).races[2].testPending = true ∧
    ((after (.test rq (args 1)) held).test? 2).map (fun x => x.running) = some true := by decide +kernel
theorem test_test_refused : msgs (.test rq (args 0x20)) held = [(0x20, 4)] ∧ msgs (.test rq (args 1)) (held (some (run 2))) = [(0x20, 2)] ∧
    msgs (.test rq (args 0x11 1 1)) held = [(0x20, 0), (0x81, 0), (0x80, 0)] ∧ held.testRefused (testOf (args 0x11 1 1) none) = some 4 := by decide +kernel
theorem test_go : told (.go 0x10 2 3) held = (false, 0, true) ∧ told (.go 0x20 2 3) held = (true, 8, false) ∧
    told (.go 0x10 2 3) (held (some (run 2 true (some rq)))) = (true, 7, true) ∧ (after (.go 0x10 2 3) (held (some (run 2)))).start.errAddr = 0xC100 := by decide +kernel
theorem test_test_cancel : msgs (.testCancel rq 9) held = [(0x21, 4)] ∧ msgs (.testCancel rq 2) held = [(0x21, 5)] ∧
    msgs (.testCancel rq 2) (held (some (run 0x10 false (some rq)))) = [(0x21, 0), (0x81, 0), (0x80, 0)] ∧
    ((after (.testCancel rq 2) (held (some (run 0x11)))).test? 2).map (fun x => x.cancel) = some true := by decide +kernel
theorem test_test_cancel_running : (msgs (.testCancel rq 2) (held (some (run 0x10))), told (.testCancel rq 2) (held (some (run 0x10)))) =
    ([(0x21, 0)], false, 0, true) := by decide +kernel
theorem test_mgt_cancel : told .mgtTestCancel (held (some (run 0x10 false))) = (true, 5, false) ∧ held.mgmt.hostTest = none ∧ exec .mgtTestCancel held = .next held :=
  ⟨by decide +kernel, by decide +kernel, rfl⟩
theorem test_test_start : let s := held (some (run 0x10 false))
    s.boundary = true ∧ s.raceHeld 2 = true ∧ s.scrubbing 2 = false ∧ s.testRefused (run 0x10 false) = none ∧
      ((after (.testStart 2) s).test? 2).map (fun x => x.running) = some true ∧
      told (.testStart 2) (held (some { run 0x11 false with start := 1 })) = (true, 4, false) := by decide +kernel
theorem test_test_waits : exec (.testStart 1) (held (some (run 0x10 false))) = .next (held (some (run 0x10 false))) := rfl
theorem test_pattern_done : told (.testDone 2 { ok := 9, bad := 0, detail := 0 }) (held (some (run 1))) = (true, 0, false) ∧
    told (.testDone 2 { ok := 9, bad := 1, detail := 0 }) (held (some (run 2))) = (true, 1, false) ∧
    told (.testDone 2 { ok := 9, bad := 0, detail := 0 }) (held (some (run 5))) = (true, 2, false) := by decide +kernel
theorem test_self_test_done : let t := after (.testDone 2 { ok := 0, bad := 1, detail := 0 }) (held (some (run 0x10)))
    (held.millAt 2 3, held.races[2].spareUse, t.races[2].retired, t.races[2].toMap) = (some 3, false, true, [3]) := by decide +kernel
theorem test_march_done : let a := { run 0x11 with race := 0, start := 0x1000, length := 1 }
    let s := (State.writeTa 0 2 0x2000 [8] (State.writeTa 0 2 0x1004 [7] { held with mgmt := { held.mgmt with tests := [(0, a)] } }).1).1
    (marchSpan 0 0x1000 1).isSome = true ∧ s.mem.length = 2 ∧
      (after (.testDone 0 { ok := 1, bad := 0, detail := 0 }) s).mem.map (fun c => c.2) = [8] := by decide +kernel
theorem test_phy_retrain_done : (after (.testDone 2 { ok := 0, bad := 1, detail := 0 }) (held (some (run 0x12)))).races[2].mem.lost 3 = true := by
  decide +kernel

-- ## Debug

/-- Race 2 engaged by session 1, a mill of it halted. -/
def engaged (m : Mill := { halted := true }) : State := { (oper quietState).modMill { race := 2, mill := 1 } (fun _ => m) with
  mgmt := { oper.mgmt with engaged := 4 } }
def m21 : MillName := { race := 2, mill := 1 }
theorem test_debug_engage : msgs (.debugEngage rq 2) = [(0x80, 0), (0x30, 0)] ∧ base.owner 2 = some 0 ∧ (after (.debugEngage rq 2) oper).tenants[0].debugRaces = 4 ∧
    (after (.debugEngage rq 2) oper).tenants[0].jnl.events.map (fun e => e.cls) = [0x20] ∧ (oper quietState).owner 2 = none := by decide +kernel
theorem test_debug_end : msgs (.debugEnd rq 2) = [(0x31, 5)] ∧ engaged.engaged 2 = true ∧ (after (.debugEnd rq 2) engaged).mgmt.engaged = 0 ∧
    ((after (.debugEnd rq 2) engaged).mill m21).halted = false := by decide +kernel
theorem test_debug_halt : msgs (.debugHalt rq m21) = [(0x32, 5)] ∧ engaged.millTested m21 = false ∧ msgs (.debugHalt rq m21) (engaged {}) = [(0x32, 0)] ∧
    ((after (.debugHalt rq m21) (engaged {})).mill m21).halted = true := by decide +kernel
-- SLI S5, 0x7FFF in the control slot, after the debug halt
theorem test_debug_step : msgs (.debugStep rq m21) (engaged {}) = [(0x33, 5)] ∧
    let f := List.replicate 0x14 0 ++ bytesLE 4 0x18 ++ List.replicate 13 0 ++ bytesLE 3 0x32FFFF
    let s := engaged { halted := true, item := some 7, image := some f, pc := 0 }
    let t := after (.debugStep rq m21) { s with tick := { s.tick with items := [{ item7 with mills := [m21] }] } }
    (slotCtl (imgBundle f 0), (t.mill m21).s[5], (t.mill m21).pc, (t.mill m21).halted) = (0x32FFFF, 0x7FFF#32, 1, true) := by decide +kernel
theorem test_debug_resume : msgs (.debugResume rq m21) (engaged {}) = [(0x34, 5)] ∧ msgs (.debugResume rq m21) engaged = [(0x34, 0)] ∧
    ((after (.debugResume rq m21) engaged).mill m21).halted = false := by decide +kernel
/-- What a debug read answers: status and bytes. -/
def peek (k : Byte) (off : W48) (len : W16) (s : State := engaged) : List (Byte × List Byte) :=
  (after (.debugRead rq 2 k 1 off len) s).mgmt.out.map (fun m => (m.status, m.body))
theorem test_debug_read : peek 0 0 4 oper = [(5, [])] ∧ peek 0 0 3 = [(4, [])] ∧ peek 0 0x1FFFFC 4 = [(0, [0, 0, 0, 0])] ∧ peek 4 2 4 = [(4, [])] ∧
    peek 5 0 4 = [(4, [])] ∧ peek 2 0xFFFFFFFFFFFF 4 = [(6, [])] ∧ engaged.debugSealed 2 = false := by decide +kernel
-- RACE_CHK of the race at offset 0x300: both checks enabled, the tolerance 2^-14
theorem test_debug_read_register : peek 4 0x300 4 = [(0, [59, 0, 0, 0])] := by decide +kernel

-- ## Registers

theorem test_latched_read : let s := { base with tick := { base.tick with count := 0x123456789 } }
    (after (.latchedRead 0x2014) s).tick.latch = 1 ∧ (after (.latchedRead 0x2014) s).regValue 0x2018 = 1 ∧ s.regValue 0x2014 = 0x23456789 ∧
      exec (.latchedRead 0x2018) s = .next s := ⟨by decide +kernel, by decide +kernel, by decide +kernel, rfl⟩
/-- Writes one register after another. -/
def wr (l : List (BitVec 24 × W32)) (s : State) : State := l.foldl (fun s p => outState (execRegisterWrite p.1 p.2 s) s) s
/-- Tenant 3 as chapter 19's example has it: Configured, with race 2 and nothing more set. -/
def config3 : State := { quietState with tenants := State.reset.tenants.set 3 { races := 4, state := .configured } }
-- chapter 19's example: enabling before the page's entry names the ring is refused, and accepted after it
theorem test_chapter19_refused : let t := wr [(0xD02428, 0x2607), (0x4498, 0x57), (0xD02428, 0x2627), (0xD02058, 0x0025004A), (0xD02058, 0x0025024A)] config3
    (t.start.errSet, t.start.errAddr, t.tick.planErr) = (true, 0xD02058, true) := by decide +kernel
theorem test_chapter19_accepted :
    let t := wr [(0xD02428, 0x2607), (0x4498, 0x57), (0xD02428, 0x2627), (0xD02058, 0x0025004A), (0x4494, 0xA7), (0xD02058, 0x0025024A)] config3
    (t.start.errSet, t.tick.planErr, t.regValue 0xD02058 / 512 % 2) = (false, false, 1) := by decide +kernel
theorem test_write_before_ready : let s := { quietState with start := { quietState.start with ready := false } }
    exec (.registerWrite 0x2004 0) s = .next s ∧ exec (.registerWrite 0x11 0) base = .next base ∧ exec (.registerWrite 0x900000 0) base = .next base :=
  ⟨rfl, rfl, rfl⟩
theorem test_scratch : (after (.registerWrite 0x10 5) base).regValue 0x10 = 5 := by decide +kernel
-- 16 us at 1,000 MHz, and a period of 24 us/16 below the range
theorem test_period : let t := wr [(0x2004, 0x03E80190)] { config3 with tick := { config3.tick with running := false, run := false } }
    (t.tick.period.toNat, t.tick.priceMhz.toNat) = (400, 1000) ∧
    (wr [(0x2004, 0x03E80018)] { config3 with tick := { config3.tick with running := false, run := false } }).tick.paramErr = true ∧
    (wr [(0x2004, 0x03E80190)] base).start.errAddr = 0x2004 := by decide +kernel
theorem test_slot_entries : (wr [(0x2104, 0xFFFFFFF3)] quietState).tick.slots[0][8] = 3 ∧ (wr [(0x2104, 0xFFFFFFF0)] base).tick.planErr = true := by decide +kernel
theorem test_tenant_races : (wr [(0x1060, 0x104)] quietState).tenants[3].state = .configured ∧ (wr [(0x1000, 0x1FF)] base).tick.planErr = true := by decide +kernel
theorem test_tolerance : (wr [(0xD00300, 0x5D)] quietState).races[2].tolExp = 23 ∧ (wr [(0xD00300, 0x1D)] quietState).start.errSet = true ∧
    (wr [(0xD00300, 0x5D)] base).start.errSet = true := by decide +kernel
theorem test_warm_key : (wr [(0xA004, 0x57525354)] base).tick.warmReq = true ∧ (wr [(0xA004, 1)] base).tick.warmReq = false := by decide +kernel
theorem test_argument_of_busy_test : (wr [(0xC104, 1)] (held (some (run 2)))).start.errAddr = 0xC104 ∧ (wr [(0xC104, 1)] held).mgmt.args[0] = 1 := by decide +kernel

-- ## Worked examples and reset

theorem test_reset_registers : [0xC, 0x2004, 0x600C, 0xA100, 0xC00300, 0x2010].map State.reset.regValue =
    [8 + 24 * 16 + 25 * 512 + 18 * 2 ^ 14 + 8 * 2 ^ 19 + 4 * 2 ^ 23, 0x04E203E8, 0xC000D2A5, 290229, 59, 0] ∧ memWf State.reset.mem = true := by decide +kernel

end Sys2Proof.Tests
end

section
/-! PROOFS. R120's order of the fp32 words: every word has a place, an integer, and the larger of two words has the larger
of their places. VRMAX over a row then is a maximum of places. -/

namespace Sys2Proof.Machine

/-- The magnitude of an fp32 code below its sign bit, in units of the smallest subnormal 2^−149. -/
def f32Units (c : Nat) : Nat := if c < 2 ^ 23 then c else (2 ^ 23 + c % 2 ^ 23) * 2 ^ (c / 2 ^ 23 - 1)

/-- A larger code has a larger magnitude. -/
theorem f32Units_strictMono : StrictMono f32Units := by
  refine strictMono_nat_of_lt_succ fun c => ?_
  unfold f32Units
  by_cases hsub : c < 2 ^ 23
  · rw [if_pos hsub]
    by_cases htop : c + 1 < 2 ^ 23
    · rw [if_pos htop]; omega
    · have hc : c = 2 ^ 23 - 1 := by omega
      subst hc; decide
  · rw [if_neg hsub, if_neg (by omega)]
    by_cases hcarry : c % 2 ^ 23 = 2 ^ 23 - 1
    · have hq : (c + 1) / 2 ^ 23 - 1 = (c / 2 ^ 23 - 1) + 1 := by omega
      have hr : (c + 1) % 2 ^ 23 = 0 := by omega
      have hpos : 0 < 2 ^ (c / 2 ^ 23 - 1) := by positivity
      calc (2 ^ 23 + c % 2 ^ 23) * 2 ^ (c / 2 ^ 23 - 1)
          < 2 ^ 24 * 2 ^ (c / 2 ^ 23 - 1) := Nat.mul_lt_mul_of_pos_right (by omega) hpos
        _ = (2 ^ 23 + (c + 1) % 2 ^ 23) * 2 ^ ((c + 1) / 2 ^ 23 - 1) := by rw [hq, hr]; ring
    · have hq : (c + 1) / 2 ^ 23 = c / 2 ^ 23 := by omega
      rw [hq]
      exact Nat.mul_lt_mul_of_pos_right (by omega) (by positivity)

theorem f32Units_eq_zero (c : Nat) : f32Units c = 0 ↔ c = 0 :=
  f32Units_strictMono.injective.eq_iff' rfl

/-- The sign of an fp32 word. -/
def f32Neg (w : W32) : Bool := bitOf w.toNat 31

/-- An fp32 word's code without its sign bit. -/
def f32Mag (w : W32) : Nat := w.toNat % 2 ^ 31

/-- An fp32 word is its sign and its magnitude code. -/
theorem f32_toNat (w : W32) : w.toNat = (f32Neg w).toNat * 2 ^ 31 + f32Mag w := by
  have hw := w.isLt
  have hbit : (f32Neg w).toNat = w.toNat / 2 ^ 31 % 2 := Nat.toNat_testBit _ _
  unfold f32Mag
  omega

/-- The value of an fp32 word by the fields of its magnitude code (Table 3-8). -/
theorem ofF32_eq (w : W32) : ofF32 w =
    if f32Mag w / 2 ^ 23 = 255 then (if f32Mag w % 2 ^ 23 = 0 then .inf (f32Neg w) else .nan)
    else if f32Mag w / 2 ^ 23 = 0 then .fin (f32Neg w) (f32Mag w % 2 ^ 23) (-149)
    else .fin (f32Neg w) (2 ^ 23 + f32Mag w % 2 ^ 23) ((f32Mag w / 2 ^ 23 : Nat) - 150) := by
  have he : fld w.toNat 23 8 = f32Mag w / 2 ^ 23 := by
    unfold fld f32Mag; rw [Nat.shiftRight_eq_div_pow]; omega
  have hm : fld w.toNat 0 23 = f32Mag w % 2 ^ 23 := by
    unfold fld f32Mag; rw [Nat.shiftRight_eq_div_pow]; omega
  generalize f32Mag w / 2 ^ 23 = e at he
  have hx : (e : Int) - 127 - 23 = e - 150 := by omega
  simp [ofF32, FpSpec.decode, specFp32, he, hm, hx, f32Neg]

/-- An fp32 word is a NaN, an infinity or a finite value, by its magnitude code; a finite value is that code's number of
units (Table 3-8). -/
theorem ofF32_cases (w : W32) :
    (ofF32 w = .nan ∧ 0x7F800000 < f32Mag w) ∨
    (ofF32 w = .inf (f32Neg w) ∧ f32Mag w = 0x7F800000) ∨
    (∃ m k : Nat, ofF32 w = .fin (f32Neg w) m (-149 + k) ∧ m * 2 ^ k = f32Units (f32Mag w) ∧ f32Mag w < 0x7F800000) := by
  have hmag : f32Mag w < 2 ^ 31 := Nat.mod_lt _ (by decide)
  rw [ofF32_eq]
  by_cases htop : f32Mag w / 2 ^ 23 = 255
  · rw [if_pos htop]
    by_cases hzero : f32Mag w % 2 ^ 23 = 0
    · rw [if_pos hzero]; exact .inr (.inl ⟨rfl, by omega⟩)
    · rw [if_neg hzero]; exact .inl ⟨rfl, by omega⟩
  · rw [if_neg htop]
    right; right
    by_cases hsub : f32Mag w / 2 ^ 23 = 0
    · rw [if_pos hsub]
      refine ⟨f32Mag w % 2 ^ 23, 0, rfl, ?_, by omega⟩
      unfold f32Units; rw [if_pos (by omega)]; omega
    · rw [if_neg hsub]
      refine ⟨2 ^ 23 + f32Mag w % 2 ^ 23, f32Mag w / 2 ^ 23 - 1, ?_, ?_, by omega⟩
      · congr 1; omega
      · unfold f32Units; rw [if_neg (by omega)]

/-- Finite values compare as whole numbers of a unit 2^`p` that divides both; zeros by their signs (R120). -/
theorem fpLt_fin (n n' : Bool) (m m' k k' : Nat) (p : Int) :
    fpLt (.fin n m (p + k)) (.fin n' m' (p + k')) = true ↔
      (sgn n (m * 2 ^ k) = sgn n' (m' * 2 ^ k') ∧ m = 0 ∧ n = true ∧ n' = false) ∨
        sgn n (m * 2 ^ k) < sgn n' (m' * 2 ^ k') := by
  have hscale (b : Bool) (a i : Nat) (hi : min k k' ≤ i) : sgn b (a * 2 ^ i) =
      sgn b a * 2 ^ (p + i - min (p + k) (p + k')).toNat * 2 ^ min k k' := by
    rw [mul_assoc, ← pow_add, show (p + i - min (p + k) (p + k')).toNat + min k k' = i by omega]
    cases b <;> simp [sgn]
  have hpos : (0 : Int) < 2 ^ min k k' := by positivity
  rw [hscale n m k (Nat.min_le_left _ _), hscale n' m' k' (Nat.min_le_right _ _)]
  simp only [fpLt, mul_left_inj' hpos.ne', mul_lt_mul_iff_left₀ hpos]
  generalize sgn n m * 2 ^ (p + k - min (p + k) (p + k')).toNat = x
  generalize sgn n' m' * 2 ^ (p + k' - min (p + k) (p + k')).toNat = y
  by_cases heq : x = y <;> simp [heq, and_assoc]

@[simp] theorem fpLt_inf_inf (n n' : Bool) : fpLt (.inf n) (.inf n') = (n && !n') := by
  cases n <;> cases n' <;> rfl

@[simp] theorem fpLt_inf_fin (n n' : Bool) (m : Nat) (e : Int) : fpLt (.inf n) (.fin n' m e) = n := by
  cases n <;> rfl

@[simp] theorem fpLt_fin_inf (n n' : Bool) (m : Nat) (e : Int) : fpLt (.fin n m e) (.inf n') = !n' := by
  cases n' <;> rfl

/-- The place of a sign and a magnitude code in R120's order, −0 just below +0. -/
def f32Place (neg : Bool) (mag : Nat) : Int := if neg then -1 - mag else mag

@[simp] theorem f32Place_true (c : Nat) : f32Place true c = -1 - c := rfl
@[simp] theorem f32Place_false (c : Nat) : f32Place false c = c := rfl

/-- R120's comparison of finite values, read off their signs and magnitude codes. -/
theorem sgn_f32Units_lt_iff (n n' : Bool) (c c' : Nat) :
    (sgn n (f32Units c) = sgn n' (f32Units c') ∧ c = 0 ∧ n = true ∧ n' = false) ∨
      sgn n (f32Units c) < sgn n' (f32Units c') ↔ f32Place n c < f32Place n' c' := by
  have hlt := f32Units_strictMono.lt_iff_lt (a := c) (b := c')
  have hgt := f32Units_strictMono.lt_iff_lt (a := c') (b := c)
  have hz := f32Units_eq_zero c
  have hz' := f32Units_eq_zero c'
  cases n <;> cases n' <;> simp [sgn] <;> omega

/-- The place of an fp32 word in R120's order: from −infinity up to +infinity, and every NaN above all else. -/
def f32Rank (w : W32) : Int := if ofF32 w = .nan then 2 ^ 31 else f32Place (f32Neg w) (f32Mag w)

theorem f32Rank_of_nan {w : W32} (h : ofF32 w = .nan) : f32Rank w = 2 ^ 31 := if_pos h

theorem f32Rank_of_ne_nan {w : W32} (h : ofF32 w ≠ .nan) : f32Rank w = f32Place (f32Neg w) (f32Mag w) := if_neg h

/-- Every word that is no NaN lies between the infinities. -/
theorem f32Rank_bounds {w : W32} (h : ofF32 w ≠ .nan) : -1 - 0x7F800000 ≤ f32Rank w ∧ f32Rank w ≤ 0x7F800000 := by
  have hmag : f32Mag w ≤ 0x7F800000 := by
    rcases ofF32_cases w with ⟨e, -⟩ | ⟨-, e⟩ | ⟨m, k, -, -, e⟩
    · exact absurd e h
    · omega
    · omega
  rw [f32Rank_of_ne_nan h]
  cases f32Neg w <;> simp <;> omega

/-- Words that are no NaN have the same place only if they are the same word. -/
theorem f32Rank_inj {a b : W32} (ha : ofF32 a ≠ .nan) (hb : ofF32 b ≠ .nan) (h : f32Rank a = f32Rank b) : a = b := by
  rw [f32Rank_of_ne_nan ha, f32Rank_of_ne_nan hb] at h
  apply BitVec.eq_of_toNat_eq
  rw [f32_toNat a, f32_toNat b]
  cases hna : f32Neg a <;> cases hnb : f32Neg b <;> simp [hna, hnb] at h ⊢ <;> omega

/-- R120's comparison of words that are no NaN is the comparison of their places. -/
theorem fpLt_ofF32 {a b : W32} (ha : ofF32 a ≠ .nan) (hb : ofF32 b ≠ .nan) :
    fpLt (ofF32 a) (ofF32 b) = true ↔ f32Rank a < f32Rank b := by
  rw [f32Rank_of_ne_nan ha, f32Rank_of_ne_nan hb]
  rcases ofF32_cases a with ⟨e, -⟩ | ⟨ea, ma⟩ | ⟨m, k, ea, ua, ma⟩
  · exact absurd e ha
  · rcases ofF32_cases b with ⟨e, -⟩ | ⟨eb, mb⟩ | ⟨m', k', eb, ub, mb⟩
    · exact absurd e hb
    · rw [ea, eb]
      cases f32Neg a <;> cases f32Neg b <;> simp <;> omega
    · rw [ea, eb]
      cases f32Neg a <;> cases f32Neg b <;> simp <;> omega
  · rcases ofF32_cases b with ⟨e, -⟩ | ⟨eb, mb⟩ | ⟨m', k', eb, ub, mb⟩
    · exact absurd e hb
    · rw [ea, eb]
      cases f32Neg a <;> cases f32Neg b <;> simp <;> omega
    · have hm : m = 0 ↔ f32Mag a = 0 := by rw [← f32Units_eq_zero (f32Mag a), ← ua]; simp
      rw [ea, eb, fpLt_fin, ua, ub, hm, sgn_f32Units_lt_iff]

-- ## The larger of two words

theorem f32Max_nan_left {a : W32} (b : W32) (h : ofF32 a = .nan) : f32Max a b = 0x7FC00000#32 := by
  simp only [f32Max, h]

theorem f32Max_nan_right (a : W32) {b : W32} (h : ofF32 b = .nan) : f32Max a b = 0x7FC00000#32 := by
  unfold f32Max
  split <;> simp_all

theorem f32Max_of_ne_nan {a b : W32} (ha : ofF32 a ≠ .nan) (hb : ofF32 b ≠ .nan) :
    f32Max a b = if f32Rank a < f32Rank b then b else a := by
  unfold f32Max
  split
  · exact absurd ‹_› ha
  · exact absurd ‹_› hb
  · simp only [fpLt_ofF32 ha hb]

/-- A word that is no NaN, or the canonical one. -/
def f32Canonical (w : W32) : Prop := ofF32 w = .nan → w = 0x7FC00000#32

theorem ofF32_canonicalNan : ofF32 0x7FC00000#32 = .nan := by decide

/-- Canonical words are told apart by their places. -/
theorem f32Canonical.ext {a b : W32} (ha : f32Canonical a) (hb : f32Canonical b) (h : f32Rank a = f32Rank b) : a = b := by
  by_cases na : ofF32 a = .nan
  · by_cases nb : ofF32 b = .nan
    · rw [ha na, hb nb]
    · have := (f32Rank_bounds nb).2
      rw [f32Rank_of_nan na] at h; omega
  · by_cases nb : ofF32 b = .nan
    · have := (f32Rank_bounds na).2
      rw [f32Rank_of_nan nb] at h; omega
    · exact f32Rank_inj na nb h

theorem f32Max_canonical (a b : W32) : f32Canonical (f32Max a b) := by
  intro h
  by_cases na : ofF32 a = .nan
  · exact f32Max_nan_left b na
  · by_cases nb : ofF32 b = .nan
    · exact f32Max_nan_right a nb
    · rw [f32Max_of_ne_nan na nb] at h
      split at h
      · exact absurd h nb
      · exact absurd h na

/-- The larger of two words has the larger of their places. -/
theorem f32Rank_f32Max (a b : W32) : f32Rank (f32Max a b) = max (f32Rank a) (f32Rank b) := by
  by_cases na : ofF32 a = .nan
  · rw [f32Max_nan_left b na, f32Rank_of_nan ofF32_canonicalNan, f32Rank_of_nan na]
    by_cases nb : ofF32 b = .nan
    · rw [f32Rank_of_nan nb, max_self]
    · have := (f32Rank_bounds nb).2; omega
  · by_cases nb : ofF32 b = .nan
    · have := (f32Rank_bounds na).2
      rw [f32Max_nan_right a nb, f32Rank_of_nan ofF32_canonicalNan, f32Rank_of_nan nb]; omega
    · rw [f32Max_of_ne_nan na nb]
      split <;> omega

theorem f32Max_comm (a b : W32) : f32Max a b = f32Max b a := by
  refine (f32Max_canonical a b).ext (f32Max_canonical b a) ?_
  simp only [f32Rank_f32Max, max_comm]

theorem f32Max_assoc (a b c : W32) : f32Max (f32Max a b) c = f32Max a (f32Max b c) := by
  refine (f32Max_canonical _ c).ext (f32Max_canonical a _) ?_
  simp only [f32Rank_f32Max, max_assoc]

/-- The rule's start, −infinity, adds nothing to a running value. -/
theorem f32Max_negInf {a : W32} (h : f32Canonical a) : f32Max a 0xFF800000#32 = a := by
  refine (f32Max_canonical a _).ext h ?_
  have hlow : f32Rank 0xFF800000#32 = -1 - 0x7F800000 := by decide
  rw [f32Rank_f32Max, hlow]
  by_cases na : ofF32 a = .nan
  · rw [f32Rank_of_nan na]; omega
  · have := (f32Rank_bounds na).1; omega

/-- The larger of two words that are no NaN is one of them, and neither is above it. -/
theorem f32Max_spec {a b : W32} (ha : ofF32 a ≠ .nan) (hb : ofF32 b ≠ .nan) : (f32Max a b = a ∨ f32Max a b = b) ∧
    fpLt (ofF32 (f32Max a b)) (ofF32 a) = false ∧ fpLt (ofF32 (f32Max a b)) (ofF32 b) = false := by
  have hor : f32Max a b = a ∨ f32Max a b = b := by
    rw [f32Max_of_ne_nan ha hb]
    split
    · exact .inr rfl
    · exact .inl rfl
  have hmax : ofF32 (f32Max a b) ≠ .nan := by rcases hor with e | e <;> rwa [e]
  have hrank := f32Rank_f32Max a b
  refine ⟨hor, ?_, ?_⟩
  · rw [Bool.eq_false_iff, Ne, fpLt_ofF32 hmax ha]; omega
  · rw [Bool.eq_false_iff, Ne, fpLt_ofF32 hmax hb]; omega

-- ## The largest element of a row

theorem vrmaxRow_eq_foldl (acc : W32) (xs : List W32) : vrmaxRow acc xs = xs.foldl f32Max acc := by
  induction xs generalizing acc with
  | nil => rfl
  | cons x xs ih => exact ih (f32Max acc x)

theorem vrmaxRow_append (acc : W32) (xs ys : List W32) : vrmaxRow acc (xs ++ ys) = vrmaxRow (vrmaxRow acc xs) ys := by
  simp only [vrmaxRow_eq_foldl, List.foldl_append]

theorem vrmaxRow_perm (acc : W32) {xs ys : List W32} (h : xs.Perm ys) : vrmaxRow acc xs = vrmaxRow acc ys := by
  have hcomm : RightCommutative f32Max := ⟨fun a b c => by rw [f32Max_assoc, f32Max_comm b c, f32Max_assoc]⟩
  simp only [vrmaxRow_eq_foldl]
  exact h.foldl_eq acc

theorem vrmaxRow_canonical {acc : W32} (h : f32Canonical acc) (xs : List W32) : f32Canonical (vrmaxRow acc xs) := by
  induction xs generalizing acc with
  | nil => exact h
  | cons x xs ih => exact ih (f32Max_canonical acc x)

/-- A NaN in the running value stays. -/
theorem vrmaxRow_canonicalNan (xs : List W32) : vrmaxRow 0x7FC00000#32 xs = 0x7FC00000#32 := by
  induction xs with
  | nil => rfl
  | cons x xs ih => rw [vrmaxRow, f32Max_nan_left x ofF32_canonicalNan, ih]

theorem vrmaxRow_of_nan (acc : W32) (xs : List W32) (h : ofF32 acc = .nan ∧ xs ≠ [] ∨ ∃ x ∈ xs, ofF32 x = .nan) :
    vrmaxRow acc xs = 0x7FC00000#32 := by
  induction xs generalizing acc with
  | nil => simp at h
  | cons x xs ih =>
    by_cases hx : ofF32 acc = .nan ∨ ofF32 x = .nan
    · have hstep : f32Max acc x = 0x7FC00000#32 := hx.elim (f32Max_nan_left x) (f32Max_nan_right acc)
      rw [vrmaxRow, hstep, vrmaxRow_canonicalNan]
    · refine ih (f32Max acc x) (.inr ?_)
      simpa [not_or.1 hx] using h

/-- A running value and the largest element of a part of their own give what the running value gives over the part. -/
theorem f32Max_vrmaxRow {acc : W32} (h : f32Canonical acc) (xs : List W32) :
    f32Max acc (vrmaxRow 0xFF800000#32 xs) = vrmaxRow acc xs := by
  have hassoc : Std.Associative f32Max := ⟨f32Max_assoc⟩
  rw [vrmaxRow_eq_foldl, vrmaxRow_eq_foldl, ← List.foldl_assoc (op := f32Max), f32Max_negInf h]

/-- The parts of a row, each reduced on its own, give what the row gives. -/
theorem vrmaxRow_flatten {acc : W32} (h : f32Canonical acc) (parts : List (List W32)) :
    vrmaxRow acc parts.flatten = vrmaxRow acc (parts.map (vrmaxRow 0xFF800000#32)) := by
  induction parts generalizing acc with
  | nil => rfl
  | cons p parts ih =>
    rw [List.flatten_cons, vrmaxRow_append, List.map_cons, vrmaxRow, f32Max_vrmaxRow h, ih (vrmaxRow_canonical h p)]

/-- Settles O7: each word has a place in R120's order, and the place of the larger of two words is the larger place. -/
theorem vrmaxAnyOrder : Obligations.VrmaxAnyOrder := by
  unfold Obligations.VrmaxAnyOrder
  refine ⟨fun s m id d a mods hi hc h5 ha hd => ?_, fun a b => f32Max_spec, by decide, by decide, vrmaxRow_of_nan,
    fun acc xs ys => vrmaxRow_perm acc, vrmaxRow_append, vrmaxRow_flatten fun h => ?_⟩
  · exact spadOp_effect s m d id _ hi _ _ rfl
      (reduceOp_ok _ _ mods.acc [0xFF800000#32] _ s.mem (s.spad m 0) (fun _ _ => rfl) hc h5 ha hd)
  · exact absurd h (by decide)

end Sys2Proof.Machine
end

section
/-! PROOFS. Ring words (R96, R126): a word-wise operation as the list of its words, and sums of byte lists in any order
and any division. -/

namespace Sys2Proof.Machine

-- ## Little-endian numbers

theorem natLE_bytesLE (n v : Nat) : natLE (bytesLE n v) = v % 2 ^ (8 * n) := by
  induction n generalizing v with
  | zero => simp [bytesLE, natLE, Nat.mod_one]
  | succ n ih =>
    rw [bytesLE, natLE, ih, show 2 ^ (8 * (n + 1)) = 256 * 2 ^ (8 * n) by rw [Nat.mul_succ, Nat.pow_add]; ring, Nat.mod_mul,
      BitVec.toNat_ofNat]

theorem bytesLE_natLE (bs : List Byte) : bytesLE bs.length (natLE bs) = bs := by
  induction bs with
  | nil => rfl
  | cons b bs ih =>
    have hb := b.isLt
    rw [List.length_cons, bytesLE, natLE, show (b.toNat + 256 * natLE bs) / 256 = natLE bs by omega, ih]
    congr 1
    exact BitVec.eq_of_toNat_eq (by rw [BitVec.toNat_ofNat]; omega)

theorem natLE_lt (bs : List Byte) : natLE bs < 2 ^ (8 * bs.length) := by
  rw [← bytesLE_natLE bs, natLE_bytesLE, bytesLE_length]
  exact Nat.mod_lt _ (by positivity)

theorem natLE_replicate_zero (n : Nat) : natLE (List.replicate n 0) = 0 := by
  induction n with
  | zero => rfl
  | succ n ih => rw [List.replicate_succ, natLE, ih]; rfl

-- ## The pieces of a list

theorem chunksAux_getD {α : Type} (n : Nat) (hn : 0 < n) (fuel : Nat) (xs : List α) (hf : xs.length ≤ fuel) (k : Nat) :
    (chunksAux n fuel xs).getD k [] = (xs.drop (n * k)).take n := by
  induction fuel generalizing xs k with
  | zero =>
    obtain rfl : xs = [] := List.length_eq_zero_iff.1 (by omega)
    simp [chunksAux]
  | succ fuel ih =>
    cases xs with
    | nil => simp [chunksAux]
    | cons x xs =>
      cases k with
      | zero => simp [chunksAux]
      | succ k =>
        have hlen : ((x :: xs).drop n).length ≤ fuel := by simp at hf ⊢; omega
        rw [chunksAux, List.getD_cons_succ, ih _ hlen k, List.drop_drop, Nat.mul_succ, Nat.add_comm]
        simp

theorem chunks_getD {α : Type} (n : Nat) (hn : 0 < n) (xs : List α) (k : Nat) :
    (chunks n xs).getD k [] = (xs.drop (n * k)).take n :=
  chunksAux_getD n hn xs.length xs (Nat.le_refl _) k

/-- A list with positions, mapped, is its range of positions mapped. -/
theorem indexed_map {α β : Type} (xs : List α) (f : Nat × α → β) (d : α) :
    (indexed xs).map f = (List.range xs.length).map (fun k => f (k, xs.getD k d)) := by
  apply List.ext_getElem
  · simp [indexed]
  · intro i h _
    have hi : i < xs.length := by simpa [indexed] using h
    simp [indexed, hi]

/-- Piece `k` of equal pieces laid end to end. -/
theorem flatten_piece {α : Type} (n : Nat) (ls : List (List α)) (h : ∀ l ∈ ls, l.length = n) (k : Nat) :
    (ls.flatten.drop (n * k)).take n = ls.getD k [] := by
  induction ls generalizing k with
  | nil => simp
  | cons l ls ih =>
    have hl : l.length = n := h l (by simp)
    cases k with
    | zero => simp [← hl]
    | succ k => simpa [Nat.mul_succ, Nat.add_comm, ← List.drop_drop, ← hl] using ih (fun x hx => h x (by simp [hx])) k

-- ## Ring words

/-- The bytes of a ring word. -/
def ringBytes (w : Bool) : Nat := if w then 8 else 4

theorem ringBytes_pos (w : Bool) : 0 < ringBytes w := by cases w <;> decide

/-- Ring word `k` of a byte list. -/
def ringWord (n : Nat) (a : List Byte) (k : Nat) : Nat := natLE ((a.drop (n * k)).take n)

theorem ringWord_lt (n : Nat) (a : List Byte) (k : Nat) : ringWord n a k < 2 ^ (8 * n) :=
  Nat.lt_of_lt_of_le (natLE_lt _) (Nat.pow_le_pow_right (by decide) (Nat.mul_le_mul_left 8 (List.length_take_le ..)))

theorem ringWord_replicate_zero (n len k : Nat) : ringWord n (List.replicate len 0) k = 0 := by
  rw [ringWord, List.drop_replicate, List.take_replicate, natLE_replicate_zero]

/-- The bytes of a whole ring word. -/
theorem bytesLE_ringWord (n : Nat) (a : List Byte) (k : Nat) (h : n * (k + 1) ≤ a.length) :
    bytesLE n (ringWord n a k) = (a.drop (n * k)).take n := by
  have hlen : ((a.drop (n * k)).take n).length = n := by
    rw [Nat.mul_succ] at h
    rw [List.length_take, List.length_drop]
    omega
  have hword := bytesLE_natLE ((a.drop (n * k)).take n)
  rwa [hlen] at hword

/-- A word-wise operation lays its words end to end. -/
theorem ringMap_eq (w : Bool) (f : Nat → Nat → Nat) (a b : List Byte) :
    ringMap w f a b = ((List.range (ceilDiv a.length (ringBytes w))).map (fun k =>
      bytesLE (ringBytes w) (f (ringWord (ringBytes w) a k) (ringWord (ringBytes w) b k) % 2 ^ (8 * ringBytes w)))).flatten := by
  rw [← chunks_length _ (ringBytes_pos w)]
  simp only [ringWord, ← chunks_getD _ (ringBytes_pos w)]
  rw [ringMap, indexed_map _ _ []]
  rfl

theorem ringMap_length (w : Bool) (f : Nat → Nat → Nat) (a b : List Byte) :
    (ringMap w f a b).length = ringBytes w * ceilDiv a.length (ringBytes w) := by
  rw [ringMap_eq]
  simp [List.length_flatten, Function.comp_def, bytesLE_length, Nat.mul_comm]

/-- Each word of a word-wise operation is the operation on the operands' words. -/
theorem ringWord_ringMap (w : Bool) (f : Nat → Nat → Nat) (a b : List Byte) {k : Nat}
    (hk : k < ceilDiv a.length (ringBytes w)) : ringWord (ringBytes w) (ringMap w f a b) k =
      f (ringWord (ringBytes w) a k) (ringWord (ringBytes w) b k) % 2 ^ (8 * ringBytes w) := by
  conv_lhs => rw [ringMap_eq, ringWord]
  rw [flatten_piece]
  · simp [hk, natLE_bytesLE]
  · simp only [List.mem_map, forall_exists_index, and_imp]
    rintro l j - rfl
    exact bytesLE_length _ _

/-- Word-wise operations that agree on every word give the same bytes. -/
theorem ringMap_congr (w : Bool) (f g : Nat → Nat → Nat) (a b c d : List Byte)
    (hn : ceilDiv a.length (ringBytes w) = ceilDiv c.length (ringBytes w))
    (h : ∀ k < ceilDiv a.length (ringBytes w),
      f (ringWord (ringBytes w) a k) (ringWord (ringBytes w) b k) % 2 ^ (8 * ringBytes w) =
        g (ringWord (ringBytes w) c k) (ringWord (ringBytes w) d k) % 2 ^ (8 * ringBytes w)) :
    ringMap w f a b = ringMap w g c d := by
  rw [ringMap_eq, ringMap_eq, ← hn]
  congr 1
  exact List.map_congr_left fun k hk => by rw [h k (List.mem_range.1 hk)]

theorem ceilDiv_mul_left (n c : Nat) (hn : 0 < n) : ceilDiv (n * c) n = c := by
  rw [ceilDiv, Nat.add_sub_assoc hn, Nat.mul_add_div hn, Nat.div_eq_of_lt (by omega), Nat.add_zero]

/-- The number of words of a result is that of its first operand. -/
theorem ringAdd_words (w : Bool) (a b : List Byte) :
    ceilDiv (ringAdd w a b).length (ringBytes w) = ceilDiv a.length (ringBytes w) := by
  rw [ringAdd, ringMap_length, ceilDiv_mul_left _ _ (ringBytes_pos w)]

theorem ringAdd_length (w : Bool) (a b : List Byte) (h : ringBytes w ∣ a.length) : (ringAdd w a b).length = a.length := by
  obtain ⟨c, hc⟩ := h
  rw [ringAdd, ringMap_length, hc, ceilDiv_mul_left _ _ (ringBytes_pos w)]

theorem ringWord_ringAdd (w : Bool) (a b : List Byte) {k : Nat} (hk : k < ceilDiv a.length (ringBytes w)) :
    ringWord (ringBytes w) (ringAdd w a b) k =
      (ringWord (ringBytes w) a k + ringWord (ringBytes w) b k) % 2 ^ (8 * ringBytes w) :=
  ringWord_ringMap w _ a b hk

theorem ringWord_ringSub (w : Bool) (a b : List Byte) {k : Nat} (hk : k < ceilDiv a.length (ringBytes w)) :
    ringWord (ringBytes w) (ringSub w a b) k =
      (ringWord (ringBytes w) a k + (2 ^ (8 * ringBytes w) - ringWord (ringBytes w) b k)) % 2 ^ (8 * ringBytes w) := by
  rw [ringSub, ringWord_ringMap w _ a b hk]
  cases w <;> rfl

/-- Adding zeros changes nothing. -/
theorem ringAdd_zero (w : Bool) (a : List Byte) (len : Nat) (h : ringBytes w ∣ a.length) :
    ringAdd w a (List.replicate len 0) = a := by
  obtain ⟨c, hc⟩ := h
  have hwords : ceilDiv a.length (ringBytes w) = c := by rw [hc, ceilDiv_mul_left _ _ (ringBytes_pos w)]
  have hlen := chunks_length _ (ringBytes_pos w) a
  rw [ringAdd, ringMap_eq]
  conv_rhs => rw [← chunks_flatten _ (ringBytes_pos w) a]
  congr 1
  refine List.ext_getElem (by simp [hlen]) fun k _ hk => ?_
  have hpiece : (chunks (ringBytes w) a)[k] = (a.drop (ringBytes w * k)).take (ringBytes w) := by
    rw [← chunks_getD _ (ringBytes_pos w), List.getD_eq_getElem _ _ hk]
  have hfull : ringBytes w * (k + 1) ≤ a.length := hc ▸ Nat.mul_le_mul_left _ (by omega)
  rw [List.getElem_map, List.getElem_range, ringWord_replicate_zero, Nat.add_zero, Nat.mod_eq_of_lt (ringWord_lt _ a k),
    bytesLE_ringWord _ a k hfull, hpiece]

/-- Addends change places. -/
theorem ringAdd_right_comm (w : Bool) (a b c : List Byte) :
    ringAdd w (ringAdd w a b) c = ringAdd w (ringAdd w a c) b := by
  refine ringMap_congr w _ _ _ _ _ _ (by rw [ringAdd_words, ringAdd_words]) fun k hk => ?_
  rw [ringAdd_words] at hk
  rw [ringWord_ringAdd w a b hk, ringWord_ringAdd w a c hk, Nat.mod_add_mod, Nat.mod_add_mod, Nat.add_right_comm]

theorem ringAdd_assoc (w : Bool) (a b c : List Byte) (h : a.length = b.length) :
    ringAdd w (ringAdd w a b) c = ringAdd w a (ringAdd w b c) := by
  refine ringMap_congr w _ _ _ _ _ _ (ringAdd_words w a b) fun k hk => ?_
  rw [ringAdd_words] at hk
  rw [ringWord_ringAdd w a b hk, ringWord_ringAdd w b c (by rwa [← h]), Nat.mod_add_mod, Nat.add_mod_mod, Nat.add_assoc]

-- ## Ring sums

/-- The sum of byte lists of `len` bytes each, word by word. -/
def ringSum (w : Bool) (len : Nat) (xs : List (List Byte)) : List Byte := xs.foldl (ringAdd w) (List.replicate len 0)

theorem foldl_ringAdd_length (w : Bool) (acc : List Byte) (xs : List (List Byte)) (h : ringBytes w ∣ acc.length) :
    (xs.foldl (ringAdd w) acc).length = acc.length := by
  induction xs generalizing acc with
  | nil => rfl
  | cons x xs ih =>
    have hx := ringAdd_length w acc x h
    rw [List.foldl_cons, ih _ (by rwa [hx]), hx]

theorem foldl_ringAdd_perm (w : Bool) (acc : List Byte) {xs ys : List (List Byte)} (h : xs.Perm ys) :
    xs.foldl (ringAdd w) acc = ys.foldl (ringAdd w) acc := by
  have hcomm : RightCommutative (ringAdd w) := ⟨ringAdd_right_comm w⟩
  exact h.foldl_eq acc

/-- A running sum and the sum of a part of their own give the running sum over the part. -/
theorem ringAdd_foldl (w : Bool) (acc z : List Byte) (xs : List (List Byte)) (h : ringBytes w ∣ acc.length)
    (hz : z.length = acc.length) : ringAdd w acc (xs.foldl (ringAdd w) z) = xs.foldl (ringAdd w) (ringAdd w acc z) := by
  induction xs generalizing z with
  | nil => rfl
  | cons x xs ih =>
    rw [List.foldl_cons, List.foldl_cons, ringAdd_assoc w acc z x hz.symm,
      ih (ringAdd w z x) (by rw [ringAdd_length w z x (by rwa [hz]), hz])]

/-- The parts of a sum, each summed on its own, give what the whole gives. -/
theorem foldl_ringAdd_flatten (w : Bool) (len : Nat) (acc : List Byte) (parts : List (List (List Byte)))
    (h : ringBytes w ∣ len) (hacc : acc.length = len) :
    (parts.map (ringSum w len)).foldl (ringAdd w) acc = parts.flatten.foldl (ringAdd w) acc := by
  induction parts generalizing acc with
  | nil => rfl
  | cons p parts ih =>
    have hdvd : ringBytes w ∣ acc.length := by rwa [hacc]
    have hpart : ringAdd w acc (ringSum w len p) = p.foldl (ringAdd w) acc := by
      rw [ringSum, ringAdd_foldl w acc _ p hdvd (by simp [hacc]), ringAdd_zero w acc len hdvd]
    rw [List.map_cons, List.foldl_cons, List.flatten_cons, List.foldl_append, hpart,
      ih _ (by rw [foldl_ringAdd_length w acc p hdvd, hacc])]

/-- The ring unit sets no flag. -/
theorem ringOp_flags (td : Tile) (srcs : List Tile) (f : List (List Byte) → List Byte) (m : List Host.Cell) (b : SpadBase)
    (mem : List Host.Cell) (fl : Flags) (h : ringOp td srcs f m b = .ok (mem, fl)) : fl = {} := by
  unfold ringOp at h
  split at h
  · cases h
  · split at h
    · cases h
    · cases h; rfl

/-- Settles O21: the words of a result are the operation on the operands' words, and two results with the same words are
the same bytes. -/
theorem ringSumsExact : Obligations.RingSumsExact := by
  unfold Obligations.RingSumsExact
  refine ⟨fun w a b k => ?_, ringOp_flags, fun w len xs ys parts => ?_⟩
  · intro _ _ _ _ hk
    have hk' : k < ceilDiv a.length (ringBytes w) :=
      Nat.lt_of_lt_of_le hk (Nat.div_le_div_right (by have := ringBytes_pos w; omega))
    refine ⟨ringWord_ringAdd w a b hk', ringWord_ringSub w a b hk', ?_⟩
    have hneg := ringWord_ringSub w (a.map (fun _ => 0)) a (k := k) (by rwa [List.length_map])
    rw [List.map_const', ringWord_replicate_zero, Nat.zero_add] at hneg
    rw [List.map_const']
    exact hneg
  · intro _ _ hperm hparts
    have hdvd : ringBytes w ∣ 8 * len := by
      cases w
      · exact ⟨2 * len, by simp [ringBytes]; omega⟩
      · exact ⟨len, rfl⟩
    refine ⟨(foldl_ringAdd_perm w _ hperm).symm, ?_⟩
    rw [hparts]
    exact foldl_ringAdd_flatten w (8 * len) _ parts hdvd (List.length_replicate ..)

end Sys2Proof.Machine
end

section
/-! PROOFS. Generation cells (R369): which cell a key descriptor claims, what the claim makes of the cell, and which loaded
keys the cells leave usable. -/

namespace Sys2Proof.Machine

open Sys2Proof.Safety

-- ## The copy of a cell in force (R358)

/-- Of a cell's two copies the valid one with the higher GEN, the first on a tie. -/
def cellInForce (a b : CellCopy) : CellCopy :=
  if a.valid && (!b.valid || decide (b.gen.toNat ≤ a.gen.toNat)) then a else if b.valid then b else { valid := false }

theorem Sec.cell_of_listed {c : Sec} {i : Nat} {a b : CellCopy} (h : sget? c.cells i = some (a, b)) :
    c.cell i = cellInForce a b := by
  unfold Sec.cell
  rw [h]
  rfl

theorem Sec.cell_of_unlisted {c : Sec} {i : Nat} (h : sget? c.cells i = none) : c.cell i = {} := by
  unfold Sec.cell
  rw [h]

theorem cellInForce_of_right_newer {a b : CellCopy} (hb : b.valid = true) (hgen : a.gen.toNat < b.gen.toNat) :
    cellInForce a b = b := by
  simp [cellInForce, hb, Nat.not_le.2 hgen]

theorem cellInForce_of_right_not_newer {a b : CellCopy} (ha : a.valid = true)
    (hb : b.valid = true → b.gen.toNat ≤ a.gen.toNat) : cellInForce a b = a := by
  cases hv : b.valid with
  | false => simp [cellInForce, ha, hv]
  | true => simp [cellInForce, ha, hv, hb hv]

theorem cellInForce_eq_right {a b : CellCopy} (h : a ≠ cellInForce a b) (hb : b.valid = true) : cellInForce a b = b := by
  unfold cellInForce at h ⊢
  split at h
  · exact absurd rfl h
  · rw [if_neg ‹_›, if_pos hb]

/-- R358: a write goes to the copy not in force with the next GEN, and so is in force after it. -/
theorem Sec.cell_writeCell (c : Sec) (i : Nat) (f : CellCopy → CellCopy) (hgen : (c.cell i).gen.toNat + 1 < 2 ^ 32) :
    (c.writeCell i f).cell i = { f (c.cell i) with gen := (c.cell i).gen + 1, valid := true } := by
  have hnext : ((c.cell i).gen + 1).toNat = (c.cell i).gen.toNat + 1 := by
    rw [BitVec.toNat_add]
    exact Nat.mod_eq_of_lt hgen
  rw [Sec.cell_of_listed (sget?_sset_self c.cells i _)]
  cases hs : sget? c.cells i with
  | none => exact cellInForce_of_right_newer rfl (by simp only [hnext]; omega)
  | some p =>
    obtain ⟨a, b⟩ := p
    have hnow := Sec.cell_of_listed hs
    by_cases ha : a = c.cell i
    · simp only [if_pos ha]
      exact cellInForce_of_right_newer rfl (by simp only [hnext, ha]; omega)
    · simp only [if_neg ha]
      refine cellInForce_of_right_not_newer rfl (fun hb => ?_)
      have hright : c.cell i = b := by rw [hnow] at ha ⊢; exact cellInForce_eq_right ha hb
      show b.gen.toNat ≤ ((c.cell i).gen + 1).toNat
      rw [hnext, hright]
      omega

-- ## The cell that a descriptor claims

/-- No item of the tick has claimed a cell. -/
def State.unclaimed (s : State) : Prop := ∀ j ∈ s.tick.items, ∀ k, Effect.cellClaim k ∉ j.effects

/-- The cell is usable and bears no tag. -/
def State.cellFree (s : State) (k : Fin 1024) : Prop := (s.sec.cell k.val).valid = true ∧ (s.sec.cell k.val).tag = 0

theorem State.freeCell_of_unclaimed {s : State} (h : s.unclaimed) (t : TenantId) : s.freeCell t =
    if s.tenants[t].cells.toNat ≤ s.cellsBearing (s.cellTag t) then none else
    (List.finRange 1024).find? (fun c => (s.sec.cell c.val).valid && (s.sec.cell c.val).tag = 0) := by
  unfold State.freeCell
  generalize hc : List.flatMap _ s.tick.items = claimed
  have hnil : claimed = [] := by
    rw [← hc, List.flatMap_eq_nil_iff]
    intro j hj
    rw [List.filterMap_eq_nil_iff]
    intro e he
    split
    · exact absurd he (h j hj _)
    · rfl
  simp [hnil]

theorem State.freeCell_eq_none {s : State} (h : s.unclaimed) (t : TenantId)
    (hno : s.tenants[t].cells.toNat ≤ s.cellsBearing (s.cellTag t) ∨ ∀ k, ¬ s.cellFree k) : s.freeCell t = none := by
  rw [State.freeCell_of_unclaimed h]
  split
  · rfl
  · next hquota =>
    rw [List.find?_eq_none]
    intro k _
    simpa [State.cellFree] using hno.resolve_left hquota k

theorem State.freeCell_eq_lowest {s : State} (h : s.unclaimed) (t : TenantId) {k : Fin 1024}
    (hquota : s.cellsBearing (s.cellTag t) < s.tenants[t].cells.toNat) (hk : s.cellFree k)
    (hlow : ∀ j, j < k → ¬ s.cellFree j) : s.freeCell t = some k := by
  rw [State.freeCell_of_unclaimed h, if_neg (Nat.not_le.2 hquota), List.find?_eq_some_iff_getElem]
  refine ⟨by simpa [State.cellFree] using hk, k.val, by simp, by simp, fun j hj => ?_⟩
  simpa [State.cellFree, imp_iff_not_or] using hlow ⟨j, by omega⟩ hj

theorem State.cellFor_of_freeCell {s : State} {i : Item} {k : Fin 1024} (h : bitOf (dF i.line 0x13 1) 0 = true)
    (hk : s.freeCell i.tenant = some k) : s.cellFor i = .ok (some k) := by
  simp [State.cellFor, h, hk]

theorem State.cellFor_of_no_freeCell {s : State} {i : Item} (h : bitOf (dF i.line 0x13 1) 0 = true)
    (hno : s.freeCell i.tenant = none) : s.cellFor i = .error 0x84 := by
  simp [State.cellFor, h, hno]

/-- The commit of a claim gives the cell the tenant's tag. -/
theorem State.applyEffect_cellClaim (s : State) (i : Item) (k : Fin 1024) : (s.applyEffect i (.cellClaim k)).1 =
    s.modSec (fun x => x.writeCell k.val (fun c => { c with tag := s.cellTag i.tenant })) := rfl

-- ## The items that make a key

/-- A key descriptor's item runs its work where nothing refuses key operations. -/
theorem State.keyWork_of {s : State} {id op : Nat} {i : Item} (hw : Works s id op i) (hg : s.keyGate = none)
    (f : Item → State → State) : s.keyWork id op f = f i s := by
  rw [State.keyWork, State.work_of s id op i _ hw, hg]

/-- The command makes a key for its item (KEY_GENERATE or KEY_DERIVE), and only a cell or a random value can still lack. -/
structure MakesKey (s : State) (id : Nat) (i : Item) (c : Instr) : Prop where
  gate : s.keyGate = none
  sound : s.rng.fatal = false
  root : s.rootGone i.tenant = false
  slot : s.slotFree i.tenant (dF i.line 0x10 2) = true
  works : c = .keyGenerate id ∧ Works s id 0x82 i ∨
    c = .keyDerive id ∧ Works s id 0x83 i ∧ ∃ p, s.slotKey i.tenant (dF i.line 0x16 2) 4 = .ok p ∧ p.full = false

theorem MakesKey.item {s : State} {id : Nat} {i : Item} {c : Instr} (h : MakesKey s id i c) :
    s.item? id = some i ∧ i.live = true := by
  rcases h.works with ⟨-, hi, hl, -⟩ | ⟨-, ⟨hi, hl, -⟩, -⟩ <;> exact ⟨hi, hl⟩

/-- Where no cell is to be had the item stops with that status. -/
theorem MakesKey.exec_of_no_cell {s : State} {id : Nat} {i : Item} {c : Instr} (h : MakesKey s id i c) {st : Byte}
    (hc : s.cellFor i = .error st) : exec c s = .next (s.stopItem id st) := by
  rcases h.works with ⟨rfl, hw⟩ | ⟨rfl, hw, p, hp, hfull⟩
  · show execKeyGenerate id s = _
    rw [execKeyGenerate, State.keyWork_of hw h.gate]
    simp [h.sound, h.root, h.slot, hc]
  · show execKeyDerive id s = _
    rw [execKeyDerive, State.keyWork_of hw h.gate]
    simp [h.sound, h.root, h.slot, hp, hfull, hc]

/-- The device's DRBG serves at once. -/
def Rng.deviceServes (g : Rng) : Prop :=
  g.fatal = false ∧ g.rawActive = false ∧ g.drbgs[8].on = true ∧ g.drbgs[8].count < 2 ^ 16

/-- A draw that is served reaches the random numbers only. -/
theorem State.drawDevice_of_deviceServes {s : State} (h : s.rng.deviceServes) (n : Nat) :
    ∃ f bs, s.drawDevice n = (s.modRng f, some bs) := by
  obtain ⟨hfatal, hraw, hon, hcount⟩ := h
  have hok : ¬ (s.rng.fatal || s.rng.rawActive || !s.rng.drbgs[8].on || decide (2 ^ 16 ≤ s.rng.drbgs[8].count)) = true := by
    rw [hfatal, hraw, hon, decide_eq_false (Nat.not_le.2 hcount)]
    decide
  exact ⟨_, _, if_neg hok⟩

/-- With a cell to be had and random values at hand the item makes its key. -/
theorem MakesKey.exec_of_cell {s : State} {id : Nat} {i : Item} {c : Instr} (h : MakesKey s id i c)
    {cell : Option (Fin 1024)} (hc : s.cellFor i = .ok cell) (hr : s.rng.deviceServes) :
    ∃ f k nonce, exec c s = .next ((s.modRng f).madeKey id i cell k nonce) := by
  rcases h.works with ⟨rfl, hw⟩ | ⟨rfl, hw, p, hp, hfull⟩
  · obtain ⟨f, r, hd⟩ := State.drawDevice_of_deviceServes hr 52
    show ∃ f k nonce, execKeyGenerate id s = _
    rw [execKeyGenerate, State.keyWork_of hw h.gate]
    simp only [h.sound, h.root, h.slot, hc, hd, Bool.false_eq_true, Bool.not_true, if_false]
    exact ⟨f, _, _, rfl⟩
  · obtain ⟨f, r, hd⟩ := State.drawDevice_of_deviceServes hr 12
    show ∃ f k nonce, execKeyDerive id s = _
    rw [execKeyDerive, State.keyWork_of hw h.gate]
    simp only [h.sound, h.root, h.slot, hp, hfull, hc, hd, Bool.false_eq_true, Bool.not_true, if_false]
    exact ⟨f, _, _, rfl⟩

/-- An item that makes a key, its blob going to host memory, ends with the key and the claim of its cell. -/
theorem State.item?_madeKey {s : State} {id : Nat} {i : Item} (hi : s.item? id = some i) (hl : i.live = true)
    (hhost : dF i.line 0x14 1 = 1) (c : Option (Fin 1024)) (k : Key) (nonce : List Byte) :
    (s.madeKey id i c k nonce).item? id = some (ended i 0 (k.keyId.toNat + cellWord c * 2 ^ 64)
      (.key (dF i.line 0x10 2) (some k) :: c.toList.map Effect.cellClaim)) := by
  unfold State.madeKey State.putBlob
  rw [if_pos hhost]
  obtain ⟨l, hw⟩ := s.hostWrite_eq (dF i.line 0x18 8) (k.blob (s.domainKey i.tenant) nonce)
  rw [hw]
  exact State.item?_endItem _ id i _ _ _ hi hl

-- ## Usable keys

/-- What the entry of an ancestor list says of its cell still holds. -/
def State.ancestorStands (s : State) (t : TenantId) (a : W16 × W32) : Prop :=
  a.1 = 0xFFFF ∨ (s.sec.cell a.1.toNat).valid = true ∧ (s.sec.cell a.1.toNat).tag = s.cellTag t ∧
    (s.sec.cell a.1.toNat).counter = a.2

theorem State.keyUsable_iff (s : State) (t : TenantId) (k : Key) :
    s.keyUsable t k = true ↔ ∀ a ∈ k.ancestors, s.ancestorStands t a := by
  simp [State.keyUsable, State.ancestorStands, and_assoc]

/-- A loaded key of the tenant's root and of the kind asked for is refused by its cells alone. -/
theorem State.slotKey_of_loaded {s : State} {t : TenantId} {slot attr : Nat} {k : Key}
    (hslot : slot < s.tenants[t].keySlots.toNat) (hk : sget? s.tenants[t].keys slot = some k)
    (hroot : k.testRoot = s.testRoot t) (hattr : attr = 0 ∨ k.attr.toNat = attr) :
    s.slotKey t slot attr = if s.keyUsable t k then .ok k else .error 0x83 := by
  unfold State.slotKey
  rw [if_neg (Nat.not_le.2 hslot), hk]
  have hask : ¬ (attr ≠ 0 ∧ k.attr.toNat ≠ attr) := fun h => hattr.elim h.1 h.2
  cases hu : s.keyUsable t k <;> simp [hroot, hask, hu]

-- ## The claim by KEY_GENERATE and KEY_DERIVE

/-- A key descriptor whose tenant is at its quota, or that finds no free cell, stops with NO_CELL. -/
theorem MakesKey.exec_noCell {s : State} {id : Nat} {i : Item} {c : Instr} (h : MakesKey s id i c) (hu : s.unclaimed)
    (hbit : bitOf (dF i.line 0x13 1) 0 = true)
    (hno : s.tenants[i.tenant].cells.toNat ≤ s.cellsBearing (s.cellTag i.tenant) ∨ ∀ k, ¬ s.cellFree k) :
    ∃ t, exec c s = .next t ∧ ItemLeft s id (stopped i 0x84) t := by
  have hcell := State.cellFor_of_no_freeCell hbit (State.freeCell_eq_none hu _ hno)
  exact ⟨_, h.exec_of_no_cell hcell, itemLeft_stop s id i 0x84 h.item.1⟩

/-- A key descriptor within its tenant's quota ends with the claim of the lowest free cell. -/
theorem MakesKey.exec_claims {s : State} {id : Nat} {i : Item} {c : Instr} (h : MakesKey s id i c) (hu : s.unclaimed)
    (hbit : bitOf (dF i.line 0x13 1) 0 = true) {k : Fin 1024}
    (hquota : s.cellsBearing (s.cellTag i.tenant) < s.tenants[i.tenant].cells.toNat) (hk : s.cellFree k)
    (hlow : ∀ j, j < k → ¬ s.cellFree j) (hhost : dF i.line 0x14 1 = 1) (hr : s.rng.deviceServes) :
    ∃ t x, exec c s = .next t ∧ t.item? id = some x ∧ x.state = .ended ∧ x.status = 0 ∧ Effect.cellClaim k ∈ x.effects := by
  have hcell := State.cellFor_of_freeCell hbit (State.freeCell_eq_lowest hu _ hquota hk hlow)
  obtain ⟨f, key, nonce, hexec⟩ := h.exec_of_cell hcell hr
  have hend := State.item?_madeKey (s := s.modRng f) h.item.1 h.item.2 hhost (some k) key nonce
  exact ⟨_, _, hexec, hend, rfl, rfl, by simp [ended]⟩

/-- Settles O47: the lowest free cell or NO_CELL, the tenant's tag at the commit, and KEY_INVALID for a key whose ancestors'
cells no longer stand. -/
theorem generationCellClaims : Obligations.GenerationCellClaims := by
  unfold Obligations.GenerationCellClaims
  intro s id i
  refine ⟨?noCell, ?claims, ?tagged, ?usable⟩
  case noCell =>
    rintro c ⟨hg, hf, hroot, hslot, hbit, hu, hc⟩ hno
    exact MakesKey.exec_noCell ⟨hg, hf, hroot, hslot, hc⟩ hu hbit hno
  case claims =>
    rintro c k ⟨hg, hf, hroot, hslot, hbit, hu, hc⟩ hquota hk hlow hhost hraw hon hcount
    exact MakesKey.exec_claims ⟨hg, hf, hroot, hslot, hc⟩ hu hbit hquota hk hlow hhost ⟨hf, hraw, hon, hcount⟩
  case tagged =>
    intro k hvalid hgen
    rw [State.applyEffect_cellClaim, State.modSec_sec, Sec.cell_writeCell _ _ _ hgen, ← hvalid]
    rfl
  case usable =>
    intro slot attr k hslot hk hroot hattr
    have hiff := s.keyUsable_iff i.tenant k
    rw [State.slotKey_of_loaded hslot hk hroot hattr]
    exact ⟨fun h => if_pos (hiff.2 h), fun h => if_neg (mt hiff.1 h)⟩

end Sys2Proof.Machine
end

section
/-! PROOFS. Power commands (R402, R404): what a command into the empty slot does, and which result a frequency has. -/

namespace Sys2Proof.Machine

-- ## A command reaches the empty slot (R402)

/-- A command that no operator sent ends with its result alone. -/
theorem State.endCmd_of_no_req (s : State) {c : PwrCmd} (hreq : c.req = none) (result : BitVec 3) :
    s.endCmd c result = s.modPwr (fun p => { p with cmd := none, pending := false, done := true, result := result }) := by
  simp only [State.endCmd, hreq]

/-- Into the empty slot a command goes by its check alone. -/
theorem State.powerCommand_of_empty {s : State} (hslot : s.pwr.cmd = none) (c : PwrCmd) : s.powerCommand c =
    if s.cmdCheck c ≠ 0 then s.endCmd c (s.cmdCheck c)
    else s.modPwr (fun p => { p with cmd := some c, pending := s.cmdWaits c }) :=
  if_neg (by simp [hslot])

theorem State.powerCommand_refused {s : State} {c : PwrCmd} (hslot : s.pwr.cmd = none) (hcheck : s.cmdCheck c ≠ 0) :
    s.powerCommand c = s.endCmd c (s.cmdCheck c) :=
  (State.powerCommand_of_empty hslot c).trans (if_pos hcheck)

theorem State.powerCommand_taken {s : State} {c : PwrCmd} (hslot : s.pwr.cmd = none) (hcheck : s.cmdCheck c = 0) :
    s.powerCommand c = s.modPwr (fun p => { p with cmd := some c, pending := s.cmdWaits c }) :=
  (State.powerCommand_of_empty hslot c).trans (if_neg (not_not_intro hcheck))

-- ## The check of a frequency (R404)

/-- The frequencies that a command may name: 100 MHz to 1,250 MHz in steps of 25 MHz. -/
def frequencyNamed (mhz : BitVec 11) : Prop := 100 ≤ mhz.toNat ∧ mhz.toNat ≤ 1250 ∧ mhz.toNat % 25 = 0

/-- The model's test for PARAM is the negation of `frequencyNamed`. -/
theorem not_frequencyNamed_iff (mhz : BitVec 11) :
    ¬ frequencyNamed mhz ↔ (mhz.toNat < 100 || 1250 < mhz.toNat || mhz.toNat % 25 ≠ 0) = true := by
  simp only [frequencyNamed, Bool.or_eq_true, decide_eq_true_eq]
  omega

theorem State.frequencyCheck_of_not_named (s : State) {mhz : BitVec 11} (h : ¬ frequencyNamed mhz) :
    s.frequencyCheck mhz = 5 :=
  if_pos ((not_frequencyNamed_iff mhz).1 h)

theorem State.frequencyCheck_of_named (s : State) {mhz : BitVec 11} (h : frequencyNamed mhz) :
    s.frequencyCheck mhz = if mhz.toNat < s.tick.priceMhz.toNat then 1 else 0 :=
  if_neg (mt (not_frequencyNamed_iff mhz).2 (not_not_intro h))

-- ## FREQUENCY_COMMAND

/-- The command that FREQUENCY_COMMAND sends: no domain, no state, no operator to answer. -/
def frequencyCmd (mhz : BitVec 11) : PwrCmd := { kind := 2, domain := 0, st := 0, mhz := mhz }

theorem State.cmdCheck_frequencyCmd (s : State) (mhz : BitVec 11) : s.cmdCheck (frequencyCmd mhz) = s.frequencyCheck mhz := rfl

theorem exec_frequencyCommand (mhz : BitVec 11) (s : State) :
    exec (.frequencyCommand mhz) s = .next (s.powerCommand (frequencyCmd mhz)) := rfl

theorem exec_frequencyCommand_refused {s : State} {mhz : BitVec 11} (hslot : s.pwr.cmd = none) {result : BitVec 3}
    (hcheck : s.frequencyCheck mhz = result) (hres : result ≠ 0) :
    exec (.frequencyCommand mhz) s =
      .next { s with pwr := { s.pwr with cmd := none, pending := false, done := true, result := result } } := by
  have hcode : s.cmdCheck (frequencyCmd mhz) = result := hcheck
  rw [exec_frequencyCommand, State.powerCommand_refused hslot (hcode ▸ hres), State.endCmd_of_no_req s rfl, hcode]
  rfl

theorem exec_frequencyCommand_taken {s : State} {mhz : BitVec 11} (hslot : s.pwr.cmd = none)
    (hcheck : s.frequencyCheck mhz = 0) :
    exec (.frequencyCommand mhz) s = .next { s with pwr :=
      { s.pwr with cmd := some (frequencyCmd mhz), pending := s.cmdWaits (frequencyCmd mhz) } } := by
  rw [exec_frequencyCommand, State.powerCommand_taken hslot ((s.cmdCheck_frequencyCmd mhz).trans hcheck)]
  rfl

/-- Settles O52: a frequency that may not be named has result PARAM, and one that may is compared with the pricing
frequency alone. -/
theorem frequencyCommands : Obligations.FrequencyCommands := by
  unfold Obligations.FrequencyCommands
  intro s mhz hslot
  refine ⟨fun hnot => ?param, fun hnamed hlow => ?belowPrice, fun hnamed hprice => ?taken⟩
  case param =>
    exact ⟨_, exec_frequencyCommand_refused hslot (s.frequencyCheck_of_not_named hnot) (by decide), rfl⟩
  case belowPrice =>
    have hcheck : s.frequencyCheck mhz = 1 := (s.frequencyCheck_of_named hnamed).trans (if_pos hlow)
    exact ⟨_, exec_frequencyCommand_refused hslot hcheck (by decide), rfl⟩
  case taken =>
    have hcheck : s.frequencyCheck mhz = 0 := (s.frequencyCheck_of_named hnamed).trans (if_neg (Nat.not_lt.2 hprice))
    exact ⟨frequencyCmd mhz, _, ⟨_, exec_frequencyCommand_taken hslot hcheck, rfl⟩, rfl, rfl, rfl⟩

end Sys2Proof.Machine
end
